-- ==== Sys2Proof/Word.lean ====
section
/-! DEFINITION. Word.lean: the word types of the DST-848 (R7, R8, R248) and the plainest arithmetic over them. -/

namespace Sys2Proof

/-- A register or doubleword, 64 bits (R7, R248). -/
abbrev Word := BitVec 64
/-- A byte (R7). -/
abbrev Byte := BitVec 8
/-- An instruction word (R265). -/
abbrev IWord := BitVec 32

/-- Bits `[hi:lo]` of a number (R7). -/
def bits (x hi lo : Nat) : Nat := x / 2 ^ lo % 2 ^ (hi + 1 - lo)

/-- Bit `i` of a number. -/
def bitAt (x i : Nat) : Bool := x / 2 ^ i % 2 == 1

/-- `x` with its bits `[hi:lo]` replaced by the low bits of `v`. -/
def putBits (x hi lo v : Nat) : Nat :=
  x / 2 ^ (hi + 1) * 2 ^ (hi + 1) + v % 2 ^ (hi + 1 - lo) * 2 ^ lo + x % 2 ^ lo

/-- Bits `[hi:lo]` of a register as a number. -/
def Word.bits (w : Word) (hi lo : Nat) : Nat := Sys2Proof.bits w.toNat hi lo

/-- The register with bits `[hi:lo]` replaced. -/
def Word.putBits (w : Word) (hi lo v : Nat) : Word := BitVec.ofNat 64 (Sys2Proof.putBits w.toNat hi lo v)

/-- `x` read as a `w`-bit two's complement number. -/
def signed (w x : Nat) : Int :=
  if x % 2 ^ w < 2 ^ (w - 1) then (x % 2 ^ w : Nat) else ((x % 2 ^ w : Nat) : Int) - (2 ^ w : Nat)

/-- `sext(v, w)` of R280: bits `[w-1:0]` sign-extended to 64 bits. -/
def sext (w : Nat) (v : Word) : Word := BitVec.ofInt 64 (signed w v.toNat)

/-- `zext(v, w)` of R280: bits `[w-1:0]` zero-extended to 64 bits. -/
def zext (w : Nat) (v : Word) : Word := BitVec.ofNat 64 (v.toNat % 2 ^ w)

/-- The truth value 1 or 0 as a register value. -/
def Word.ofBool (b : Bool) : Word := if b then 1#64 else 0#64

/-- The number made of bytes, lowest address first (R8). -/
def leNat : List Byte → Nat
  | [] => 0
  | b :: bs => b.toNat + 256 * leNat bs

/-- The `n` low bytes of a number, lowest address first (R8). -/
def leBytes : Nat → Nat → List Byte
  | 0, _ => []
  | n + 1, x => BitVec.ofNat 8 (x % 256) :: leBytes n (x / 256)

@[simp] theorem leBytes_length (n x : Nat) : (leBytes n x).length = n := by
  induction n generalizing x with
  | zero => rfl
  | succ n ih => simp [leBytes, ih]

end Sys2Proof
end

