-- ==== Sys2Proof/Syntax.lean ====
section
/-! DEFINITION. Syntax.lean: the steps of the DST-848, one constructor for each row of spec/opcode_table.json. Thread
instructions carry their decoded operand fields (R266-R271); their stall count (R272) is a field of the word and not of the
instruction, and stays beside it (`decode`, `encode`, `Thread.stall`). Filter instructions carry the fields of R432. A row that
is a step of another agent has no encoding and no operands of its own: its operands are those of the pending step that State
holds (Machine/Event.lean, notes/assumptions/2.md). Reserved codes of R269, R270, R228, R219 and R267 are not representable:
the decoder refuses them. -/

namespace Sys2Proof

/-- The stall count field (R272). -/
abbrev Stall := Fin 8

/-- An operand field other than K (R269). -/
inductive Opnd where
  | q (i : Fin 16)
  | n (k : Fin 44)
  | z
  | tid
  deriving DecidableEq, Repr

/-- An operand of an LK long form, which may name K (R269). -/
inductive OpndK where
  | r (o : Opnd)
  | k
  deriving DecidableEq, Repr

/-- A destination field (R270): queue only, a named register and the queue, or discarded. -/
inductive Dest where
  | push
  | reg (k : Fin 44)
  | drop
  deriving DecidableEq, Repr

/-- The four IEEE formats (R219, R221). -/
inductive FF4 where
  | d
  | f
  | h
  | bf
  deriving DecidableEq, Repr

/-- A binary8 format: precision minus 1, unsigned, finite (R219, R224, R225). -/
structure B8 where
  p : Fin 7
  uns : Bool
  fin : Bool
  deriving DecidableEq, Repr

/-- A floating-point format (R219). -/
inductive FFmt where
  | ieee (fm : FF4)
  | b8 (b : B8)
  deriving DecidableEq, Repr

/-- An integer format (R219, R223). -/
inductive IFmt where
  | s8 | z8 | s16 | z16 | s32 | z32 | s64 | z64
  deriving DecidableEq, Repr

/-- Rounding codes (R228). -/
inductive Rm where
  | rne | rtz | rtn | rtp | rna | dyn
  deriving DecidableEq, Repr

/-- Rounding codes of the short forms (R276). -/
inductive Rm4 where
  | dyn | rne | rtz | rna
  deriving DecidableEq, Repr

/-- Overflow modes of a binary8 result (R230). -/
inductive Ovf where
  | sat | ovf
  deriving DecidableEq, Repr

/-- Order qualifiers (R122, R267). -/
inductive Ord where
  | rlx | acq | rel | ar | sc
  deriving DecidableEq, Repr

/-- Scopes (R123, R267). -/
inductive Scope where
  | cl | die | pkg | dom | sys
  deriving DecidableEq, Repr

/-- Size codes of loads and stores (R323). -/
inductive MemSz where
  | z8 | s8 | z16 | s16 | z32 | s32 | d64
  deriving DecidableEq, Repr

/-- Width and sign of an atomic (R334). -/
inductive AmoW where
  | s32 | z32 | s64 | z64
  deriving DecidableEq, Repr

/-- Operations of `amo` (R335). -/
inductive AmoOp where
  | swap | add | and | or | xor | min | max
  deriving DecidableEq, Repr

/-- Predicates of the short `fcmp` (R308). -/
inductive Cmp4 where
  | eq | lt | le | un
  deriving DecidableEq, Repr

/-- Predicates of the long `fcmp` (R308). -/
inductive Cmp8 where
  | eq | lt | le | un | ne | ltq | leq | eqs
  deriving DecidableEq, Repr

/-- Payload lengths of a message (R353). -/
inductive MsgLen where
  | b16 | b32 | b48
  deriving DecidableEq, Repr

/-- Formats of an accumulator tile (R372). -/
inductive AccFmt where
  | f | d
  deriving DecidableEq, Repr

/-- Second source of a filter instruction (R432). -/
inductive FSrc where
  | reg (b : Fin 8)
  | imm (v : BitVec 16)
  deriving DecidableEq, Repr

/-- Coherence classes (R32, R81). -/
inductive MemClass where
  | D | G | U | W
  deriving DecidableEq, Repr

/-- Kinds of access in a translation and in an access descriptor (R280, R400). -/
inductive AccKind where
  | read | write | rmw | exec | sync | fetch
  deriving DecidableEq, Repr

/-- Who makes an access to device control space (R443, R444). -/
inductive HostFn where
  | pf
  | vf (v : Nat)
  | supervisor (part : Nat)
  deriving DecidableEq, Repr

/-- What a sync operation does to SYNCWORD (R338): `lock` and `try_` set a 0 to 1, `lock` only where no waiter is queued; `store` and `add`
release. -/
inductive SyncFn where
  | lock
  | try_
  | store
  | add
  deriving DecidableEq, Repr

/-- An operation performed at a home or bank (R104, R115). -/
inductive HomeOp where
  | read (size : Nat)
  | write (data : List (Option Byte))
  | amo (w : AmoW) (op : AmoOp) (x : Word)
  | cas (w : AmoW) (cmp : Word) (new : Word)
  /-- an operation of R338 on a SYNCWORD -/
  | sync (f : SyncFn) (x : Word)
  deriving DecidableEq, Repr

/-- Why a home sends an invalidation (R86, R87). -/
inductive InvCause where
  | commit (uid : Nat)
  | homeWrite
  | replace
  deriving DecidableEq, Repr

/-- What a scrub of a line finds, in its memory or in the copy of its L2 slice (R70, R71). -/
inductive ScrubResult where
  | clean
  | corrected
  | uncorrectable
  | l2Corrected
  | l2Uncorrectable
  deriving DecidableEq, Repr

/-- One constructor for each row of the table of operations and events; the comment gives the row and the rules. -/
inductive Instr where
  /- Thread instructions (R266, R275). -/
  | add (d : Dest) (a : Opnd) (b : Opnd)  -- ADD (R286)
  | sub (d : Dest) (a : Opnd) (b : Opnd)  -- SUB (R286)
  | neg (d : Dest) (a : Opnd)  -- NEG (R286)
  | mul (d : Dest) (a : Opnd) (b : Opnd)  -- MUL (R286)
  | mulhS (d : Dest) (a : Opnd) (b : Opnd)  -- MULH_S (R286)
  | mulhZ (d : Dest) (a : Opnd) (b : Opnd)  -- MULH_Z (R286)
  | minS (d : Dest) (a : Opnd) (b : Opnd)  -- MIN_S (R286)
  | minZ (d : Dest) (a : Opnd) (b : Opnd)  -- MIN_Z (R286)
  | maxS (d : Dest) (a : Opnd) (b : Opnd)  -- MAX_S (R286)
  | maxZ (d : Dest) (a : Opnd) (b : Opnd)  -- MAX_Z (R286)
  | abs (d : Dest) (a : Opnd)  -- ABS (R286)
  | divS (d : Dest) (a : Opnd) (b : Opnd)  -- DIV_S (R287)
  | divZ (d : Dest) (a : Opnd) (b : Opnd)  -- DIV_Z (R287)
  | remS (d : Dest) (a : Opnd) (b : Opnd)  -- REM_S (R287)
  | remZ (d : Dest) (a : Opnd) (b : Opnd)  -- REM_Z (R287)
  | and (d : Dest) (a : Opnd) (b : Opnd)  -- AND (R288)
  | or (d : Dest) (a : Opnd) (b : Opnd)  -- OR (R288)
  | xor (d : Dest) (a : Opnd) (b : Opnd)  -- XOR (R288)
  | andn (d : Dest) (a : Opnd) (b : Opnd)  -- ANDN (R288)
  | orn (d : Dest) (a : Opnd) (b : Opnd)  -- ORN (R288)
  | shl (d : Dest) (a : Opnd) (b : Opnd)  -- SHL (R289)
  | shr (d : Dest) (a : Opnd) (b : Opnd)  -- SHR (R289)
  | sar (d : Dest) (a : Opnd) (b : Opnd)  -- SAR (R289)
  | rotl (d : Dest) (a : Opnd) (b : Opnd)  -- ROTL (R289)
  | clz (d : Dest) (a : Opnd)  -- CLZ (R290)
  | ctz (d : Dest) (a : Opnd)  -- CTZ (R290)
  | popc (d : Dest) (a : Opnd)  -- POPC (R290)
  | brev (d : Dest) (a : Opnd)  -- BREV (R290)
  | bswap (d : Dest) (a : Opnd)  -- BSWAP (R290)
  | sext8 (d : Dest) (a : Opnd)  -- SEXT_8 (R290)
  | sext16 (d : Dest) (a : Opnd)  -- SEXT_16 (R290)
  | sext32 (d : Dest) (a : Opnd)  -- SEXT_32 (R290)
  | zext8 (d : Dest) (a : Opnd)  -- ZEXT_8 (R290)
  | zext16 (d : Dest) (a : Opnd)  -- ZEXT_16 (R290)
  | zext32 (d : Dest) (a : Opnd)  -- ZEXT_32 (R290)
  | cmpEq (d : Dest) (a : Opnd) (b : Opnd)  -- CMP_EQ (R291)
  | cmpNe (d : Dest) (a : Opnd) (b : Opnd)  -- CMP_NE (R291)
  | cmpLtS (d : Dest) (a : Opnd) (b : Opnd)  -- CMP_LT_S (R291)
  | cmpLtZ (d : Dest) (a : Opnd) (b : Opnd)  -- CMP_LT_Z (R291)
  | cmpLeS (d : Dest) (a : Opnd) (b : Opnd)  -- CMP_LE_S (R291)
  | cmpLeZ (d : Dest) (a : Opnd) (b : Opnd)  -- CMP_LE_Z (R291)
  | sel (d : Dest) (a : Opnd) (b : Opnd)  -- SEL (R292)
  | crc8 (d : Dest) (a : Opnd) (b : Opnd)  -- CRC_8 (R293)
  | crc16 (d : Dest) (a : Opnd) (b : Opnd)  -- CRC_16 (R293)
  | crc32 (d : Dest) (a : Opnd) (b : Opnd)  -- CRC_32 (R293)
  | crc64 (d : Dest) (a : Opnd) (b : Opnd)  -- CRC_64 (R293)
  | bfxS (d : Dest) (a : Opnd) (b : Opnd)  -- BFX_S (R294)
  | bfxZ (d : Dest) (a : Opnd) (b : Opnd)  -- BFX_Z (R294)
  | bfi (d : Dest) (a : Opnd) (b : Opnd)  -- BFI (R294)
  | addi (d : Dest) (a : Opnd) (imm : BitVec 10)  -- ADDI (R295)
  | shli (d : Dest) (a : Opnd) (imm : BitVec 10)  -- SHLI (R295)
  | shri (d : Dest) (a : Opnd) (imm : BitVec 10)  -- SHRI (R295)
  | sari (d : Dest) (a : Opnd) (imm : BitVec 10)  -- SARI (R295)
  | li (d : Dest) (imm : BitVec 10)  -- LI (R295)
  | lih (d : Dest) (a : Opnd) (imm : BitVec 10)  -- LIH (R295)
  | lea (d : Dest) (imm : BitVec 10)  -- LEA (R295)
  | addiLong (d : Dest) (a : OpndK) (k : IWord)  -- ADDI_LONG (R277)
  | shliLong (d : Dest) (a : OpndK) (k : IWord)  -- SHLI_LONG (R277)
  | shriLong (d : Dest) (a : OpndK) (k : IWord)  -- SHRI_LONG (R277)
  | sariLong (d : Dest) (a : OpndK) (k : IWord)  -- SARI_LONG (R277)
  | liLong (d : Dest) (k : IWord)  -- LI_LONG (R277)
  | lihLong (d : Dest) (a : OpndK) (k : IWord)  -- LIH_LONG (R277)
  | leaLong (d : Dest) (k : IWord)  -- LEA_LONG (R277)
  | bz (a : Opnd) (off : BitVec 16)  -- BZ (R297)
  | jmp (off : BitVec 16)  -- JMP (R297)
  | bnz (a : Opnd) (off : BitVec 16)  -- BNZ (R297)
  | call (off : BitVec 16)  -- CALL (R298)
  | jmpr (a : Opnd)  -- JMPR (R299)
  | callr (d : Dest) (a : Opnd)  -- CALLR (R298)
  | ret (a : Opnd)  -- RET (R299)
  | bccEq (a : Opnd) (b : Opnd) (off : BitVec 10)  -- BCC_EQ (R300)
  | bccNe (a : Opnd) (b : Opnd) (off : BitVec 10)  -- BCC_NE (R300)
  | bccLtS (a : Opnd) (b : Opnd) (off : BitVec 10)  -- BCC_LT_S (R300)
  | bccLtZ (a : Opnd) (b : Opnd) (off : BitVec 10)  -- BCC_LT_Z (R300)
  | bccEqLong (a : OpndK) (b : OpndK) (k : IWord)  -- BCC_EQ_LONG (R301)
  | bccNeLong (a : OpndK) (b : OpndK) (k : IWord)  -- BCC_NE_LONG (R301)
  | bccLtSLong (a : OpndK) (b : OpndK) (k : IWord)  -- BCC_LT_S_LONG (R301)
  | bccLtZLong (a : OpndK) (b : OpndK) (k : IWord)  -- BCC_LT_Z_LONG (R301)
  | bccGeS (a : OpndK) (b : OpndK) (k : IWord)  -- BCC_GE_S (R301)
  | bccGeZ (a : OpndK) (b : OpndK) (k : IWord)  -- BCC_GE_Z (R301)
  | bzLong (a : OpndK) (k : IWord)  -- BZ_LONG (R301)
  | bnzLong (a : OpndK) (k : IWord)  -- BNZ_LONG (R301)
  | jmpLong (k : IWord)  -- JMP_LONG (R301)
  | callLong (k : IWord)  -- CALL_LONG (R301)
  | ld (d : Dest) (a : Opnd) (off : BitVec 7) (sz : MemSz)  -- LD (R327, R329)
  | st (v : Opnd) (a : Opnd) (off : BitVec 7) (sz : MemSz)  -- ST (R327, R329)
  | ldf (d : Dest) (a : Opnd) (off : BitVec 8) (df : FF4)  -- LDF (R330, R332)
  | ldLong (d : Dest) (a : OpndK) (sz : MemSz) (k : IWord)  -- LD_LONG (R328, R329)
  | stLong (v : OpndK) (a : OpndK) (sz : MemSz) (k : IWord)  -- ST_LONG (R328, R329)
  | ldfLong (d : Dest) (a : OpndK) (rm : Rm) (df : FF4) (k : IWord)  -- LDF_LONG (R331, R332)
  | amo (d : Dest) (a : Opnd) (b : Opnd) (w : AmoW) (ord : Ord) (scope : Scope) (op : AmoOp)  -- AMO (R334, R335)
  | cas (d : Dest) (a : Opnd) (b : Opnd) (c : Opnd) (w : AmoW) (ord : Ord) (scope : Scope)  -- CAS (R334, R335)
  | pf (a : Opnd)  -- PF (R333)
  | wb (a : Opnd)  -- WB (R333)
  | inv (a : Opnd)  -- INV (R333)
  | fence (ord : Ord) (scope : Scope)  -- FENCE (R337)
  | syncacqLk (a : Opnd) (scope : Scope)  -- SYNCACQ_LK (R338)
  | syncacqGe (a : Opnd) (scope : Scope)  -- SYNCACQ_GE (R338)
  | syncacqTry (d : Dest) (a : Opnd) (scope : Scope)  -- SYNCACQ_TRY (R338)
  | syncrelSt (a : Opnd) (scope : Scope)  -- SYNCREL_ST (R338)
  | syncrelAdd (d : Dest) (a : Opnd) (scope : Scope)  -- SYNCREL_ADD (R338)
  | syncrelClr (a : Opnd) (scope : Scope)  -- SYNCREL_CLR (R338)
  | monitor (a : Opnd)  -- MONITOR (R341)
  | mwait (d : Dest) (a : Opnd)  -- MWAIT (R342)
  | wsref (d : Dest) (a : Opnd)  -- WSREF (R343)
  | fadd (d : Dest) (a : Opnd) (b : Opnd) (fm : FF4) (r : Rm4)  -- FADD (R305)
  | fsub (d : Dest) (a : Opnd) (b : Opnd) (fm : FF4) (r : Rm4)  -- FSUB (R305)
  | fmul (d : Dest) (a : Opnd) (b : Opnd) (fm : FF4) (r : Rm4)  -- FMUL (R305)
  | fdiv (d : Dest) (a : Opnd) (b : Opnd) (fm : FF4) (r : Rm4)  -- FDIV (R305)
  | fsqrt (d : Dest) (a : Opnd) (fm : FF4) (r : Rm4)  -- FSQRT (R305)
  | frem (d : Dest) (a : Opnd) (b : Opnd) (fm : FF4)  -- FREM (R305)
  | fmin (d : Dest) (a : Opnd) (b : Opnd) (fm : FF4)  -- FMIN (R307)
  | fmax (d : Dest) (a : Opnd) (b : Opnd) (fm : FF4)  -- FMAX (R307)
  | fminn (d : Dest) (a : Opnd) (b : Opnd) (fm : FF4)  -- FMINN (R307)
  | fmaxn (d : Dest) (a : Opnd) (b : Opnd) (fm : FF4)  -- FMAXN (R307)
  | fcmp (d : Dest) (a : Opnd) (b : Opnd) (fm : FF4) (c : Cmp4)  -- FCMP (R308)
  | fclass (d : Dest) (a : Opnd) (fm : FF4)  -- FCLASS (R309)
  | fsgnJ (d : Dest) (a : Opnd) (b : Opnd) (fm : FF4)  -- FSGN_J (R309)
  | fsgnN (d : Dest) (a : Opnd) (b : Opnd) (fm : FF4)  -- FSGN_N (R309)
  | fsgnX (d : Dest) (a : Opnd) (b : Opnd) (fm : FF4)  -- FSGN_X (R309)
  | frint (d : Dest) (a : Opnd) (fm : FF4) (r : Rm4)  -- FRINT (R310)
  | fscalb (d : Dest) (a : Opnd) (b : Opnd) (fm : FF4) (r : Rm4)  -- FSCALB (R311)
  | flogb (d : Dest) (a : Opnd) (fm : FF4)  -- FLOGB (R312)
  | fnextUp (d : Dest) (a : Opnd) (fm : FF4)  -- FNEXT_UP (R313)
  | fnextDn (d : Dest) (a : Opnd) (fm : FF4)  -- FNEXT_DN (R313)
  | faddLong (d : Dest) (a : Opnd) (b : Opnd) (fm : FFmt) (rm : Rm) (ov : Ovf)  -- FADD_LONG (R314)
  | fsubLong (d : Dest) (a : Opnd) (b : Opnd) (fm : FFmt) (rm : Rm) (ov : Ovf)  -- FSUB_LONG (R314)
  | fmulLong (d : Dest) (a : Opnd) (b : Opnd) (fm : FFmt) (rm : Rm) (ov : Ovf)  -- FMUL_LONG (R314)
  | fdivLong (d : Dest) (a : Opnd) (b : Opnd) (fm : FFmt) (rm : Rm) (ov : Ovf)  -- FDIV_LONG (R314)
  | fsqrtLong (d : Dest) (a : Opnd) (fm : FFmt) (rm : Rm) (ov : Ovf)  -- FSQRT_LONG (R314)
  | fremLong (d : Dest) (a : Opnd) (b : Opnd) (fm : FFmt)  -- FREM_LONG (R314)
  | fminLong (d : Dest) (a : Opnd) (b : Opnd) (fm : FFmt)  -- FMIN_LONG (R314)
  | fmaxLong (d : Dest) (a : Opnd) (b : Opnd) (fm : FFmt)  -- FMAX_LONG (R314)
  | fminnLong (d : Dest) (a : Opnd) (b : Opnd) (fm : FFmt)  -- FMINN_LONG (R314)
  | fmaxnLong (d : Dest) (a : Opnd) (b : Opnd) (fm : FFmt)  -- FMAXN_LONG (R314)
  | fcmpLong (d : Dest) (a : Opnd) (b : Opnd) (fm : FFmt) (c : Cmp8)  -- FCMP_LONG (R308)
  | fclassLong (d : Dest) (a : Opnd) (fm : FFmt)  -- FCLASS_LONG (R314)
  | fsgnJLong (d : Dest) (a : Opnd) (b : Opnd) (fm : FFmt)  -- FSGN_J_LONG (R314)
  | fsgnNLong (d : Dest) (a : Opnd) (b : Opnd) (fm : FFmt)  -- FSGN_N_LONG (R314)
  | fsgnXLong (d : Dest) (a : Opnd) (b : Opnd) (fm : FFmt)  -- FSGN_X_LONG (R314)
  | frintLong (d : Dest) (a : Opnd) (fm : FFmt) (rm : Rm) (ov : Ovf)  -- FRINT_LONG (R310)
  | frintX (d : Dest) (a : Opnd) (fm : FFmt) (rm : Rm) (ov : Ovf)  -- FRINT_X (R310)
  | fscalbLong (d : Dest) (a : Opnd) (b : Opnd) (fm : FFmt) (rm : Rm) (ov : Ovf)  -- FSCALB_LONG (R314)
  | flogbLong (d : Dest) (a : Opnd) (fm : FFmt)  -- FLOGB_LONG (R314)
  | fnextUpLong (d : Dest) (a : Opnd) (fm : FFmt)  -- FNEXT_UP_LONG (R314)
  | fnextDnLong (d : Dest) (a : Opnd) (fm : FFmt)  -- FNEXT_DN_LONG (R314)
  | fma (d : Dest) (a : Opnd) (b : Opnd) (c : Opnd) (fm : FFmt) (rm : Rm) (ov : Ovf)  -- FMA (R306)
  | fms (d : Dest) (a : Opnd) (b : Opnd) (c : Opnd) (fm : FFmt) (rm : Rm) (ov : Ovf)  -- FMS (R306)
  | fnma (d : Dest) (a : Opnd) (b : Opnd) (c : Opnd) (fm : FFmt) (rm : Rm) (ov : Ovf)  -- FNMA (R306)
  | fnms (d : Dest) (a : Opnd) (b : Opnd) (c : Opnd) (fm : FFmt) (rm : Rm) (ov : Ovf)  -- FNMS (R306)
  | fcvt (d : Dest) (a : Opnd) (dst : FFmt) (src : FFmt) (rm : Rm) (ov : Ovf)  -- FCVT (R316)
  | fcvti (d : Dest) (a : Opnd) (dst : IFmt) (src : FFmt) (rm : Rm)  -- FCVTI (R316)
  | icvtf (d : Dest) (a : Opnd) (dst : FFmt) (src : IFmt) (rm : Rm) (ov : Ovf)  -- ICVTF (R316)
  | fpk8 (d : Dest) (a : Opnd) (b : Opnd) (c : Opnd) (dst : B8) (src : FF4) (rm : Rm) (ov : Ovf)  -- FPK8 (R317)
  | fupk8 (d : Dest) (a : Opnd) (b : Opnd) (dst : FF4) (src : B8) (rm : Rm)  -- FUPK8 (R317)
  | xinit (a : Opnd) (b : Opnd)  -- XINIT (R318)
  | xadd (a : Opnd) (b : Opnd)  -- XADD (R318)
  | xmad (a : Opnd) (b : Opnd) (c : Opnd)  -- XMAD (R318)
  | xaddn (a : Opnd) (b : Opnd)  -- XADDN (R318)
  | xrnd (d : Dest) (a : Opnd) (rm : Rm)  -- XRND (R318)
  | xstat (d : Dest) (a : Opnd)  -- XSTAT (R318)
  | join (d : Dest) (a : Opnd)  -- JOIN (R346)
  | self (d : Dest) (e : Fin 6)  -- SELF (R348)
  | spawn (a : Opnd) (b : Opnd) (c : Opnd) (idx : Bool)  -- SPAWN (R344, R345)
  | grp (d : Dest) (slot : Fin 4)  -- GRP (R349)
  | barArrive (d : Dest) (slot : Fin 4)  -- BAR_ARRIVE (R350)
  | barWait (slot : Fin 4)  -- BAR_WAIT (R350)
  | bar (d : Dest) (slot : Fin 4)  -- BAR (R350)
  | convene (d : Dest) (slot : Fin 4)  -- CONVENE (R351)
  | disband (slot : Fin 4)  -- DISBAND (R351)
  | send16 (a : Opnd) (b : Opnd)  -- SEND_16 (R353, R354)
  | send32 (a : Opnd) (b : Opnd)  -- SEND_32 (R353, R354)
  | send48 (a : Opnd) (b : Opnd)  -- SEND_48 (R353, R354)
  | sendLong (a : Opnd) (b : Opnd) (len : MsgLen) (rel : Bool) (scope : Scope) (dfr : Bool)  -- SEND_LONG (R353, R354)
  | recv (d : Dest) (a : Opnd) (b : Opnd)  -- RECV (R355)
  | mbpeek (d : Dest) (a : Opnd)  -- MBPEEK (R355)
  | rcpDef (n : Fin 4) (idx : Fin 128)  -- RCP_DEF (R356, R357)
  | rcpTag (idx : Fin 128) (r : Opnd)  -- RCP_TAG (R356, R358)
  | rcpDrop (r : Opnd)  -- RCP_DROP (R356, R358)
  | rcpClr (r : Opnd)  -- RCP_CLR (R356, R358)
  | push (d : Dest) (a : Opnd)  -- PUSH (R377)
  | pushDefer (d : Dest) (a : Opnd)  -- PUSH_DEFER (R377)
  | pop (d : Dest) (a : Opnd)  -- POP (R378)
  | waitt (a : Opnd)  -- WAITT (R379)
  | tagff (d : Dest) (a : Opnd)  -- TAGFF (R379)
  | tagclr (a : Opnd)  -- TAGCLR (R379)
  | lrec (a : Opnd) (b : Opnd)  -- LREC (R381)
  | subMc (d : Dest) (a : Opnd) (b : Opnd)  -- SUB_MC (R382)
  | unsub (a : Opnd)  -- UNSUB (R382)
  | ovld (d : Dest) (a : Opnd) (b : Opnd)  -- OVLD (R383)
  | ringcfg (a : Opnd) (g : Fin 16)  -- RINGCFG (R364)
  | rpushRes (d : Dest) (g : Fin 16)  -- RPUSH_RES (R365)
  | rpushFill (a : Opnd) (g : Fin 16)  -- RPUSH_FILL (R365)
  | rpop (g : Fin 16)  -- RPOP (R366)
  | mma (ra : Fin 16) (rb : Fin 16) (acc : Fin 8) (fm : FFmt)  -- MMA (R368)
  | mmaKeepa (ra : Fin 16) (rb : Fin 16) (acc : Fin 8) (fm : FFmt)  -- MMA_KEEPA (R368)
  | mmaKeepb (ra : Fin 16) (rb : Fin 16) (acc : Fin 8) (fm : FFmt)  -- MMA_KEEPB (R368)
  | mmaKeep (ra : Fin 16) (rb : Fin 16) (acc : Fin 8) (fm : FFmt)  -- MMA_KEEP (R368)
  | mmaLong (ra : Fin 16) (rb : Fin 16) (acc : Fin 8) (fa : FFmt) (fb : FFmt) (rm : Rm) (ka : Bool) (kb : Bool)  -- MMA_LONG (R368)
  | accz (fm : AccFmt) (acc : Fin 8)  -- ACCZ (R374)
  | accld (fm : AccFmt) (a : Opnd) (acc : Fin 8)  -- ACCLD (R374)
  | accst (fm : FFmt) (a : Opnd) (acc : Fin 8) (rm : Rm)  -- ACCST (R375)
  | accstOvf (fm : FFmt) (a : Opnd) (acc : Fin 8) (rm : Rm)  -- ACCST_OVF (R375)
  | mstat (d : Dest) (acc : Fin 8) (e : Fin 7)  -- MSTAT (R376)
  | forkw (d : Dest) (a : Opnd)  -- FORKW (R384)
  | forkwDefer (d : Dest) (a : Opnd)  -- FORKW_DEFER (R384)
  | choose (a : Opnd)  -- CHOOSE (R385)
  | wself (d : Dest)  -- WSELF (R385)
  | csrr (d : Dest) (num : BitVec 10)  -- CSRR (R386)
  | csrw (a : Opnd) (num : BitVec 10)  -- CSRW (R386)
  | csrx (d : Dest) (a : Opnd) (num : BitVec 10)  -- CSRX (R386)
  | trap (a : Opnd)  -- TRAP (R387)
  | sysc (d : Dest) (a : Opnd)  -- SYSC (R387)
  | tlbinvPg (a : Opnd) (b : Opnd)  -- TLBINV_PG (R388)
  | tlbinvCtx (a : Opnd) (b : Opnd)  -- TLBINV_CTX (R388)
  | tlbinvAll (a : Opnd) (b : Opnd)  -- TLBINV_ALL (R388)
  | tlbinvLong (a : Opnd) (b : Opnd) (kind : Fin 3) (scope : Scope)  -- TLBINV_LONG (R388)
  | ckpt (d : Dest)  -- CKPT (R389)
  | cap (d : Dest) (a : Opnd)  -- CAP (R389)
  /- Filter instructions of Sillage (R432). -/
  | filterLdev (d : Fin 8) (n : Fin 16)  -- FILTER_LDEV (R433)
  | filterMulu (d : Fin 8) (a : Fin 8) (s : FSrc)  -- FILTER_MULU (R433)
  | filterLi (d : Fin 8) (imm : BitVec 16)  -- FILTER_LI (R433)
  | filterAdd (d : Fin 8) (a : Fin 8) (s : FSrc)  -- FILTER_ADD (R433)
  | filterSub (d : Fin 8) (a : Fin 8) (s : FSrc)  -- FILTER_SUB (R433)
  | filterAnd (d : Fin 8) (a : Fin 8) (s : FSrc)  -- FILTER_AND (R433)
  | filterOr (d : Fin 8) (a : Fin 8) (s : FSrc)  -- FILTER_OR (R433)
  | filterXor (d : Fin 8) (a : Fin 8) (s : FSrc)  -- FILTER_XOR (R433)
  | filterShl (d : Fin 8) (a : Fin 8) (s : FSrc)  -- FILTER_SHL (R433)
  | filterShr (d : Fin 8) (a : Fin 8) (s : FSrc)  -- FILTER_SHR (R433)
  | filterMin (d : Fin 8) (a : Fin 8) (s : FSrc)  -- FILTER_MIN (R433)
  | filterMax (d : Fin 8) (a : Fin 8) (s : FSrc)  -- FILTER_MAX (R433)
  | filterBeq (a : Fin 8) (b : Fin 8) (off : Fin 64)  -- FILTER_BEQ (R433)
  | filterBne (a : Fin 8) (b : Fin 8) (off : Fin 64)  -- FILTER_BNE (R433)
  | filterBltu (a : Fin 8) (b : Fin 8) (off : Fin 64)  -- FILTER_BLTU (R433)
  | filterBgeu (a : Fin 8) (b : Fin 8) (off : Fin 64)  -- FILTER_BGEU (R433)
  | filterBr (off : Fin 64)  -- FILTER_BR (R433)
  | filterHinc (obj : Fin 64) (a : Fin 8) (b : Fin 8)  -- FILTER_HINC (R434)
  | filterCms (obj : Fin 64) (a : Fin 8) (b : Fin 8)  -- FILTER_CMS (R434)
  | filterHll (obj : Fin 64) (a : Fin 8)  -- FILTER_HLL (R434)
  | filterLdo (d : Fin 8) (obj : Fin 64) (a : Fin 8)  -- FILTER_LDO (R433)
  | filterTrig (n : Fin 16) (a : Fin 8)  -- FILTER_TRIG (R435)
  | filterExp (a : Fin 8) (b : Fin 8) (tag : BitVec 8)  -- FILTER_EXP (R436)
  /- Thread and filter instructions without operand fields. -/
  | exit  -- EXIT (R302)
  | nop  -- NOP (R303)
  | yield  -- YIELD (R347)
  | abandon  -- ABANDON (R385)
  | eret  -- ERET (R394)
  | halt  -- HALT (R389)
  | bkpt  -- BKPT (R389)
  | filterSreq  -- FILTER_SREQ (R426, R433)
  | filterEnd  -- FILTER_END (R433)
  /- Steps of the other agents; their operands are the pending step that State holds. -/
  | mmaStart  -- MMA_START (R369)
  | mmaRetirement  -- MMA_RETIREMENT (R370)
  | choiceEvent  -- CHOICE_EVENT (R153)
  | deferredEntryPerform  -- DEFERRED_ENTRY_PERFORM (R151)
  | copy  -- COPY (R167)
  | gather  -- GATHER (R172)
  | fill  -- FILL (R168)
  | readq  -- READQ (R173)
  | mcast  -- MCAST (R179)
  | mark  -- MARK (R181)
  | ovldCommand  -- OVLD_COMMAND (R383)
  | commandCompletion  -- COMMAND_COMPLETION (R181)
  | channelResume  -- CHANNEL_RESUME (R175)
  | multicastJoin  -- MULTICAST_JOIN (R178)
  | multicastLeave  -- MULTICAST_LEAVE (R178)
  | multicastDelivery  -- MULTICAST_DELIVERY (R179)
  | contextKill  -- CONTEXT_KILL (R414)
  | fenceOutAcknowledgement  -- FENCE_OUT_ACKNOWLEDGEMENT (R185)
  | killStampWrite  -- KILL_STAMP_WRITE (R185)
  | pageWalk  -- PAGE_WALK (R50)
  | chunkEnd  -- CHUNK_END (R102)
  | commitRequest  -- COMMIT_REQUEST (R112)
  | commitGrant  -- COMMIT_GRANT (R111)
  | commitConfirmation  -- COMMIT_CONFIRMATION (R113)
  | invalidation  -- INVALIDATION (R113)
  | invalidationAcknowledgement  -- INVALIDATION_ACKNOWLEDGEMENT (R86)
  | invalidationRefusal  -- INVALIDATION_REFUSAL (R113)
  | commitPoint  -- COMMIT_POINT (R114)
  | pinTokenGrant  -- PIN_TOKEN_GRANT (R116)
  | readMiss  -- READ_MISS (R86)
  | forwardedRead  -- FORWARDED_READ (R88)
  | ownerData  -- OWNER_DATA (R86)
  | negativeAcknowledgement  -- NEGATIVE_ACKNOWLEDGEMENT (R88)
  | writeBack  -- WRITE_BACK (R86)
  | l1Replacement  -- L1_REPLACEMENT (R57)
  | homePerformedWrite  -- HOME_PERFORMED_WRITE (R86)
  | recall  -- RECALL (R86)
  | sliceReplacement  -- SLICE_REPLACEMENT (R87)
  | singletonAccess  -- SINGLETON_ACCESS (R115)
  | postedStorePerform  -- POSTED_STORE_PERFORM (R120)
  | watchArrival  -- WATCH_ARRIVAL (R341)
  | mwaitLimitExpiry  -- MWAIT_LIMIT_EXPIRY (R342)
  | answerResend  -- ANSWER_RESEND (R96)
  | clusterReport  -- CLUSTER_REPORT (R96)
  | clusterFence  -- CLUSTER_FENCE (R96)
  | ucieLinkFailure  -- UCIE_LINK_FAILURE (R98)
  | dieFence  -- DIE_FENCE (R98)
  | messageAgeDiscard  -- MESSAGE_AGE_DISCARD (R97)
  | sequencerTicket  -- SEQUENCER_TICKET (R126)
  | sequencerTakeover  -- SEQUENCER_TAKEOVER (R127)
  | hbmScrub  -- HBM_SCRUB (R70)
  | hbmRefresh  -- HBM_REFRESH (R71)
  | weightStoreWindowOpen  -- WEIGHT_STORE_WINDOW_OPEN (R74)
  | weightStoreWindowClose  -- WEIGHT_STORE_WINDOW_CLOSE (R75)
  | granuleRestore  -- GRANULE_RESTORE (R79)
  | contextSwitchOut  -- CONTEXT_SWITCH_OUT (R409)
  | contextSwitchIn  -- CONTEXT_SWITCH_IN (R409)
  | tileSwap  -- TILE_SWAP (R411)
  | queueTailChange  -- QUEUE_TAIL_CHANGE (R187)
  | launchRecordTake  -- LAUNCH_RECORD_TAKE (R189)
  | rangeRequest  -- RANGE_REQUEST (R193)
  | shareRebalance  -- SHARE_REBALANCE (R193)
  | priorityAging  -- PRIORITY_AGING (R194)
  | stealProbe  -- STEAL_PROBE (R200)
  | recordAdmission  -- RECORD_ADMISSION (R201, R202)
  | granulePlacementEviction  -- GRANULE_PLACEMENT_EVICTION (R203)
  | slotWaitMark  -- SLOT_WAIT_MARK (R214)
  | longMissTimeout  -- LONG_MISS_TIMEOUT (R210)
  | threadEviction  -- THREAD_EVICTION (R211)
  | wakeConditionMet  -- WAKE_CONDITION_MET (R212)
  | launchCompletion  -- LAUNCH_COMPLETION (R191)
  | vfSliceEnd  -- VF_SLICE_END (R450)
  | trapDelivery  -- TRAP_DELIVERY (R390)
  | dctlHalt  -- DCTL_HALT (R419)
  | dctlRel  -- DCTL_REL (R420)
  | crossTriggerHalt  -- CROSS_TRIGGER_HALT (R421)
  | dtdataAccess  -- DTDATA_ACCESS (R418)
  | trbaseWrite  -- TRBASE_WRITE (R418)
  | traceStateChange  -- TRACE_STATE_CHANGE (R423)
  | traceSpanRecord  -- TRACE_SPAN_RECORD (R423)
  | samplePeriod  -- SAMPLE_PERIOD (R426)
  | sampleRequestTake  -- SAMPLE_REQUEST_TAKE (R426)
  | sillageEvent  -- SILLAGE_EVENT (R429)
  | sillageBudgetRefill  -- SILLAGE_BUDGET_REFILL (R431)
  | spctlInstall  -- SPCTL_INSTALL (R434)
  | spctlUninstall  -- SPCTL_UNINSTALL (R428)
  | atctlAttach  -- ATCTL_ATTACH (R428)
  | atctlDetach  -- ATCTL_DETACH (R428)
  | objValidate  -- OBJ_VALIDATE (R428)
  | objRemove  -- OBJ_REMOVE (R428)
  | tgcntClear  -- TGCNT_CLEAR (R428)
  | tnexpbaseWrite  -- TNEXPBASE_WRITE (R428)
  | checkpoint  -- CHECKPOINT (R437)
  | checkpointComplete  -- CHECKPOINT_COMPLETE (R437)
  | logAcknowledgement  -- LOG_ACKNOWLEDGEMENT (R439)
  | rollback  -- ROLLBACK (R440)
  | hostWrite  -- HOST_WRITE (R443)
  | hostRead  -- HOST_READ (R443)
  | hostSequencedOperation  -- HOST_SEQUENCED_OPERATION (R128)
  | partitionCreate  -- PARTITION_CREATE (R446)
  | stateWriteRun  -- STATE_WRITE_RUN (R448)
  | stateWriteStopped  -- STATE_WRITE_STOPPED (R448)
  | stateWriteLoad  -- STATE_WRITE_LOAD (R448)
  | stateTransitionComplete  -- STATE_TRANSITION_COMPLETE (R446)
  | rsmapWrite  -- RSMAP_WRITE (R412)
  | resizeComplete  -- RESIZE_COMPLETE (R413)
  | contextDescriptorValidate  -- CONTEXT_DESCRIPTOR_VALIDATE (R454)
  | killWrite  -- KILL_WRITE (R454)
  | queueEnWrite  -- QUEUE_EN_WRITE (R452)
  | counterClearWrite  -- COUNTER_CLEAR_WRITE (R447)
  | routeTableWrite  -- ROUTE_TABLE_WRITE (R476)
  | routeLoss  -- ROUTE_LOSS (R476)
  | routeReturn  -- ROUTE_RETURN (R476)
  | unreachableTimeout  -- UNREACHABLE_TIMEOUT (R458)
  | fabricRequest  -- FABRIC_REQUEST (R455)
  | messageArrival  -- MESSAGE_ARRIVAL (R352)
  | clockStretch  -- CLOCK_STRETCH (R462)
  | boot  -- BOOT (R461)
  | registerWrite  -- REGISTER_WRITE (R10)
  | clusterReadmission  -- CLUSTER_READMISSION (R97)
  | ioDieFailure  -- IO_DIE_FAILURE (R440)
  deriving DecidableEq, Repr

end Sys2Proof
end

