-- ==== Sys2Proof/Decode.lean ====
section
/-! DEFINITION. Decode.lean: the decoder of thread instruction words (R265-R278) and of filter words (R432, R433), total on any
words, refusing by name; after it the encoder, written from the same tables. -/

namespace Sys2Proof

/-- Why a word is no instruction: the encoding subcauses of R278 that do not depend on the thread, and a word that is missing. -/
inductive DecErr where
  | permanentlyIllegal
  | futureSpace
  | unassigned
  | reservedField
  | truncated
  deriving DecidableEq, Repr

/-- Subcause code of R278. -/
def DecErr.sub : DecErr → Nat
  | .permanentlyIllegal => 1
  | .futureSpace => 2
  | .unassigned => 3
  | .reservedField => 4
  | .truncated => 4

/-- The result of decoding. -/
abbrev Dec (α : Type) := Except DecErr α

/-- A field whose code is reserved refuses with reserved field (R278). -/
def orReserved {α : Type} (o : Option α) : Dec α :=
  match o with
  | some a => .ok a
  | none => .error .reservedField

/-- A bit field that holds zero (R271). -/
def zeroField (w hi lo : Nat) : Dec Unit := if bits w hi lo = 0 then .ok () else .error .reservedField

/-- Whether a first word opens a long form (R266: majors 0x70 to 0x7e). -/
def isLongWord (w : Nat) : Bool := 0x70 ≤ bits w 31 25 && bits w 31 25 ≤ 0x7e

def Opnd.ofCode (x : Nat) : Option Opnd :=
  if h : x < 16 then some (.q ⟨x, h⟩)
  else if h : x < 60 then some (.n ⟨x - 16, by omega⟩)
  else if x = 60 then some .z
  else if x = 61 then some .tid
  else none

def OpndK.ofCode (x : Nat) : Option OpndK := if x = 62 then some .k else (Opnd.ofCode x).map .r

def Dest.ofCode (x : Nat) : Option Dest :=
  if x = 0 then some .push
  else if h : 16 ≤ x ∧ x < 60 then some (.reg ⟨x - 16, by omega⟩)
  else if x = 60 then some .drop
  else none

def FF4.ofCode2 (x : Nat) : FF4 :=
  match x with
  | 0 => .d
  | 1 => .f
  | 2 => .h
  | _ => .bf

def FF4.ofCode (x : Nat) : Option FF4 :=
  match x with
  | 1 => some .d
  | 2 => some .f
  | 3 => some .h
  | 4 => some .bf
  | _ => none

def B8.ofCode (x : Nat) : Option B8 :=
  if h : 0x20 ≤ x ∧ x < 0x3c then
    some ⟨⟨(x - 0x20) / 4, by omega⟩, (x - 0x20) / 2 % 2 == 1, (x - 0x20) % 2 == 1⟩
  else none

def FFmt.ofCode (x : Nat) : Option FFmt :=
  match FF4.ofCode x with
  | some f => some (.ieee f)
  | none => (B8.ofCode x).map .b8

def IFmt.ofCode (x : Nat) : Option IFmt :=
  match x with
  | 0x08 => some .s8
  | 0x09 => some .z8
  | 0x0a => some .s16
  | 0x0b => some .z16
  | 0x0c => some .s32
  | 0x0d => some .z32
  | 0x0e => some .s64
  | 0x0f => some .z64
  | _ => none

def Rm.ofCode (x : Nat) : Option Rm :=
  match x with
  | 0 => some .rne
  | 1 => some .rtz
  | 2 => some .rtn
  | 3 => some .rtp
  | 4 => some .rna
  | 7 => some .dyn
  | _ => none

def Rm4.ofCode (x : Nat) : Rm4 :=
  match x with
  | 0 => .dyn
  | 1 => .rne
  | 2 => .rtz
  | _ => .rna

def Ovf.ofCode (x : Nat) : Option Ovf :=
  match x with
  | 0 => some .sat
  | 1 => some .ovf
  | _ => none

def Ord.ofCode (x : Nat) : Option Ord :=
  match x with
  | 0 => some .rlx
  | 1 => some .acq
  | 2 => some .rel
  | 3 => some .ar
  | 4 => some .sc
  | _ => none

def Scope.ofCode (x : Nat) : Option Scope :=
  match x with
  | 0 => some .cl
  | 1 => some .die
  | 2 => some .pkg
  | 3 => some .dom
  | 4 => some .sys
  | _ => none

def MemSz.ofCode (x : Nat) : Option MemSz :=
  match x with
  | 0 => some .z8
  | 1 => some .s8
  | 2 => some .z16
  | 3 => some .s16
  | 4 => some .z32
  | 5 => some .s32
  | 6 => some .d64
  | _ => none

/-- Store sizes: an odd code is refused (R323). -/
def MemSz.ofStoreCode (x : Nat) : Option MemSz := if x % 2 = 0 then MemSz.ofCode x else none

def AmoW.ofCode (x : Nat) : Option AmoW :=
  match x with
  | 0x0c => some .s32
  | 0x0d => some .z32
  | 0x0e => some .s64
  | 0x0f => some .z64
  | _ => none

def AmoOp.ofCode (x : Nat) : Option AmoOp :=
  match x with
  | 0 => some .swap
  | 1 => some .add
  | 2 => some .and
  | 3 => some .or
  | 4 => some .xor
  | 5 => some .min
  | 6 => some .max
  | _ => none

def Cmp4.ofCode (x : Nat) : Cmp4 :=
  match x with
  | 0 => .eq
  | 1 => .lt
  | 2 => .le
  | _ => .un

def Cmp8.ofCode (x : Nat) : Option Cmp8 :=
  match x with
  | 0 => some .eq
  | 1 => some .lt
  | 2 => some .le
  | 3 => some .un
  | 4 => some .ne
  | 5 => some .ltq
  | 6 => some .leq
  | 7 => some .eqs
  | _ => none

def MsgLen.ofCode (x : Nat) : Option MsgLen :=
  match x with
  | 0 => some .b16
  | 1 => some .b32
  | 2 => some .b48
  | _ => none

def AccFmt.ofCode (x : Nat) : Option AccFmt :=
  match x with
  | 1 => some .d
  | 2 => some .f
  | _ => none

/-- The stall field (R266). -/
def stallOf (w : Nat) : Stall := Fin.ofNat 8 (bits w 24 22)

def destOf (w : Nat) : Dec Dest := orReserved (Dest.ofCode (bits w 21 16))
def opA (w : Nat) : Dec Opnd := orReserved (Opnd.ofCode (bits w 15 10))
def opB (w : Nat) : Dec Opnd := orReserved (Opnd.ofCode (bits w 9 4))
def opAK (w : Nat) : Dec OpndK := orReserved (OpndK.ofCode (bits w 15 10))
def opBK (w : Nat) : Dec OpndK := orReserved (OpndK.ofCode (bits w 9 4))
/-- Operand in [21:16]: form B operand a, form C operand b, the stored operand. -/
def opHi (w : Nat) : Dec Opnd := orReserved (Opnd.ofCode (bits w 21 16))
def opHiK (w : Nat) : Dec OpndK := orReserved (OpndK.ofCode (bits w 21 16))
/-- Operand c of an LM second word. -/
def opC (w2 : Nat) : Dec Opnd := orReserved (Opnd.ofCode (bits w2 31 26))
def rmOf (w2 : Nat) : Dec Rm := orReserved (Rm.ofCode (bits w2 25 23))

/-- Form A with destination and operands a and b. -/
def formDAB (w : Nat) (mk : Dest → Opnd → Opnd → Instr) : Dec Instr := do
  let d ← destOf w
  let a ← opA w
  let b ← opB w
  return mk d a b

/-- Form A with destination and operand a; b unused. -/
def formDA (w : Nat) (mk : Dest → Opnd → Instr) : Dec Instr := do
  let d ← destOf w
  let a ← opA w
  zeroField w 9 4
  return mk d a

/-- Form A with operand a only. -/
def formA (w : Nat) (mk : Opnd → Instr) : Dec Instr := do
  zeroField w 21 16
  let a ← opA w
  zeroField w 9 4
  return mk a

/-- Form A with operands a and b and no destination. -/
def formAB (w : Nat) (mk : Opnd → Opnd → Instr) : Dec Instr := do
  zeroField w 21 16
  let a ← opA w
  let b ← opB w
  return mk a b

/-- Form A with operand b only. -/
def formAb (w : Nat) (mk : Opnd → Instr) : Dec Instr := do
  zeroField w 21 10
  let b ← opB w
  return mk b

/-- Form A with every field zero but the stall count. -/
def form0 (w : Nat) (mk : Instr) : Dec Instr := do
  zeroField w 21 4
  return mk

/-- Form A with a destination only. -/
def formD (w : Nat) (mk : Dest → Instr) : Dec Instr := do
  let d ← destOf w
  zeroField w 15 4
  return mk d

/-- Major 0x01 (R286). -/
def dec01 (w : Nat) : Dec Instr :=
  match bits w 3 0 with
  | 0 => formDAB w .add
  | 1 => formDAB w .sub
  | 2 => formDA w .neg
  | 3 => formDAB w .mul
  | 4 => formDAB w .mulhS
  | 5 => formDAB w .mulhZ
  | 6 => formDAB w .minS
  | 7 => formDAB w .minZ
  | 8 => formDAB w .maxS
  | 9 => formDAB w .maxZ
  | 10 => formDA w .abs
  | _ => .error .unassigned

/-- Major 0x02 (R287). -/
def dec02 (w : Nat) : Dec Instr :=
  match bits w 3 0 with
  | 0 => formDAB w .divS
  | 1 => formDAB w .divZ
  | 2 => formDAB w .remS
  | 3 => formDAB w .remZ
  | _ => .error .unassigned

/-- Major 0x03 (R288). -/
def dec03 (w : Nat) : Dec Instr :=
  match bits w 3 0 with
  | 0 => formDAB w .and
  | 1 => formDAB w .or
  | 2 => formDAB w .xor
  | 3 => formDAB w .andn
  | 4 => formDAB w .orn
  | _ => .error .unassigned

/-- Major 0x04 (R289). -/
def dec04 (w : Nat) : Dec Instr :=
  match bits w 3 0 with
  | 0 => formDAB w .shl
  | 1 => formDAB w .shr
  | 2 => formDAB w .sar
  | 3 => formDAB w .rotl
  | _ => .error .unassigned

/-- Major 0x05 (R290). -/
def dec05 (w : Nat) : Dec Instr :=
  match bits w 3 0 with
  | 0 => formDA w .clz
  | 1 => formDA w .ctz
  | 2 => formDA w .popc
  | 3 => formDA w .brev
  | 4 => formDA w .bswap
  | 5 => formDA w .sext8
  | 6 => formDA w .sext16
  | 7 => formDA w .sext32
  | 8 => formDA w .zext8
  | 9 => formDA w .zext16
  | 10 => formDA w .zext32
  | _ => .error .unassigned

/-- Major 0x06 (R291). -/
def dec06 (w : Nat) : Dec Instr :=
  match bits w 3 0 with
  | 0 => formDAB w .cmpEq
  | 1 => formDAB w .cmpNe
  | 2 => formDAB w .cmpLtS
  | 3 => formDAB w .cmpLtZ
  | 4 => formDAB w .cmpLeS
  | 5 => formDAB w .cmpLeZ
  | 6 => formDAB w .sel
  | 7 => formDAB w .crc8
  | 8 => formDAB w .crc16
  | 9 => formDAB w .crc32
  | 10 => formDAB w .crc64
  | 11 => formDAB w .bfxS
  | 12 => formDAB w .bfxZ
  | 13 => formDAB w .bfi
  | _ => .error .unassigned

/-- Form I: destination, operand a, 10-bit immediate (R266, R295). -/
def formI (w : Nat) (mk : Dest → Opnd → BitVec 10 → Instr) : Dec Instr := do
  let d ← destOf w
  let a ← opA w
  return mk d a (BitVec.ofNat 10 (bits w 9 0))

/-- Form I shifts: the immediate lies in 0 to 63 (R295). -/
def formIShift (w : Nat) (mk : Dest → Opnd → BitVec 10 → Instr) : Dec Instr := do
  let d ← destOf w
  let a ← opA w
  zeroField w 9 6
  return mk d a (BitVec.ofNat 10 (bits w 9 0))

/-- Form I without operand a. -/
def formIN (w : Nat) (mk : Dest → BitVec 10 → Instr) : Dec Instr := do
  let d ← destOf w
  zeroField w 15 10
  return mk d (BitVec.ofNat 10 (bits w 9 0))

/-- Form B with operand a (R266, R297). -/
def formB (w : Nat) (mk : Opnd → BitVec 16 → Instr) : Dec Instr := do
  let a ← opHi w
  return mk a (BitVec.ofNat 16 (bits w 15 0))

/-- Form B without operand a. -/
def formBN (w : Nat) (mk : BitVec 16 → Instr) : Dec Instr := do
  zeroField w 21 16
  return mk (BitVec.ofNat 16 (bits w 15 0))

/-- Form C: operand a in [15:10], operand b in [21:16] (R300). -/
def formC (w : Nat) (mk : Opnd → Opnd → BitVec 10 → Instr) : Dec Instr := do
  let b ← opHi w
  let a ← opA w
  return mk a b (BitVec.ofNat 10 (bits w 9 0))

/-- Major 0x23 (R298, R299, R302, R303). -/
def dec23 (w : Nat) : Dec Instr :=
  match bits w 3 0 with
  | 0 => formA w .jmpr
  | 1 => formDA w .callr
  | 2 => formA w .ret
  | 3 => form0 w .exit
  | 4 => form0 w .nop
  | _ => .error .unassigned

/-- Major 0x28 (R327). -/
def dec28 (w : Nat) : Dec Instr := do
  let d ← destOf w
  let a ← opA w
  let sz ← orReserved (MemSz.ofCode (bits w 2 0))
  return .ld d a (BitVec.ofNat 7 (bits w 9 3)) sz

/-- Major 0x29 (R327). -/
def dec29 (w : Nat) : Dec Instr := do
  let v ← opHi w
  let a ← opA w
  let sz ← orReserved (MemSz.ofStoreCode (bits w 2 0))
  return .st v a (BitVec.ofNat 7 (bits w 9 3)) sz

/-- Major 0x2a (R330). -/
def dec2a (w : Nat) : Dec Instr := do
  let d ← destOf w
  let a ← opA w
  return .ldf d a (BitVec.ofNat 8 (bits w 9 2)) (FF4.ofCode2 (bits w 1 0))

/-- Major 0x2b (R333). -/
def dec2b (w : Nat) : Dec Instr :=
  match bits w 3 0 with
  | 0 => formA w .pf
  | 1 => formA w .wb
  | 2 => formA w .inv
  | _ => .error .unassigned

/-- Major 0x2c (R337). -/
def dec2c (w : Nat) : Dec Instr := do
  zeroField w 21 10
  zeroField w 9 7
  zeroField w 3 3
  let o ← orReserved (Ord.ofCode (bits w 2 0))
  let c ← orReserved (Scope.ofCode (bits w 6 4))
  return .fence o c

/-- Sync operations without a result (R338). -/
def formSync (w : Nat) (mk : Opnd → Scope → Instr) : Dec Instr := do
  zeroField w 21 16
  let a ← opA w
  zeroField w 9 7
  let c ← orReserved (Scope.ofCode (bits w 6 4))
  return mk a c

/-- Sync operations with a result (R338). -/
def formSyncD (w : Nat) (mk : Dest → Opnd → Scope → Instr) : Dec Instr := do
  let d ← destOf w
  let a ← opA w
  zeroField w 9 7
  let c ← orReserved (Scope.ofCode (bits w 6 4))
  return mk d a c

/-- Major 0x2d (R338). -/
def dec2d (w : Nat) : Dec Instr :=
  match bits w 3 0 with
  | 0 => formSync w .syncacqLk
  | 1 => formSync w .syncacqGe
  | 2 => formSyncD w .syncacqTry
  | 8 => formSync w .syncrelSt
  | 9 => formSyncD w .syncrelAdd
  | 10 => formSync w .syncrelClr
  | _ => .error .unassigned

/-- Major 0x2e (R340). -/
def dec2e (w : Nat) : Dec Instr :=
  match bits w 3 0 with
  | 0 => formA w .monitor
  | 1 => formDA w .mwait
  | 2 => formDA w .wsref
  | _ => .error .unassigned

/-- Short floating point with two operands and a rounding (R276, R305). -/
def formF2R (w : Nat) (mk : Dest → Opnd → Opnd → FF4 → Rm4 → Instr) : Dec Instr := do
  let d ← destOf w
  let a ← opA w
  let b ← opB w
  return mk d a b (FF4.ofCode2 (bits w 3 2)) (Rm4.ofCode (bits w 1 0))

/-- Short floating point with one operand and a rounding. -/
def formF1R (w : Nat) (mk : Dest → Opnd → FF4 → Rm4 → Instr) : Dec Instr := do
  let d ← destOf w
  let a ← opA w
  zeroField w 9 4
  return mk d a (FF4.ofCode2 (bits w 3 2)) (Rm4.ofCode (bits w 1 0))

/-- Short floating point with two operands and no rounding. -/
def formF2 (w : Nat) (mk : Dest → Opnd → Opnd → FF4 → Instr) : Dec Instr := do
  let d ← destOf w
  let a ← opA w
  let b ← opB w
  return mk d a b (FF4.ofCode2 (bits w 3 2))

/-- Short floating point with one operand and no rounding. -/
def formF1 (w : Nat) (mk : Dest → Opnd → FF4 → Instr) : Dec Instr := do
  let d ← destOf w
  let a ← opA w
  zeroField w 9 4
  return mk d a (FF4.ofCode2 (bits w 3 2))

/-- Major 0x37 (R308). -/
def dec37 (w : Nat) : Dec Instr := do
  let d ← destOf w
  let a ← opA w
  let b ← opB w
  return .fcmp d a b (FF4.ofCode2 (bits w 3 2)) (Cmp4.ofCode (bits w 1 0))

/-- Major 0x35: function bits [1:0] are zero (R305). -/
def dec35 (w : Nat) : Dec Instr :=
  match bits w 1 0 with
  | 0 => formF2 w .frem
  | _ => .error .unassigned

/-- Major 0x36 (R307). -/
def dec36 (w : Nat) : Dec Instr :=
  match bits w 1 0 with
  | 0 => formF2 w .fmin
  | 1 => formF2 w .fmax
  | 2 => formF2 w .fminn
  | 3 => formF2 w .fmaxn
  | _ => .error .unassigned

/-- Major 0x38 (R309). -/
def dec38 (w : Nat) : Dec Instr :=
  match bits w 1 0 with
  | 0 => formF1 w .fclass
  | 1 => formF2 w .fsgnJ
  | 2 => formF2 w .fsgnN
  | 3 => formF2 w .fsgnX
  | _ => .error .unassigned

/-- Major 0x3b (R312). -/
def dec3b (w : Nat) : Dec Instr :=
  match bits w 1 0 with
  | 0 => formF1 w .flogb
  | _ => .error .unassigned

/-- Major 0x3c (R313). -/
def dec3c (w : Nat) : Dec Instr :=
  match bits w 1 0 with
  | 0 => formF1 w .fnextUp
  | 1 => formF1 w .fnextDn
  | _ => .error .unassigned

/-- `self` (R348): selectors 6 to 63 are reserved. -/
def decSelf (w : Nat) : Dec Instr := do
  let d ← destOf w
  zeroField w 15 10
  if h : bits w 9 4 < 6 then return .self d ⟨bits w 9 4, h⟩ else .error .reservedField

/-- Group instructions with a result (R349). -/
def formSlotD (w : Nat) (mk : Dest → Fin 4 → Instr) : Dec Instr := do
  let d ← destOf w
  zeroField w 15 6
  return mk d (Fin.ofNat 4 (bits w 5 4))

/-- Group instructions without a result (R349). -/
def formSlot (w : Nat) (mk : Fin 4 → Instr) : Dec Instr := do
  zeroField w 21 16
  zeroField w 15 6
  return mk (Fin.ofNat 4 (bits w 5 4))

/-- Major 0x40 (R346-R348). -/
def dec40 (w : Nat) : Dec Instr :=
  match bits w 3 0 with
  | 0 => formDA w .join
  | 1 => form0 w .yield
  | 2 => decSelf w
  | _ => .error .unassigned

/-- Major 0x41 (R349). -/
def dec41 (w : Nat) : Dec Instr :=
  match bits w 3 0 with
  | 0 => formSlotD w .grp
  | 1 => formSlotD w .barArrive
  | 2 => formSlot w .barWait
  | 3 => formSlotD w .bar
  | _ => .error .unassigned

/-- Major 0x42 (R349). -/
def dec42 (w : Nat) : Dec Instr :=
  match bits w 3 0 with
  | 0 => formSlotD w .convene
  | 1 => formSlot w .disband
  | _ => .error .unassigned

/-- Major 0x43 (R353). -/
def dec43 (w : Nat) : Dec Instr :=
  match bits w 3 0 with
  | 0 => formAB w .send16
  | 1 => formAB w .send32
  | 2 => formAB w .send48
  | 3 => formDAB w .recv
  | 4 => formDA w .mbpeek
  | _ => .error .unassigned

/-- `rcp.def` (R356). -/
def decRcpDef (w : Nat) : Dec Instr := do
  zeroField w 12 4
  return .rcpDef (Fin.ofNat 4 (bits w 21 20)) (Fin.ofNat 128 (bits w 19 13))

/-- Register field of the recipe instructions (R356). -/
def rcpReg (w : Nat) : Dec Opnd := orReserved (Opnd.ofCode (bits w 12 7))

/-- `rcp.tag` (R356). -/
def decRcpTag (w : Nat) : Dec Instr := do
  zeroField w 21 20
  let r ← rcpReg w
  zeroField w 6 4
  return .rcpTag (Fin.ofNat 128 (bits w 19 13)) r

/-- `rcp.drop` and `rcp.clr` (R356). -/
def formRcp (w : Nat) (mk : Opnd → Instr) : Dec Instr := do
  zeroField w 21 13
  let r ← rcpReg w
  zeroField w 6 4
  return mk r

/-- Major 0x44 (R356). -/
def dec44 (w : Nat) : Dec Instr :=
  match bits w 3 0 with
  | 0 => decRcpDef w
  | 1 => decRcpTag w
  | 2 => formRcp w .rcpDrop
  | 3 => formRcp w .rcpClr
  | _ => .error .unassigned

/-- Major 0x48 (R377). -/
def dec48 (w : Nat) : Dec Instr :=
  match bits w 3 0 with
  | 0 => formDA w .push
  | 1 => formDA w .pop
  | _ => .error .unassigned

/-- Major 0x49 (R379). -/
def dec49 (w : Nat) : Dec Instr :=
  match bits w 3 0 with
  | 0 => formA w .waitt
  | 1 => formDA w .tagff
  | 2 => formA w .tagclr
  | _ => .error .unassigned

/-- Major 0x4a (R381). -/
def dec4a (w : Nat) : Dec Instr :=
  match bits w 3 0 with
  | 0 => formAB w .lrec
  | 1 => formDAB w .subMc
  | 2 => formA w .unsub
  | 3 => formDAB w .ovld
  | _ => .error .unassigned

/-- Ring number (R364). -/
def ringOf (w : Nat) : Fin 16 := Fin.ofNat 16 (bits w 9 6)

/-- Ring instructions with operand a (R364). -/
def formRingA (w : Nat) (mk : Opnd → Fin 16 → Instr) : Dec Instr := do
  zeroField w 21 16
  let a ← opA w
  zeroField w 5 4
  return mk a (ringOf w)

/-- `rpush.res` (R364). -/
def decRpushRes (w : Nat) : Dec Instr := do
  let d ← destOf w
  zeroField w 15 10
  zeroField w 5 4
  return .rpushRes d (ringOf w)

/-- `rpop` (R364). -/
def decRpop (w : Nat) : Dec Instr := do
  zeroField w 21 10
  zeroField w 5 4
  return .rpop (ringOf w)

/-- Short `mma` (R368). -/
def formMma (w : Nat) (mk : Fin 16 → Fin 16 → Fin 8 → FFmt → Instr) : Dec Instr := do
  zeroField w 4 4
  let f ← orReserved (FFmt.ofCode (bits w 10 5))
  return mk (Fin.ofNat 16 (bits w 21 18)) (Fin.ofNat 16 (bits w 17 14)) (Fin.ofNat 8 (bits w 13 11)) f

/-- Tile number of major 0x4d (R373). -/
def accOf (w : Nat) : Fin 8 := Fin.ofNat 8 (bits w 9 7)

/-- `accz` (R373, R374). -/
def decAccz (w : Nat) : Dec Instr := do
  let f ← orReserved (AccFmt.ofCode (bits w 21 16))
  zeroField w 15 10
  zeroField w 6 4
  return .accz f (accOf w)

/-- `accld` (R373, R374). -/
def decAccld (w : Nat) : Dec Instr := do
  let f ← orReserved (AccFmt.ofCode (bits w 21 16))
  let a ← opA w
  zeroField w 6 4
  return .accld f a (accOf w)

/-- Rounding of `accst`: `.dyn` is reserved (R375). -/
def Rm.static (r : Rm) : Option Rm := if r = .dyn then none else some r

/-- `accst` and `accst.ovf` (R373, R375). -/
def formAccst (w : Nat) (mk : FFmt → Opnd → Fin 8 → Rm → Instr) : Dec Instr := do
  let f ← orReserved (FFmt.ofCode (bits w 21 16))
  let a ← opA w
  let rm ← orReserved ((Rm.ofCode (bits w 6 4)).bind Rm.static)
  return mk f a (accOf w) rm

/-- `mstat`: selector 7 is reserved (R376). -/
def decMstat (w : Nat) : Dec Instr := do
  let d ← destOf w
  zeroField w 15 10
  if h : bits w 6 4 < 7 then return .mstat d (accOf w) ⟨bits w 6 4, h⟩ else .error .reservedField

/-- Major 0x4b (R364). -/
def dec4b (w : Nat) : Dec Instr :=
  match bits w 3 0 with
  | 0 => formRingA w .ringcfg
  | 1 => decRpushRes w
  | 2 => formRingA w .rpushFill
  | 3 => decRpop w
  | _ => .error .unassigned

/-- Major 0x4c (R368). -/
def dec4c (w : Nat) : Dec Instr :=
  match bits w 3 0 with
  | 0 => formMma w .mma
  | 1 => formMma w .mmaKeepa
  | 2 => formMma w .mmaKeepb
  | 3 => formMma w .mmaKeep
  | _ => .error .unassigned

/-- Major 0x4d (R373). -/
def dec4d (w : Nat) : Dec Instr :=
  match bits w 3 0 with
  | 0 => decAccz w
  | 1 => decAccld w
  | 2 => formAccst w .accst
  | 3 => formAccst w .accstOvf
  | 4 => decMstat w
  | _ => .error .unassigned

/-- Major 0x4e (R384). -/
def dec4e (w : Nat) : Dec Instr :=
  match bits w 3 0 with
  | 0 => formDA w .forkw
  | 1 => formA w .choose
  | 2 => form0 w .abandon
  | 3 => formD w .wself
  | _ => .error .unassigned

/-- `csrr` (R386): operand a is zero. -/
def dec50 (w : Nat) : Dec Instr := formIN w .csrr

/-- `csrw` (R386): destination 0. -/
def dec51 (w : Nat) : Dec Instr := do
  zeroField w 21 16
  let a ← opA w
  return .csrw a (BitVec.ofNat 10 (bits w 9 0))

/-- Major 0x53 (R387). -/
def dec53 (w : Nat) : Dec Instr :=
  match bits w 3 0 with
  | 0 => formA w .trap
  | 1 => form0 w .eret
  | 2 => formDA w .sysc
  | _ => .error .unassigned

/-- Major 0x54 (R388): `tlbinv.ctx` uses no operand a and `tlbinv.all` none at all, so that those fields hold zero (R271). -/
def dec54 (w : Nat) : Dec Instr :=
  match bits w 3 0 with
  | 0 => formAB w .tlbinvPg
  | 1 => formAb w (.tlbinvCtx (.q 0))
  | 2 => form0 w (.tlbinvAll (.q 0) (.q 0))
  | _ => .error .unassigned

/-- Major 0x55 (R389). -/
def dec55 (w : Nat) : Dec Instr :=
  match bits w 3 0 with
  | 0 => form0 w .halt
  | 1 => form0 w .bkpt
  | 2 => formD w .ckpt
  | 3 => formDA w .cap
  | _ => .error .unassigned

/-- Whether an operation in a format may carry the overflow mode (R315): `.ovf` only with a binary8 format. -/
def FFmt.ovfOk (f : FFmt) (ov : Ovf) : Bool :=
  match f, ov with
  | _, .sat => true
  | .b8 _, .ovf => true
  | .ieee _, .ovf => false

/-- FMT, RM and MODE of a rounding operation of majors 0x70 and 0x71; ORD and SCOPE are zero (R314-R316). -/
def fmtRound (w2 : Nat) : Dec (FFmt × Rm × Ovf) := do
  let f ← orReserved (FFmt.ofCode (bits w2 22 17))
  let rm ← rmOf w2
  let ov ← orReserved (Ovf.ofCode (bits w2 10 8))
  zeroField w2 16 11
  if f.ovfOk ov then return (f, rm, ov) else .error .reservedField

/-- FMT of an operation that does not round: RM, ORD, SCOPE and MODE are zero (R314, R315). -/
def fmtPlain (w2 : Nat) : Dec FFmt := do
  let f ← orReserved (FFmt.ofCode (bits w2 22 17))
  zeroField w2 25 23
  zeroField w2 16 8
  return f

/-- Major 0x70, two operands, rounding, C zero. -/
def formL2R (w w2 : Nat) (mk : Dest → Opnd → Opnd → FFmt → Rm → Ovf → Instr) : Dec Instr := do
  let d ← destOf w
  let a ← opA w
  let b ← opB w
  zeroField w2 31 26
  let (f, rm, ov) ← fmtRound w2
  return mk d a b f rm ov

/-- Major 0x70, one operand, rounding. -/
def formL1R (w w2 : Nat) (mk : Dest → Opnd → FFmt → Rm → Ovf → Instr) : Dec Instr := do
  let d ← destOf w
  let a ← opA w
  zeroField w 9 4
  zeroField w2 31 26
  let (f, rm, ov) ← fmtRound w2
  return mk d a f rm ov

/-- Major 0x70, two operands, no rounding. -/
def formL2 (w w2 : Nat) (mk : Dest → Opnd → Opnd → FFmt → Instr) : Dec Instr := do
  let d ← destOf w
  let a ← opA w
  let b ← opB w
  zeroField w2 31 26
  let f ← fmtPlain w2
  return mk d a b f

/-- Major 0x70, one operand, no rounding. -/
def formL1 (w w2 : Nat) (mk : Dest → Opnd → FFmt → Instr) : Dec Instr := do
  let d ← destOf w
  let a ← opA w
  zeroField w 9 4
  zeroField w2 31 26
  let f ← fmtPlain w2
  return mk d a f

/-- Major 0x70 function 13, three operands (R306). -/
def formL3R (w w2 : Nat) (mk : Dest → Opnd → Opnd → Opnd → FFmt → Rm → Ovf → Instr) : Dec Instr := do
  let d ← destOf w
  let a ← opA w
  let b ← opB w
  let c ← opC w2
  let (f, rm, ov) ← fmtRound w2
  return mk d a b c f rm ov

/-- Major 0x70 function 7 (R308). -/
def decFcmpLong (w w2 : Nat) : Dec Instr := do
  match Cmp8.ofCode (bits w2 7 0) with
  | none => .error .unassigned
  | some c => do
    let d ← destOf w
    let a ← opA w
    let b ← opB w
    zeroField w2 31 26
    let f ← fmtPlain w2
    return .fcmpLong d a b f c

/-- Major 0x70 function 6 (R314). -/
def decMinLong (w w2 : Nat) : Dec Instr :=
  match bits w2 7 0 with
  | 0 => formL2 w w2 .fminLong
  | 1 => formL2 w w2 .fmaxLong
  | 2 => formL2 w w2 .fminnLong
  | 3 => formL2 w w2 .fmaxnLong
  | _ => .error .unassigned

/-- Major 0x70 function 8 (R314). -/
def decSgnLong (w w2 : Nat) : Dec Instr :=
  match bits w2 7 0 with
  | 0 => formL1 w w2 .fclassLong
  | 1 => formL2 w w2 .fsgnJLong
  | 2 => formL2 w w2 .fsgnNLong
  | 3 => formL2 w w2 .fsgnXLong
  | _ => .error .unassigned

/-- Major 0x70 function 9 (R310): no table marks its other SUB values unassigned, so that they are a reserved field (R267). -/
def decRintLong (w w2 : Nat) : Dec Instr :=
  match bits w2 7 0 with
  | 0 => formL1R w w2 .frintLong
  | 1 => formL1R w w2 .frintX
  | _ => .error .reservedField

/-- Major 0x70 function 12 (R314). -/
def decNextLong (w w2 : Nat) : Dec Instr :=
  match bits w2 7 0 with
  | 0 => formL1 w w2 .fnextUpLong
  | 1 => formL1 w w2 .fnextDnLong
  | _ => .error .unassigned

/-- Major 0x70 function 13 (R306). -/
def decFused (w w2 : Nat) : Dec Instr :=
  match bits w2 7 0 with
  | 0 => formL3R w w2 .fma
  | 1 => formL3R w w2 .fms
  | 2 => formL3R w w2 .fnma
  | 3 => formL3R w w2 .fnms
  | _ => .error .unassigned

/-- SUB is zero in a function whose SUB selects nothing: any other value is a reserved field (R267, R314). -/
def subZero (w2 : Nat) (k : Dec Instr) : Dec Instr := if bits w2 7 0 = 0 then k else .error .reservedField

/-- Major 0x70 (R314). -/
def dec70 (w w2 : Nat) : Dec Instr :=
  match bits w 3 0 with
  | 0 => subZero w2 (formL2R w w2 .faddLong)
  | 1 => subZero w2 (formL2R w w2 .fsubLong)
  | 2 => subZero w2 (formL2R w w2 .fmulLong)
  | 3 => subZero w2 (formL2R w w2 .fdivLong)
  | 4 => subZero w2 (formL1R w w2 .fsqrtLong)
  | 5 => subZero w2 (formL2 w w2 .fremLong)
  | 6 => decMinLong w w2
  | 7 => decFcmpLong w w2
  | 8 => decSgnLong w w2
  | 9 => decRintLong w w2
  | 10 => subZero w2 (formL2R w w2 .fscalbLong)
  | 11 => subZero w2 (formL1 w w2 .flogbLong)
  | 12 => decNextLong w w2
  | 13 => decFused w w2
  | _ => .error .unassigned

/-- Overflow mode of a conversion: legal with a binary8 destination only (R316). -/
def ovfOf (w2 : Nat) (dst : FFmt) : Dec Ovf := do
  let ov ← orReserved (Ovf.ofCode (bits w2 10 8))
  if dst.ovfOk ov then return ov else .error .reservedField

/-- `fcvt` (R316). -/
def decFcvt (w w2 : Nat) : Dec Instr := do
  let d ← destOf w
  let a ← opA w
  zeroField w 9 4
  zeroField w2 31 26
  zeroField w2 16 11
  zeroField w2 7 6
  let dst ← orReserved (FFmt.ofCode (bits w2 22 17))
  let src ← orReserved (FFmt.ofCode (bits w2 5 0))
  let rm ← rmOf w2
  let ov ← ovfOf w2 dst
  return .fcvt d a dst src rm ov

/-- `fcvti` (R316). -/
def decFcvti (w w2 : Nat) : Dec Instr := do
  let d ← destOf w
  let a ← opA w
  zeroField w 9 4
  zeroField w2 31 26
  zeroField w2 16 8
  zeroField w2 7 6
  let dst ← orReserved (IFmt.ofCode (bits w2 22 17))
  let src ← orReserved (FFmt.ofCode (bits w2 5 0))
  let rm ← rmOf w2
  return .fcvti d a dst src rm

/-- `icvtf` (R316). -/
def decIcvtf (w w2 : Nat) : Dec Instr := do
  let d ← destOf w
  let a ← opA w
  zeroField w 9 4
  zeroField w2 31 26
  zeroField w2 16 11
  zeroField w2 7 6
  let dst ← orReserved (FFmt.ofCode (bits w2 22 17))
  let src ← orReserved (IFmt.ofCode (bits w2 5 0))
  let rm ← rmOf w2
  let ov ← ovfOf w2 dst
  return .icvtf d a dst src rm ov

/-- `fpk8` (R316, R317). -/
def decFpk8 (w w2 : Nat) : Dec Instr := do
  let d ← destOf w
  let a ← opA w
  let b ← opB w
  let c ← opC w2
  zeroField w2 16 11
  zeroField w2 7 6
  let dst ← orReserved (B8.ofCode (bits w2 22 17))
  let src ← orReserved (FF4.ofCode (bits w2 5 0))
  let rm ← rmOf w2
  let ov ← orReserved (Ovf.ofCode (bits w2 10 8))
  return .fpk8 d a b c dst src rm ov

/-- `fupk8` (R316, R317). -/
def decFupk8 (w w2 : Nat) : Dec Instr := do
  let d ← destOf w
  let a ← opA w
  let b ← opB w
  zeroField w2 31 26
  zeroField w2 16 8
  zeroField w2 7 6
  let dst ← orReserved (FF4.ofCode (bits w2 22 17))
  let src ← orReserved (B8.ofCode (bits w2 5 0))
  let rm ← rmOf w2
  return .fupk8 d a b dst src rm

/-- Major 0x71 (R316). -/
def dec71 (w w2 : Nat) : Dec Instr :=
  match bits w 3 0 with
  | 0 => decFcvt w w2
  | 1 => decFcvti w w2
  | 2 => decIcvtf w w2
  | 3 => decFpk8 w w2
  | 4 => decFupk8 w w2
  | _ => .error .unassigned

/-- Long-accumulator instructions with operands a and b (R318). -/
def formX2 (w w2 : Nat) (mk : Opnd → Opnd → Instr) : Dec Instr := do
  zeroField w 21 16
  let a ← opA w
  let b ← opB w
  zeroField w2 31 0
  return mk a b

/-- `xmad` (R318). -/
def decXmad (w w2 : Nat) : Dec Instr := do
  zeroField w 21 16
  let a ← opA w
  let b ← opB w
  let c ← opC w2
  zeroField w2 25 0
  return .xmad a b c

/-- `xrnd` (R318). -/
def decXrnd (w w2 : Nat) : Dec Instr := do
  let d ← destOf w
  let a ← opA w
  zeroField w 9 4
  zeroField w2 31 26
  let rm ← rmOf w2
  zeroField w2 22 0
  return .xrnd d a rm

/-- `xstat` (R318). -/
def decXstat (w w2 : Nat) : Dec Instr := do
  let d ← destOf w
  let a ← opA w
  zeroField w 9 4
  zeroField w2 31 0
  return .xstat d a

/-- Major 0x72 (R318). -/
def dec72 (w w2 : Nat) : Dec Instr :=
  match bits w 3 0 with
  | 0 => formX2 w w2 .xinit
  | 1 => formX2 w w2 .xadd
  | 2 => decXmad w w2
  | 3 => formX2 w w2 .xaddn
  | 4 => decXrnd w w2
  | 5 => decXstat w w2
  | _ => .error .unassigned

/-- The constant of an LK second word. -/
def kOf (w2 : Nat) : IWord := BitVec.ofNat 32 w2

/-- Major 0x73 with operand a (R277). -/
def formK (w w2 : Nat) (mk : Dest → OpndK → IWord → Instr) : Dec Instr := do
  let d ← destOf w
  let a ← opAK w
  zeroField w 9 4
  return mk d a (kOf w2)

/-- Major 0x73 shifts: K lies in 0 to 63 (R295, R277). -/
def formKShift (w w2 : Nat) (mk : Dest → OpndK → IWord → Instr) : Dec Instr := do
  let d ← destOf w
  let a ← opAK w
  zeroField w 9 4
  zeroField w2 31 6
  return mk d a (kOf w2)

/-- Major 0x73 without operand a (R277). -/
def formKN (w w2 : Nat) (mk : Dest → IWord → Instr) : Dec Instr := do
  let d ← destOf w
  zeroField w 15 10
  zeroField w 9 4
  return mk d (kOf w2)

/-- Major 0x73 (R277). -/
def dec73 (w w2 : Nat) : Dec Instr :=
  match bits w 3 0 with
  | 0 => formK w w2 .addiLong
  | 1 => formKShift w w2 .shliLong
  | 2 => formKShift w w2 .shriLong
  | 3 => formKShift w w2 .sariLong
  | 4 => formKN w w2 .liLong
  | 5 => formK w w2 .lihLong
  | 6 => formKN w w2 .leaLong
  | _ => .error .unassigned

/-- Long `ld` (R328). -/
def decLdLong (w w2 : Nat) : Dec Instr := do
  let d ← destOf w
  let a ← opAK w
  zeroField w 9 7
  let sz ← orReserved (MemSz.ofCode (bits w 6 4))
  return .ldLong d a sz (kOf w2)

/-- Long `st` (R328). -/
def decStLong (w w2 : Nat) : Dec Instr := do
  let v ← opHiK w
  let a ← opAK w
  zeroField w 9 7
  let sz ← orReserved (MemSz.ofStoreCode (bits w 6 4))
  return .stLong v a sz (kOf w2)

/-- Long `ldf` (R328, R331). -/
def decLdfLong (w w2 : Nat) : Dec Instr := do
  let d ← destOf w
  let a ← opAK w
  zeroField w 9 9
  let rm ← orReserved (Rm.ofCode (bits w 8 6))
  return .ldfLong d a rm (FF4.ofCode2 (bits w 5 4)) (kOf w2)

/-- ORD and SCOPE of an LM second word (R267). -/
def ordOf (w2 : Nat) : Dec Ord := orReserved (Ord.ofCode (bits w2 16 14))
def scopeOf (w2 : Nat) : Dec Scope := orReserved (Scope.ofCode (bits w2 13 11))

/-- `amo` (R334, R335): SUB 7 to 255 is unassigned. -/
def decAmo (w w2 : Nat) : Dec Instr := do
  match AmoOp.ofCode (bits w2 7 0) with
  | none => .error .unassigned
  | some op => do
    let d ← destOf w
    let a ← opA w
    let b ← opB w
    zeroField w2 31 23
    let wd ← orReserved (AmoW.ofCode (bits w2 22 17))
    let o ← ordOf w2
    let c ← scopeOf w2
    zeroField w2 10 8
    return .amo d a b wd o c op

/-- `cas` (R334). -/
def decCas (w w2 : Nat) : Dec Instr := do
  let d ← destOf w
  let a ← opA w
  let b ← opB w
  let c ← opC w2
  zeroField w2 25 23
  let wd ← orReserved (AmoW.ofCode (bits w2 22 17))
  let o ← ordOf w2
  let sc ← scopeOf w2
  zeroField w2 10 0
  return .cas d a b c wd o sc

/-- Major 0x74 (R328). -/
def dec74 (w w2 : Nat) : Dec Instr :=
  match bits w 3 0 with
  | 0 => decLdLong w w2
  | 1 => decStLong w w2
  | 2 => decLdfLong w w2
  | 3 => decAmo w w2
  | 4 => decCas w w2
  | _ => .error .unassigned

/-- Long compare and branch (R301). -/
def formKB2 (w w2 : Nat) (mk : OpndK → OpndK → IWord → Instr) : Dec Instr := do
  zeroField w 21 16
  let a ← opAK w
  let b ← opBK w
  return mk a b (kOf w2)

/-- Long `bz` and `bnz` (R301). -/
def formKB1 (w w2 : Nat) (mk : OpndK → IWord → Instr) : Dec Instr := do
  zeroField w 21 16
  let a ← opAK w
  zeroField w 9 4
  return mk a (kOf w2)

/-- Long `jmp` and `call` (R301). -/
def formKB0 (w w2 : Nat) (mk : IWord → Instr) : Dec Instr := do
  zeroField w 21 4
  return mk (kOf w2)

/-- Major 0x75 (R301). -/
def dec75 (w w2 : Nat) : Dec Instr :=
  match bits w 3 0 with
  | 0 => formKB2 w w2 .bccEqLong
  | 1 => formKB2 w w2 .bccNeLong
  | 2 => formKB2 w w2 .bccLtSLong
  | 3 => formKB2 w w2 .bccLtZLong
  | 4 => formKB2 w w2 .bccGeS
  | 5 => formKB2 w w2 .bccGeZ
  | 6 => formKB1 w w2 .bzLong
  | 7 => formKB1 w w2 .bnzLong
  | 8 => formKB0 w w2 .jmpLong
  | 9 => formKB0 w w2 .callLong
  | _ => .error .unassigned

/-- `spawn` (R344). -/
def decSpawn (w w2 : Nat) : Dec Instr := do
  zeroField w 21 16
  let a ← opA w
  let b ← opB w
  let c ← opC w2
  zeroField w2 25 8
  zeroField w2 7 1
  return .spawn a b c (bits w2 0 0 == 1)

/-- Long `send` (R353): ORD is 0 or 2; SCOPE is zero with ORD = 0; MODE [10:9] is zero. -/
def decSendLong (w w2 : Nat) : Dec Instr := do
  zeroField w 21 16
  let a ← opA w
  let b ← opB w
  zeroField w2 31 17
  zeroField w2 16 16
  zeroField w2 14 14
  let sc ← scopeOf w2
  zeroField w2 10 9
  let len ← orReserved (MsgLen.ofCode (bits w2 7 0))
  if bits w2 15 15 = 0 ∧ sc ≠ .cl then .error .reservedField
  else return .sendLong a b len (bits w2 15 15 == 1) sc (bits w2 8 8 == 1)

/-- Major 0x76 (R344, R353). -/
def dec76 (w w2 : Nat) : Dec Instr :=
  match bits w 3 0 with
  | 0 => decSpawn w w2
  | 1 => decSendLong w w2
  | _ => .error .unassigned

/-- The operand classes of `mma` (R367): binary8, 16-bit, binary32, binary64. -/
inductive MmaClass where
  | b8 | h16 | f32 | d64
  deriving DecidableEq, Repr

def FFmt.mmaClass : FFmt → MmaClass
  | .b8 _ => .b8
  | .ieee .h => .h16
  | .ieee .bf => .h16
  | .ieee .f => .f32
  | .ieee .d => .d64

/-- Legal pairs of formats and roundings of the long `mma` (R368). -/
def mmaPairOk (fa fb : FFmt) (rm : Rm) : Bool :=
  fa.mmaClass == fb.mmaClass && rm != .dyn && (fa.mmaClass == .d64 || rm == .rne)

/-- Long `mma` (R368). -/
def decMmaLong (w w2 : Nat) : Dec Instr := do
  zeroField w 10 4
  zeroField w2 31 26
  zeroField w2 16 11
  zeroField w2 10 10
  zeroField w2 7 6
  let fa ← orReserved (FFmt.ofCode (bits w2 22 17))
  let fb ← orReserved (FFmt.ofCode (bits w2 5 0))
  let rm ← rmOf w2
  if mmaPairOk fa fb rm then
    return .mmaLong (Fin.ofNat 16 (bits w 21 18)) (Fin.ofNat 16 (bits w 17 14)) (Fin.ofNat 8 (bits w 13 11)) fa fb rm
      (bits w2 8 8 == 1) (bits w2 9 9 == 1)
  else .error .reservedField

/-- `.defer` forms of `push` and `forkw` (R377, R384): the second word is zero but MODE bit [8], which is 1. -/
def formDefer (w w2 : Nat) (mk : Dest → Opnd → Instr) : Dec Instr := do
  let d ← destOf w
  let a ← opA w
  zeroField w 9 4
  if w2 % 2 ^ 32 = 256 then return mk d a else .error .reservedField

/-- The operands of a long `tlbinv` with its kind, by its SUB (R388); a field that the kind does not use holds zero (R271). -/
def tlbKindOf (w w2 : Nat) : Dec (Opnd × Opnd × Fin 3) :=
  match bits w2 7 0 with
  | 0 => do
    let a ← opA w
    let b ← opB w
    return (a, b, 0)
  | 1 => do
    zeroField w 15 10
    let b ← opB w
    return (.q 0, b, 1)
  | 2 => do
    zeroField w 15 4
    return (.q 0, .q 0, 2)
  | _ => .error .reservedField

/-- Long `tlbinv` (R388). -/
def decTlbinvLong (w w2 : Nat) : Dec Instr := do
  zeroField w 21 16
  let k ← tlbKindOf w w2
  zeroField w2 31 14
  let sc ← scopeOf w2
  zeroField w2 10 8
  return .tlbinvLong k.1 k.2.1 k.2.2 sc

/-- Major 0x77 (R368, R377). -/
def dec77 (w w2 : Nat) : Dec Instr :=
  match bits w 3 0 with
  | 0 => decMmaLong w w2
  | 1 => formDefer w w2 .pushDefer
  | _ => .error .unassigned

/-- Major 0x78 (R384, R388). -/
def dec78 (w w2 : Nat) : Dec Instr :=
  match bits w 3 0 with
  | 0 => formDefer w w2 .forkwDefer
  | 1 => decTlbinvLong w w2
  | _ => .error .unassigned

/-- One thread instruction from its first word and, for a long form, its second (R266, R275, R278). -/
def decodeWords (w w2 : Nat) : Dec Instr :=
  match bits w 31 25 with
  | 0x00 => .error .permanentlyIllegal
  | 0x01 => dec01 w
  | 0x02 => dec02 w
  | 0x03 => dec03 w
  | 0x04 => dec04 w
  | 0x05 => dec05 w
  | 0x06 => dec06 w
  | 0x10 => formI w .addi
  | 0x11 => formIShift w .shli
  | 0x12 => formIShift w .shri
  | 0x13 => formIShift w .sari
  | 0x14 => formIN w .li
  | 0x15 => formI w .lih
  | 0x16 => formIN w .lea
  | 0x20 => if bits w 21 16 = 60 then return .jmp (BitVec.ofNat 16 (bits w 15 0)) else formB w .bz
  | 0x21 => formB w .bnz
  | 0x22 => formBN w .call
  | 0x23 => dec23 w
  | 0x24 => formC w .bccEq
  | 0x25 => formC w .bccNe
  | 0x26 => formC w .bccLtS
  | 0x27 => formC w .bccLtZ
  | 0x28 => dec28 w
  | 0x29 => dec29 w
  | 0x2a => dec2a w
  | 0x2b => dec2b w
  | 0x2c => dec2c w
  | 0x2d => dec2d w
  | 0x2e => dec2e w
  | 0x30 => formF2R w .fadd
  | 0x31 => formF2R w .fsub
  | 0x32 => formF2R w .fmul
  | 0x33 => formF2R w .fdiv
  | 0x34 => formF1R w .fsqrt
  | 0x35 => dec35 w
  | 0x36 => dec36 w
  | 0x37 => dec37 w
  | 0x38 => dec38 w
  | 0x39 => formF1R w .frint
  | 0x3a => formF2R w .fscalb
  | 0x3b => dec3b w
  | 0x3c => dec3c w
  | 0x40 => dec40 w
  | 0x41 => dec41 w
  | 0x42 => dec42 w
  | 0x43 => dec43 w
  | 0x44 => dec44 w
  | 0x48 => dec48 w
  | 0x49 => dec49 w
  | 0x4a => dec4a w
  | 0x4b => dec4b w
  | 0x4c => dec4c w
  | 0x4d => dec4d w
  | 0x4e => dec4e w
  | 0x50 => dec50 w
  | 0x51 => dec51 w
  | 0x52 => formI w .csrx
  | 0x53 => dec53 w
  | 0x54 => dec54 w
  | 0x55 => dec55 w
  | 0x70 => dec70 w w2
  | 0x71 => dec71 w w2
  | 0x72 => dec72 w w2
  | 0x73 => dec73 w w2
  | 0x74 => dec74 w w2
  | 0x75 => dec75 w w2
  | 0x76 => dec76 w w2
  | 0x77 => dec77 w w2
  | 0x78 => dec78 w w2
  | 0x7f => .error .permanentlyIllegal
  | m => if 0x60 ≤ m ∧ m ≤ 0x6f then .error .futureSpace else .error .unassigned

/-- Decoding from a list of words: the instruction and its length in words. A long form without its second word is truncated. -/
def decode (ws : List Nat) : Dec (Instr × Nat) :=
  match ws with
  | [] => .error .truncated
  | w :: rest =>
    if isLongWord w then
      match rest with
      | [] => .error .truncated
      | w2 :: _ => (decodeWords w w2).map (·, 2)
    else (decodeWords w 0).map (·, 1)

/-- Second source of a filter instruction: with I = 1 field B is zero, with I = 0 IMM is zero (R432, R433). -/
def filterSrc (w : Nat) : Dec FSrc :=
  if bits w 16 16 = 1 then do
    zeroField w 19 17
    return .imm (BitVec.ofNat 16 (bits w 15 0))
  else do
    zeroField w 15 0
    return .reg (Fin.ofNat 8 (bits w 19 17))

def fD (w : Nat) : Fin 8 := Fin.ofNat 8 (bits w 25 23)
def fA (w : Nat) : Fin 8 := Fin.ofNat 8 (bits w 22 20)
def fB (w : Nat) : Fin 8 := Fin.ofNat 8 (bits w 19 17)
def fObj (w : Nat) : Fin 64 := Fin.ofNat 64 (bits w 5 0)

/-- Filter arithmetic (R433). -/
def formFilter (w : Nat) (mk : Fin 8 → Fin 8 → FSrc → Instr) : Dec Instr := do
  let s ← filterSrc w
  return mk (fD w) (fA w) s

/-- Filter branches on two registers (R433): offsets are 1 to 63. -/
def formFilterB (w : Nat) (mk : Fin 8 → Fin 8 → Fin 64 → Instr) : Dec Instr := do
  zeroField w 25 23
  zeroField w 16 6
  if bits w 5 0 = 0 then .error .reservedField else return mk (fA w) (fB w) (fObj w)

/-- Filter updates with two registers (R433). -/
def formFilterU (w : Nat) (mk : Fin 64 → Fin 8 → Fin 8 → Instr) : Dec Instr := do
  zeroField w 25 23
  zeroField w 16 6
  return mk (fObj w) (fA w) (fB w)

/-- One filter instruction (R432, R433); every opcode not listed is unassigned. -/
def decodeFilter (w : Nat) : Dec Instr :=
  match bits w 31 26 with
  | 0x01 => do
    zeroField w 22 4
    return .filterLdev (fD w) (Fin.ofNat 16 (bits w 3 0))
  | 0x02 => formFilter w .filterMulu
  | 0x03 => do
    zeroField w 22 16
    return .filterLi (fD w) (BitVec.ofNat 16 (bits w 15 0))
  | 0x04 => formFilter w .filterAdd
  | 0x05 => formFilter w .filterSub
  | 0x06 => formFilter w .filterAnd
  | 0x07 => formFilter w .filterOr
  | 0x08 => formFilter w .filterXor
  | 0x09 => formFilter w .filterShl
  | 0x0a => formFilter w .filterShr
  | 0x0b => formFilter w .filterMin
  | 0x0c => formFilter w .filterMax
  | 0x0d => formFilterB w .filterBeq
  | 0x0e => formFilterB w .filterBne
  | 0x0f => formFilterB w .filterBltu
  | 0x10 => formFilterB w .filterBgeu
  | 0x11 => do
    zeroField w 25 6
    if bits w 5 0 = 0 then .error .reservedField else return .filterBr (fObj w)
  | 0x12 => formFilterU w .filterHinc
  | 0x13 => formFilterU w .filterCms
  | 0x14 => do
    zeroField w 25 23
    zeroField w 19 6
    return .filterHll (fObj w) (fA w)
  | 0x15 => do
    zeroField w 19 6
    return .filterLdo (fD w) (fObj w) (fA w)
  | 0x16 => do
    zeroField w 25 23
    zeroField w 19 4
    return .filterTrig (Fin.ofNat 16 (bits w 3 0)) (fA w)
  | 0x17 => do
    zeroField w 25 23
    zeroField w 16 8
    return .filterExp (fA w) (fB w) (BitVec.ofNat 8 (bits w 7 0))
  | 0x18 => do
    zeroField w 25 0
    return .filterSreq
  | 0x19 => do
    zeroField w 25 0
    return .filterEnd
  | _ => .error .unassigned

/-- The instruction read from the bits of a table row (bit 0 is bit 0 of the first word): a thread instruction, or, where the
thread decoder refuses the word, a filter instruction (notes/assumptions/6.md). -/
def decodeTableWord (_nbits w : Nat) : Option Instr :=
  match decodeWords (w % 2 ^ 32) (w / 2 ^ 32 % 2 ^ 32) with
  | .ok i => some i
  | .error _ =>
    match decodeFilter (w % 2 ^ 32) with
    | .ok i => some i
    | .error _ => none

/-! ### The encoder -/

def Opnd.code : Opnd → Nat
  | .q i => i.val
  | .n k => 16 + k.val
  | .z => 60
  | .tid => 61

def OpndK.code : OpndK → Nat
  | .r o => o.code
  | .k => 62

def Dest.code : Dest → Nat
  | .push => 0
  | .reg k => 16 + k.val
  | .drop => 60

def FF4.code2 : FF4 → Nat
  | .d => 0
  | .f => 1
  | .h => 2
  | .bf => 3

def FF4.code (f : FF4) : Nat := f.code2 + 1

def B8.code (b : B8) : Nat := 0x20 + 4 * b.p.val + 2 * b.uns.toNat + b.fin.toNat

def FFmt.code : FFmt → Nat
  | .ieee f => f.code
  | .b8 b => b.code

def IFmt.code : IFmt → Nat
  | .s8 => 0x08
  | .z8 => 0x09
  | .s16 => 0x0a
  | .z16 => 0x0b
  | .s32 => 0x0c
  | .z32 => 0x0d
  | .s64 => 0x0e
  | .z64 => 0x0f

def Rm.code : Rm → Nat
  | .rne => 0
  | .rtz => 1
  | .rtn => 2
  | .rtp => 3
  | .rna => 4
  | .dyn => 7

def Rm4.code : Rm4 → Nat
  | .dyn => 0
  | .rne => 1
  | .rtz => 2
  | .rna => 3

def Ovf.code : Ovf → Nat
  | .sat => 0
  | .ovf => 1

def Ord.code : Ord → Nat
  | .rlx => 0
  | .acq => 1
  | .rel => 2
  | .ar => 3
  | .sc => 4

def Scope.code : Scope → Nat
  | .cl => 0
  | .die => 1
  | .pkg => 2
  | .dom => 3
  | .sys => 4

def MemSz.code : MemSz → Nat
  | .z8 => 0
  | .s8 => 1
  | .z16 => 2
  | .s16 => 3
  | .z32 => 4
  | .s32 => 5
  | .d64 => 6

def AmoW.code : AmoW → Nat
  | .s32 => 0x0c
  | .z32 => 0x0d
  | .s64 => 0x0e
  | .z64 => 0x0f

def AmoOp.code : AmoOp → Nat
  | .swap => 0
  | .add => 1
  | .and => 2
  | .or => 3
  | .xor => 4
  | .min => 5
  | .max => 6

def Cmp4.code : Cmp4 → Nat
  | .eq => 0
  | .lt => 1
  | .le => 2
  | .un => 3

def Cmp8.code : Cmp8 → Nat
  | .eq => 0
  | .lt => 1
  | .le => 2
  | .un => 3
  | .ne => 4
  | .ltq => 5
  | .leq => 6
  | .eqs => 7

def MsgLen.code : MsgLen → Nat
  | .b16 => 0
  | .b32 => 1
  | .b48 => 2

def AccFmt.code : AccFmt → Nat
  | .d => 1
  | .f => 2

/-- A word of form A, or the first word of a long form (R266). -/
def wordA (major : Nat) (sc : Stall) (d a b f : Nat) : Nat :=
  major * 2 ^ 25 + sc.val * 2 ^ 22 + d * 2 ^ 16 + a * 2 ^ 10 + b * 2 ^ 4 + f

/-- A word of form I or C: a 10-bit field at the bottom (R266). -/
def wordI (major : Nat) (sc : Stall) (d a imm : Nat) : Nat :=
  major * 2 ^ 25 + sc.val * 2 ^ 22 + d * 2 ^ 16 + a * 2 ^ 10 + imm

/-- A word of form B (R266). -/
def wordB (major : Nat) (sc : Stall) (a off : Nat) : Nat :=
  major * 2 ^ 25 + sc.val * 2 ^ 22 + a * 2 ^ 16 + off

/-- An LM second word (R267). -/
def wordLM (c rm fmt ord scope mode sub : Nat) : Nat :=
  c * 2 ^ 26 + rm * 2 ^ 23 + fmt * 2 ^ 17 + ord * 2 ^ 14 + scope * 2 ^ 11 + mode * 2 ^ 8 + sub

/-- The first word of an `mma` (R368). -/
def wordMma (major : Nat) (sc : Stall) (ra rb : Fin 16) (acc : Fin 8) (low : Nat) : Nat :=
  major * 2 ^ 25 + sc.val * 2 ^ 22 + ra.val * 2 ^ 18 + rb.val * 2 ^ 14 + acc.val * 2 ^ 11 + low

/-- A filter word with a second source (R432). -/
def wordF (op : Nat) (d a : Fin 8) (s : FSrc) : Nat :=
  match s with
  | .reg b => op * 2 ^ 26 + d.val * 2 ^ 23 + a.val * 2 ^ 20 + b.val * 2 ^ 17
  | .imm v => op * 2 ^ 26 + d.val * 2 ^ 23 + a.val * 2 ^ 20 + 2 ^ 16 + v.toNat

/-- The words of a well-formed instruction, first word first; no words for a row that is an event of an agent. -/
def encode (sc : Stall) (i : Instr) : List Nat :=
  match i with
  | .add d a b => [wordA 0x01 sc d.code a.code b.code 0]
  | .sub d a b => [wordA 0x01 sc d.code a.code b.code 1]
  | .neg d a => [wordA 0x01 sc d.code a.code 0 2]
  | .mul d a b => [wordA 0x01 sc d.code a.code b.code 3]
  | .mulhS d a b => [wordA 0x01 sc d.code a.code b.code 4]
  | .mulhZ d a b => [wordA 0x01 sc d.code a.code b.code 5]
  | .minS d a b => [wordA 0x01 sc d.code a.code b.code 6]
  | .minZ d a b => [wordA 0x01 sc d.code a.code b.code 7]
  | .maxS d a b => [wordA 0x01 sc d.code a.code b.code 8]
  | .maxZ d a b => [wordA 0x01 sc d.code a.code b.code 9]
  | .abs d a => [wordA 0x01 sc d.code a.code 0 10]
  | .divS d a b => [wordA 0x02 sc d.code a.code b.code 0]
  | .divZ d a b => [wordA 0x02 sc d.code a.code b.code 1]
  | .remS d a b => [wordA 0x02 sc d.code a.code b.code 2]
  | .remZ d a b => [wordA 0x02 sc d.code a.code b.code 3]
  | .and d a b => [wordA 0x03 sc d.code a.code b.code 0]
  | .or d a b => [wordA 0x03 sc d.code a.code b.code 1]
  | .xor d a b => [wordA 0x03 sc d.code a.code b.code 2]
  | .andn d a b => [wordA 0x03 sc d.code a.code b.code 3]
  | .orn d a b => [wordA 0x03 sc d.code a.code b.code 4]
  | .shl d a b => [wordA 0x04 sc d.code a.code b.code 0]
  | .shr d a b => [wordA 0x04 sc d.code a.code b.code 1]
  | .sar d a b => [wordA 0x04 sc d.code a.code b.code 2]
  | .rotl d a b => [wordA 0x04 sc d.code a.code b.code 3]
  | .clz d a => [wordA 0x05 sc d.code a.code 0 0]
  | .ctz d a => [wordA 0x05 sc d.code a.code 0 1]
  | .popc d a => [wordA 0x05 sc d.code a.code 0 2]
  | .brev d a => [wordA 0x05 sc d.code a.code 0 3]
  | .bswap d a => [wordA 0x05 sc d.code a.code 0 4]
  | .sext8 d a => [wordA 0x05 sc d.code a.code 0 5]
  | .sext16 d a => [wordA 0x05 sc d.code a.code 0 6]
  | .sext32 d a => [wordA 0x05 sc d.code a.code 0 7]
  | .zext8 d a => [wordA 0x05 sc d.code a.code 0 8]
  | .zext16 d a => [wordA 0x05 sc d.code a.code 0 9]
  | .zext32 d a => [wordA 0x05 sc d.code a.code 0 10]
  | .cmpEq d a b => [wordA 0x06 sc d.code a.code b.code 0]
  | .cmpNe d a b => [wordA 0x06 sc d.code a.code b.code 1]
  | .cmpLtS d a b => [wordA 0x06 sc d.code a.code b.code 2]
  | .cmpLtZ d a b => [wordA 0x06 sc d.code a.code b.code 3]
  | .cmpLeS d a b => [wordA 0x06 sc d.code a.code b.code 4]
  | .cmpLeZ d a b => [wordA 0x06 sc d.code a.code b.code 5]
  | .sel d a b => [wordA 0x06 sc d.code a.code b.code 6]
  | .crc8 d a b => [wordA 0x06 sc d.code a.code b.code 7]
  | .crc16 d a b => [wordA 0x06 sc d.code a.code b.code 8]
  | .crc32 d a b => [wordA 0x06 sc d.code a.code b.code 9]
  | .crc64 d a b => [wordA 0x06 sc d.code a.code b.code 10]
  | .bfxS d a b => [wordA 0x06 sc d.code a.code b.code 11]
  | .bfxZ d a b => [wordA 0x06 sc d.code a.code b.code 12]
  | .bfi d a b => [wordA 0x06 sc d.code a.code b.code 13]
  | .addi d a imm => [wordI 0x10 sc d.code a.code imm.toNat]
  | .shli d a imm => [wordI 0x11 sc d.code a.code imm.toNat]
  | .shri d a imm => [wordI 0x12 sc d.code a.code imm.toNat]
  | .sari d a imm => [wordI 0x13 sc d.code a.code imm.toNat]
  | .li d imm => [wordI 0x14 sc d.code 0 imm.toNat]
  | .lih d a imm => [wordI 0x15 sc d.code a.code imm.toNat]
  | .lea d imm => [wordI 0x16 sc d.code 0 imm.toNat]
  | .addiLong d a k => [wordA 0x73 sc d.code a.code 0 0, k.toNat]
  | .shliLong d a k => [wordA 0x73 sc d.code a.code 0 1, k.toNat]
  | .shriLong d a k => [wordA 0x73 sc d.code a.code 0 2, k.toNat]
  | .sariLong d a k => [wordA 0x73 sc d.code a.code 0 3, k.toNat]
  | .liLong d k => [wordA 0x73 sc d.code 0 0 4, k.toNat]
  | .lihLong d a k => [wordA 0x73 sc d.code a.code 0 5, k.toNat]
  | .leaLong d k => [wordA 0x73 sc d.code 0 0 6, k.toNat]
  | .bz a off => [wordB 0x20 sc a.code off.toNat]
  | .jmp off => [wordB 0x20 sc 60 off.toNat]
  | .bnz a off => [wordB 0x21 sc a.code off.toNat]
  | .call off => [wordB 0x22 sc 0 off.toNat]
  | .jmpr a => [wordA 0x23 sc 0 a.code 0 0]
  | .callr d a => [wordA 0x23 sc d.code a.code 0 1]
  | .ret a => [wordA 0x23 sc 0 a.code 0 2]
  | .exit => [wordA 0x23 sc 0 0 0 3]
  | .nop => [wordA 0x23 sc 0 0 0 4]
  | .bccEq a b off => [wordI 0x24 sc b.code a.code off.toNat]
  | .bccNe a b off => [wordI 0x25 sc b.code a.code off.toNat]
  | .bccLtS a b off => [wordI 0x26 sc b.code a.code off.toNat]
  | .bccLtZ a b off => [wordI 0x27 sc b.code a.code off.toNat]
  | .bccEqLong a b k => [wordA 0x75 sc 0 a.code b.code 0, k.toNat]
  | .bccNeLong a b k => [wordA 0x75 sc 0 a.code b.code 1, k.toNat]
  | .bccLtSLong a b k => [wordA 0x75 sc 0 a.code b.code 2, k.toNat]
  | .bccLtZLong a b k => [wordA 0x75 sc 0 a.code b.code 3, k.toNat]
  | .bccGeS a b k => [wordA 0x75 sc 0 a.code b.code 4, k.toNat]
  | .bccGeZ a b k => [wordA 0x75 sc 0 a.code b.code 5, k.toNat]
  | .bzLong a k => [wordA 0x75 sc 0 a.code 0 6, k.toNat]
  | .bnzLong a k => [wordA 0x75 sc 0 a.code 0 7, k.toNat]
  | .jmpLong k => [wordA 0x75 sc 0 0 0 8, k.toNat]
  | .callLong k => [wordA 0x75 sc 0 0 0 9, k.toNat]
  | .ld d a off sz => [wordI 0x28 sc d.code a.code (off.toNat * 8 + sz.code)]
  | .st v a off sz => [wordI 0x29 sc v.code a.code (off.toNat * 8 + sz.code)]
  | .ldf d a off df => [wordI 0x2a sc d.code a.code (off.toNat * 4 + df.code2)]
  | .ldLong d a sz k => [wordA 0x74 sc d.code a.code sz.code 0, k.toNat]
  | .stLong v a sz k => [wordA 0x74 sc v.code a.code sz.code 1, k.toNat]
  | .ldfLong d a rm df k => [wordA 0x74 sc d.code a.code (rm.code * 4 + df.code2) 2, k.toNat]
  | .amo d a b w ord scope op => [wordA 0x74 sc d.code a.code b.code 3, wordLM 0 0 w.code ord.code scope.code 0 op.code]
  | .cas d a b c w ord scope => [wordA 0x74 sc d.code a.code b.code 4, wordLM c.code 0 w.code ord.code scope.code 0 0]
  | .pf a => [wordA 0x2b sc 0 a.code 0 0]
  | .wb a => [wordA 0x2b sc 0 a.code 0 1]
  | .inv a => [wordA 0x2b sc 0 a.code 0 2]
  | .fence ord scope => [wordA 0x2c sc 0 0 scope.code ord.code]
  | .syncacqLk a scope => [wordA 0x2d sc 0 a.code scope.code 0]
  | .syncacqGe a scope => [wordA 0x2d sc 0 a.code scope.code 1]
  | .syncacqTry d a scope => [wordA 0x2d sc d.code a.code scope.code 2]
  | .syncrelSt a scope => [wordA 0x2d sc 0 a.code scope.code 8]
  | .syncrelAdd d a scope => [wordA 0x2d sc d.code a.code scope.code 9]
  | .syncrelClr a scope => [wordA 0x2d sc 0 a.code scope.code 10]
  | .monitor a => [wordA 0x2e sc 0 a.code 0 0]
  | .mwait d a => [wordA 0x2e sc d.code a.code 0 1]
  | .wsref d a => [wordA 0x2e sc d.code a.code 0 2]
  | .fadd d a b fm r => [wordA 0x30 sc d.code a.code b.code (fm.code2 * 4 + r.code)]
  | .fsub d a b fm r => [wordA 0x31 sc d.code a.code b.code (fm.code2 * 4 + r.code)]
  | .fmul d a b fm r => [wordA 0x32 sc d.code a.code b.code (fm.code2 * 4 + r.code)]
  | .fdiv d a b fm r => [wordA 0x33 sc d.code a.code b.code (fm.code2 * 4 + r.code)]
  | .fsqrt d a fm r => [wordA 0x34 sc d.code a.code 0 (fm.code2 * 4 + r.code)]
  | .frem d a b fm => [wordA 0x35 sc d.code a.code b.code (fm.code2 * 4)]
  | .fmin d a b fm => [wordA 0x36 sc d.code a.code b.code (fm.code2 * 4 + 0)]
  | .fmax d a b fm => [wordA 0x36 sc d.code a.code b.code (fm.code2 * 4 + 1)]
  | .fminn d a b fm => [wordA 0x36 sc d.code a.code b.code (fm.code2 * 4 + 2)]
  | .fmaxn d a b fm => [wordA 0x36 sc d.code a.code b.code (fm.code2 * 4 + 3)]
  | .fcmp d a b fm c => [wordA 0x37 sc d.code a.code b.code (fm.code2 * 4 + c.code)]
  | .fclass d a fm => [wordA 0x38 sc d.code a.code 0 (fm.code2 * 4)]
  | .fsgnJ d a b fm => [wordA 0x38 sc d.code a.code b.code (fm.code2 * 4 + 1)]
  | .fsgnN d a b fm => [wordA 0x38 sc d.code a.code b.code (fm.code2 * 4 + 2)]
  | .fsgnX d a b fm => [wordA 0x38 sc d.code a.code b.code (fm.code2 * 4 + 3)]
  | .frint d a fm r => [wordA 0x39 sc d.code a.code 0 (fm.code2 * 4 + r.code)]
  | .fscalb d a b fm r => [wordA 0x3a sc d.code a.code b.code (fm.code2 * 4 + r.code)]
  | .flogb d a fm => [wordA 0x3b sc d.code a.code 0 (fm.code2 * 4)]
  | .fnextUp d a fm => [wordA 0x3c sc d.code a.code 0 (fm.code2 * 4 + 0)]
  | .fnextDn d a fm => [wordA 0x3c sc d.code a.code 0 (fm.code2 * 4 + 1)]
  | .faddLong d a b fm rm ov => [wordA 0x70 sc d.code a.code b.code 0, wordLM 0 rm.code fm.code 0 0 ov.code 0]
  | .fsubLong d a b fm rm ov => [wordA 0x70 sc d.code a.code b.code 1, wordLM 0 rm.code fm.code 0 0 ov.code 0]
  | .fmulLong d a b fm rm ov => [wordA 0x70 sc d.code a.code b.code 2, wordLM 0 rm.code fm.code 0 0 ov.code 0]
  | .fdivLong d a b fm rm ov => [wordA 0x70 sc d.code a.code b.code 3, wordLM 0 rm.code fm.code 0 0 ov.code 0]
  | .fsqrtLong d a fm rm ov => [wordA 0x70 sc d.code a.code 0 4, wordLM 0 rm.code fm.code 0 0 ov.code 0]
  | .fremLong d a b fm => [wordA 0x70 sc d.code a.code b.code 5, wordLM 0 0 fm.code 0 0 0 0]
  | .fminLong d a b fm => [wordA 0x70 sc d.code a.code b.code 6, wordLM 0 0 fm.code 0 0 0 0]
  | .fmaxLong d a b fm => [wordA 0x70 sc d.code a.code b.code 6, wordLM 0 0 fm.code 0 0 0 1]
  | .fminnLong d a b fm => [wordA 0x70 sc d.code a.code b.code 6, wordLM 0 0 fm.code 0 0 0 2]
  | .fmaxnLong d a b fm => [wordA 0x70 sc d.code a.code b.code 6, wordLM 0 0 fm.code 0 0 0 3]
  | .fcmpLong d a b fm c => [wordA 0x70 sc d.code a.code b.code 7, wordLM 0 0 fm.code 0 0 0 c.code]
  | .fclassLong d a fm => [wordA 0x70 sc d.code a.code 0 8, wordLM 0 0 fm.code 0 0 0 0]
  | .fsgnJLong d a b fm => [wordA 0x70 sc d.code a.code b.code 8, wordLM 0 0 fm.code 0 0 0 1]
  | .fsgnNLong d a b fm => [wordA 0x70 sc d.code a.code b.code 8, wordLM 0 0 fm.code 0 0 0 2]
  | .fsgnXLong d a b fm => [wordA 0x70 sc d.code a.code b.code 8, wordLM 0 0 fm.code 0 0 0 3]
  | .frintLong d a fm rm ov => [wordA 0x70 sc d.code a.code 0 9, wordLM 0 rm.code fm.code 0 0 ov.code 0]
  | .frintX d a fm rm ov => [wordA 0x70 sc d.code a.code 0 9, wordLM 0 rm.code fm.code 0 0 ov.code 1]
  | .fscalbLong d a b fm rm ov => [wordA 0x70 sc d.code a.code b.code 10, wordLM 0 rm.code fm.code 0 0 ov.code 0]
  | .flogbLong d a fm => [wordA 0x70 sc d.code a.code 0 11, wordLM 0 0 fm.code 0 0 0 0]
  | .fnextUpLong d a fm => [wordA 0x70 sc d.code a.code 0 12, wordLM 0 0 fm.code 0 0 0 0]
  | .fnextDnLong d a fm => [wordA 0x70 sc d.code a.code 0 12, wordLM 0 0 fm.code 0 0 0 1]
  | .fma d a b c fm rm ov => [wordA 0x70 sc d.code a.code b.code 13, wordLM c.code rm.code fm.code 0 0 ov.code 0]
  | .fms d a b c fm rm ov => [wordA 0x70 sc d.code a.code b.code 13, wordLM c.code rm.code fm.code 0 0 ov.code 1]
  | .fnma d a b c fm rm ov => [wordA 0x70 sc d.code a.code b.code 13, wordLM c.code rm.code fm.code 0 0 ov.code 2]
  | .fnms d a b c fm rm ov => [wordA 0x70 sc d.code a.code b.code 13, wordLM c.code rm.code fm.code 0 0 ov.code 3]
  | .fcvt d a dst src rm ov => [wordA 0x71 sc d.code a.code 0 0, wordLM 0 rm.code dst.code 0 0 ov.code src.code]
  | .fcvti d a dst src rm => [wordA 0x71 sc d.code a.code 0 1, wordLM 0 rm.code dst.code 0 0 0 src.code]
  | .icvtf d a dst src rm ov => [wordA 0x71 sc d.code a.code 0 2, wordLM 0 rm.code dst.code 0 0 ov.code src.code]
  | .fpk8 d a b c dst src rm ov => [wordA 0x71 sc d.code a.code b.code 3, wordLM c.code rm.code dst.code 0 0 ov.code src.code]
  | .fupk8 d a b dst src rm => [wordA 0x71 sc d.code a.code b.code 4, wordLM 0 rm.code dst.code 0 0 0 src.code]
  | .xinit a b => [wordA 0x72 sc 0 a.code b.code 0, 0]
  | .xadd a b => [wordA 0x72 sc 0 a.code b.code 1, 0]
  | .xmad a b c => [wordA 0x72 sc 0 a.code b.code 2, wordLM c.code 0 0 0 0 0 0]
  | .xaddn a b => [wordA 0x72 sc 0 a.code b.code 3, 0]
  | .xrnd d a rm => [wordA 0x72 sc d.code a.code 0 4, wordLM 0 rm.code 0 0 0 0 0]
  | .xstat d a => [wordA 0x72 sc d.code a.code 0 5, 0]
  | .join d a => [wordA 0x40 sc d.code a.code 0 0]
  | .yield => [wordA 0x40 sc 0 0 0 1]
  | .self d e => [wordA 0x40 sc d.code 0 e.val 2]
  | .spawn a b c idx => [wordA 0x76 sc 0 a.code b.code 0, wordLM c.code 0 0 0 0 0 idx.toNat]
  | .grp d slot => [wordA 0x41 sc d.code 0 slot.val 0]
  | .barArrive d slot => [wordA 0x41 sc d.code 0 slot.val 1]
  | .barWait slot => [wordA 0x41 sc 0 0 slot.val 2]
  | .bar d slot => [wordA 0x41 sc d.code 0 slot.val 3]
  | .convene d slot => [wordA 0x42 sc d.code 0 slot.val 0]
  | .disband slot => [wordA 0x42 sc 0 0 slot.val 1]
  | .send16 a b => [wordA 0x43 sc 0 a.code b.code 0]
  | .send32 a b => [wordA 0x43 sc 0 a.code b.code 1]
  | .send48 a b => [wordA 0x43 sc 0 a.code b.code 2]
  | .sendLong a b len rel scope dfr => [wordA 0x76 sc 0 a.code b.code 1, wordLM 0 0 0 (2 * rel.toNat) scope.code dfr.toNat len.code]
  | .recv d a b => [wordA 0x43 sc d.code a.code b.code 3]
  | .mbpeek d a => [wordA 0x43 sc d.code a.code 0 4]
  | .rcpDef n idx => [0x44 * 2 ^ 25 + sc.val * 2 ^ 22 + n.val * 2 ^ 20 + idx.val * 2 ^ 13]
  | .rcpTag idx r => [0x44 * 2 ^ 25 + sc.val * 2 ^ 22 + idx.val * 2 ^ 13 + r.code * 2 ^ 7 + 1]
  | .rcpDrop r => [0x44 * 2 ^ 25 + sc.val * 2 ^ 22 + r.code * 2 ^ 7 + 2]
  | .rcpClr r => [0x44 * 2 ^ 25 + sc.val * 2 ^ 22 + r.code * 2 ^ 7 + 3]
  | .push d a => [wordA 0x48 sc d.code a.code 0 0]
  | .pushDefer d a => [wordA 0x77 sc d.code a.code 0 1, 256]
  | .pop d a => [wordA 0x48 sc d.code a.code 0 1]
  | .waitt a => [wordA 0x49 sc 0 a.code 0 0]
  | .tagff d a => [wordA 0x49 sc d.code a.code 0 1]
  | .tagclr a => [wordA 0x49 sc 0 a.code 0 2]
  | .lrec a b => [wordA 0x4a sc 0 a.code b.code 0]
  | .subMc d a b => [wordA 0x4a sc d.code a.code b.code 1]
  | .unsub a => [wordA 0x4a sc 0 a.code 0 2]
  | .ovld d a b => [wordA 0x4a sc d.code a.code b.code 3]
  | .ringcfg a g => [wordA 0x4b sc 0 a.code (g.val * 4) 0]
  | .rpushRes d g => [wordA 0x4b sc d.code 0 (g.val * 4) 1]
  | .rpushFill a g => [wordA 0x4b sc 0 a.code (g.val * 4) 2]
  | .rpop g => [wordA 0x4b sc 0 0 (g.val * 4) 3]
  | .mma ra rb acc fm => [wordMma 0x4c sc ra rb acc (fm.code * 2 ^ 5 + 0)]
  | .mmaKeepa ra rb acc fm => [wordMma 0x4c sc ra rb acc (fm.code * 2 ^ 5 + 1)]
  | .mmaKeepb ra rb acc fm => [wordMma 0x4c sc ra rb acc (fm.code * 2 ^ 5 + 2)]
  | .mmaKeep ra rb acc fm => [wordMma 0x4c sc ra rb acc (fm.code * 2 ^ 5 + 3)]
  | .mmaLong ra rb acc fa fb rm ka kb => [wordMma 0x77 sc ra rb acc 0, wordLM 0 rm.code fa.code 0 0 (ka.toNat + 2 * kb.toNat) fb.code]
  | .mmaStart => []
  | .mmaRetirement => []
  | .accz fm acc => [0x4d * 2 ^ 25 + sc.val * 2 ^ 22 + fm.code * 2 ^ 16 + 0 * 2 ^ 10 + acc.val * 2 ^ 7 + 0 * 2 ^ 4 + 0]
  | .accld fm a acc => [0x4d * 2 ^ 25 + sc.val * 2 ^ 22 + fm.code * 2 ^ 16 + a.code * 2 ^ 10 + acc.val * 2 ^ 7 + 0 * 2 ^ 4 + 1]
  | .accst fm a acc rm => [0x4d * 2 ^ 25 + sc.val * 2 ^ 22 + fm.code * 2 ^ 16 + a.code * 2 ^ 10 + acc.val * 2 ^ 7 + rm.code * 2 ^ 4 + 2]
  | .accstOvf fm a acc rm => [0x4d * 2 ^ 25 + sc.val * 2 ^ 22 + fm.code * 2 ^ 16 + a.code * 2 ^ 10 + acc.val * 2 ^ 7 + rm.code * 2 ^ 4 + 3]
  | .mstat d acc e => [0x4d * 2 ^ 25 + sc.val * 2 ^ 22 + d.code * 2 ^ 16 + 0 * 2 ^ 10 + acc.val * 2 ^ 7 + e.val * 2 ^ 4 + 4]
  | .forkw d a => [wordA 0x4e sc d.code a.code 0 0]
  | .forkwDefer d a => [wordA 0x78 sc d.code a.code 0 0, 256]
  | .choose a => [wordA 0x4e sc 0 a.code 0 1]
  | .abandon => [wordA 0x4e sc 0 0 0 2]
  | .wself d => [wordA 0x4e sc d.code 0 0 3]
  | .choiceEvent => []
  | .deferredEntryPerform => []
  | .csrr d num => [wordI 0x50 sc d.code 0 num.toNat]
  | .csrw a num => [wordI 0x51 sc 0 a.code num.toNat]
  | .csrx d a num => [wordI 0x52 sc d.code a.code num.toNat]
  | .trap a => [wordA 0x53 sc 0 a.code 0 0]
  | .eret => [wordA 0x53 sc 0 0 0 1]
  | .sysc d a => [wordA 0x53 sc d.code a.code 0 2]
  | .tlbinvPg a b => [wordA 0x54 sc 0 a.code b.code 0]
  | .tlbinvCtx a b => [wordA 0x54 sc 0 a.code b.code 1]
  | .tlbinvAll a b => [wordA 0x54 sc 0 a.code b.code 2]
  | .tlbinvLong a b kind scope => [wordA 0x78 sc 0 a.code b.code 1, wordLM 0 0 0 0 scope.code 0 kind.val]
  | .halt => [wordA 0x55 sc 0 0 0 0]
  | .bkpt => [wordA 0x55 sc 0 0 0 1]
  | .ckpt d => [wordA 0x55 sc d.code 0 0 2]
  | .cap d a => [wordA 0x55 sc d.code a.code 0 3]
  | .filterLdev d n => [0x01 * 2 ^ 26 + d.val * 2 ^ 23 + n.val]
  | .filterMulu d a s => [wordF 0x02 d a s]
  | .filterLi d imm => [0x03 * 2 ^ 26 + d.val * 2 ^ 23 + imm.toNat]
  | .filterAdd d a s => [wordF 0x04 d a s]
  | .filterSub d a s => [wordF 0x05 d a s]
  | .filterAnd d a s => [wordF 0x06 d a s]
  | .filterOr d a s => [wordF 0x07 d a s]
  | .filterXor d a s => [wordF 0x08 d a s]
  | .filterShl d a s => [wordF 0x09 d a s]
  | .filterShr d a s => [wordF 0x0a d a s]
  | .filterMin d a s => [wordF 0x0b d a s]
  | .filterMax d a s => [wordF 0x0c d a s]
  | .filterBeq a b off => [0x0d * 2 ^ 26 + a.val * 2 ^ 20 + b.val * 2 ^ 17 + off.val]
  | .filterBne a b off => [0x0e * 2 ^ 26 + a.val * 2 ^ 20 + b.val * 2 ^ 17 + off.val]
  | .filterBltu a b off => [0x0f * 2 ^ 26 + a.val * 2 ^ 20 + b.val * 2 ^ 17 + off.val]
  | .filterBgeu a b off => [0x10 * 2 ^ 26 + a.val * 2 ^ 20 + b.val * 2 ^ 17 + off.val]
  | .filterBr off => [0x11 * 2 ^ 26 + off.val]
  | .filterHinc obj a b => [0x12 * 2 ^ 26 + a.val * 2 ^ 20 + b.val * 2 ^ 17 + obj.val]
  | .filterCms obj a b => [0x13 * 2 ^ 26 + a.val * 2 ^ 20 + b.val * 2 ^ 17 + obj.val]
  | .filterHll obj a => [0x14 * 2 ^ 26 + a.val * 2 ^ 20 + obj.val]
  | .filterLdo d obj a => [0x15 * 2 ^ 26 + d.val * 2 ^ 23 + a.val * 2 ^ 20 + obj.val]
  | .filterTrig n a => [0x16 * 2 ^ 26 + a.val * 2 ^ 20 + n.val]
  | .filterExp a b tag => [0x17 * 2 ^ 26 + a.val * 2 ^ 20 + b.val * 2 ^ 17 + tag.toNat]
  | .filterSreq => [0x18 * 2 ^ 26]
  | .filterEnd => [0x19 * 2 ^ 26]
  | .copy => []
  | .gather => []
  | .fill => []
  | .readq => []
  | .mcast => []
  | .mark => []
  | .ovldCommand => []
  | .commandCompletion => []
  | .channelResume => []
  | .multicastJoin => []
  | .multicastLeave => []
  | .multicastDelivery => []
  | .contextKill => []
  | .fenceOutAcknowledgement => []
  | .killStampWrite => []
  | .pageWalk => []
  | .chunkEnd => []
  | .commitRequest => []
  | .commitGrant => []
  | .commitConfirmation => []
  | .invalidation => []
  | .invalidationAcknowledgement => []
  | .invalidationRefusal => []
  | .commitPoint => []
  | .pinTokenGrant => []
  | .readMiss => []
  | .forwardedRead => []
  | .ownerData => []
  | .negativeAcknowledgement => []
  | .writeBack => []
  | .l1Replacement => []
  | .homePerformedWrite => []
  | .recall => []
  | .sliceReplacement => []
  | .singletonAccess => []
  | .postedStorePerform => []
  | .watchArrival => []
  | .mwaitLimitExpiry => []
  | .answerResend => []
  | .clusterReport => []
  | .clusterFence => []
  | .ucieLinkFailure => []
  | .dieFence => []
  | .messageAgeDiscard => []
  | .sequencerTicket => []
  | .sequencerTakeover => []
  | .hbmScrub => []
  | .hbmRefresh => []
  | .weightStoreWindowOpen => []
  | .weightStoreWindowClose => []
  | .granuleRestore => []
  | .contextSwitchOut => []
  | .contextSwitchIn => []
  | .tileSwap => []
  | .queueTailChange => []
  | .launchRecordTake => []
  | .rangeRequest => []
  | .shareRebalance => []
  | .priorityAging => []
  | .stealProbe => []
  | .recordAdmission => []
  | .granulePlacementEviction => []
  | .slotWaitMark => []
  | .longMissTimeout => []
  | .threadEviction => []
  | .wakeConditionMet => []
  | .launchCompletion => []
  | .vfSliceEnd => []
  | .trapDelivery => []
  | .dctlHalt => []
  | .dctlRel => []
  | .crossTriggerHalt => []
  | .dtdataAccess => []
  | .trbaseWrite => []
  | .traceStateChange => []
  | .traceSpanRecord => []
  | .samplePeriod => []
  | .sampleRequestTake => []
  | .sillageEvent => []
  | .sillageBudgetRefill => []
  | .spctlInstall => []
  | .spctlUninstall => []
  | .atctlAttach => []
  | .atctlDetach => []
  | .objValidate => []
  | .objRemove => []
  | .tgcntClear => []
  | .tnexpbaseWrite => []
  | .checkpoint => []
  | .checkpointComplete => []
  | .logAcknowledgement => []
  | .rollback => []
  | .hostWrite => []
  | .hostRead => []
  | .hostSequencedOperation => []
  | .partitionCreate => []
  | .stateWriteRun => []
  | .stateWriteStopped => []
  | .stateWriteLoad => []
  | .stateTransitionComplete => []
  | .rsmapWrite => []
  | .resizeComplete => []
  | .contextDescriptorValidate => []
  | .killWrite => []
  | .queueEnWrite => []
  | .counterClearWrite => []
  | .routeTableWrite => []
  | .routeLoss => []
  | .routeReturn => []
  | .unreachableTimeout => []
  | .fabricRequest => []
  | .messageArrival => []
  | .clockStretch => []
  | .boot => []
  | .registerWrite => []
  | .clusterReadmission => []
  | .ioDieFailure => []

end Sys2Proof
end

