-- ==== Sys2Proof/Machine/Assoc.lean ====
section
/-! DEFINITION. Assoc.lean: tables as lists of key and value, newest first; one entry for a key. -/

namespace Sys2Proof.Machine

/-- The value at a key. -/
def Assoc.get {κ α : Type} [DecidableEq κ] (l : List (κ × α)) (k : κ) : Option α :=
  match l with
  | [] => none
  | (k', v) :: r => if k' = k then some v else Assoc.get r k

/-- The value at a key, or a default. -/
def Assoc.getD {κ α : Type} [DecidableEq κ] (l : List (κ × α)) (k : κ) (d : α) : α := (Assoc.get l k).getD d

/-- The table without a key. -/
def Assoc.erase {κ α : Type} [DecidableEq κ] (l : List (κ × α)) (k : κ) : List (κ × α) := l.filter (fun e => e.1 ≠ k)

/-- The table with a key set. -/
def Assoc.set {κ α : Type} [DecidableEq κ] (l : List (κ × α)) (k : κ) (v : α) : List (κ × α) := (k, v) :: Assoc.erase l k

end Sys2Proof.Machine
end

