-- ==== Sys2Proof/Config.lean ====
section
/-! DEFINITION. Config.lean: what an implementation of the DST-848 fixes and the spec leaves open. Every name here has NO value:
a statement that holds, holds for every value (notes/assumptions/3.md). -/

namespace Sys2Proof.Config

/-- A fresh free value: the n-th value that the spec leaves open (State.free counts them). -/
opaque free : Nat → Word

/-- The digest of the public key that is fused into I/O die 0 (R461). -/
opaque fusedKeyDigest : BitVec 256

/-- Whether an RSASSA-PSS signature of 3,072 bits over this digest verifies against this public key: key, digest, signature (R461; its encoding, its
salt and its exponent are not given). -/
opaque signatureHolds : List Byte → BitVec 256 → List Byte → Bool

/-- The signature of an attestation report over these registers and this nonce, under the device's attestation key (R461). -/
opaque attest : List (BitVec 256) → BitVec 256 → BitVec 3072

/-- The measurement register (0-7) into which a boot stage's digest is extended (R461 names eight, not which). -/
opaque measureRegister : Nat → Fin 8

/-- Which device numbers belong to the load-store domain (R22, R33 condition 7; the spec names no register that says so). -/
opaque inDomain : Nat → Bool

/-- Whether a core of another device of the domain is held by a partition of a domain job (R352: device, core, job; only that device can tell). -/
opaque holdsCore : Nat → Nat → Nat → Bool

/-- Whether the device that owns a remote PA performs a request of this job there (R455: only that device can tell). -/
opaque remoteGrants : Nat → Nat → Bool

/-- The successor map that stands at a PA: removed core or cluster (clusters from 2048 up) and its successor (R412 gives no layout). -/
opaque successorMap : Nat → List (Nat × Nat)

end Sys2Proof.Config
end

