-- ==== Sys2Proof/Machine/MemSt.lean ====
section
/-! DEFINITION. MemSt.lean: the state of memory, instruction scratchpads, translations and coherence (R22-R24, R38, R55-R60,
R83, R84, R89, R110-R112, R116, R120, R339, R341). -/

namespace Sys2Proof.Machine

/-- A residency tag of an instruction-scratchpad frame (R58): context tag and VA[56:10]. -/
structure FrameTag where
  core : Nat
  frame : Nat
  ctx : Nat
  block : Nat
  deriving DecidableEq, Repr

/-- A translation held by a TLB (R38): the cluster, VA base, log2 of the page size, context tag, the leaf entry as read (its class,
permissions, format, second frame and dirty bit), its PA, the frame selected (R45). -/
structure Tlb where
  cl : Nat
  ctx : Nat
  base : Nat
  lg : Nat
  leafPa : Nat
  leaf : Nat
  frame : Nat
  deriving DecidableEq, Repr

/-- A non-leaf entry held by a die's walk caches (R26, R38): context tag, level of the node it names, the VA bits above that level, the
node's PA. -/
structure WalkEnt where
  die : Nat
  ctx : Nat
  lvl : Nat
  base : Nat
  node : Nat
  deriving DecidableEq, Repr

/-- Memory and what is fetched or translated from it. -/
structure MemSt where
  /-- bytes by 52-bit PA (R22): HBM4, weight store, scratchpads, remote memory; canonical form, unlisted bytes read as 0 -/
  cells : List Host.Cell
  /-- instruction-scratchpad bytes: address core * 2^17 + frame * 1024 + offset (R58) -/
  icells : List Host.Cell
  frames : List FrameTag
  /-- ISCTL.PINF per core (R60) -/
  pinf : List (Nat × Nat)
  /-- the L2 TLB of each cluster, at most 4,096 entries of a cluster (R38) -/
  tlb : List Tlb
  /-- the L1 TLB of each core, at most 128 entries of a core (R38) -/
  l1tlb : List (Nat × Tlb)
  /-- walk caches of the dies' walkers (R38) -/
  wcache : List WalkEnt
  /-- lines marked poisoned (R70) -/
  poisoned : List Nat
  deriving DecidableEq, Repr

/-- A line in an L1 (R55, R89): class, context tag and VA of the fill (class G), bytes, valid and dirty masks. -/
structure L1Line where
  core : Nat
  line : Nat
  cls : MemClass
  ctx : Nat
  va : Nat
  data : List Byte
  valid : Nat
  dirty : Nat
  /-- launch and index of the thread that last stored into the line (class G; R455) -/
  last : Nat × Nat
  deriving DecidableEq, Repr

/-- Directory states (R84). -/
inductive DirState where
  | I | S | O | IA | FW | WP | RC
  deriving DecidableEq, Repr

/-- Who a home answers when the line is stable again (R85, R86). -/
inductive Held where
  /-- a read of class `cls` by a core, with the incarnation of its cluster -/
  | read (core : Nat) (cls : MemClass) (inc : Nat)
  /-- a home-performed write under a mask, with the writer's agent number and incarnation (R86, R95, R115) -/
  | write (data : List (Option Byte)) (agent : Nat) (inc : Nat)
  /-- a home-performed write whose bytes stand in the home and whose invalidations are not all acknowledged (R86) -/
  | wrote (agent : Nat)
  /-- a singleton access of a thread (R104); once the line is stable it is performed -/
  | turn (uid : Nat) (core : Nat) (pa : Nat) (op : HomeOp) (inc : Nat)
  /-- a commit request or confirmation that names the line (R111, R113), looked at once the line is stable -/
  | asks (uid : Nat) (inc : Nat)
  /-- a read by a copy engine, as an agent (R86) -/
  | fetch (agent : Nat) (inc : Nat)
  /-- a walk of a cluster, for a core of it or its engine, a context and a page (R40, R50) -/
  | walk (cl : Nat) (core : Option Nat) (ctx : Nat) (va : Nat) (kind : AccKind) (user : Bool) (inc : Nat)
  /-- the commit that invalidates: the chunk's thread -/
  | commit (uid : Nat)
  /-- replacement in the slice -/
  | replace
  deriving DecidableEq, Repr

/-- A directory entry (R83). -/
structure DirEnt where
  line : Nat
  st : DirState
  ptrs : List Nat
  bc : Bool
  owner : Nat
  inc : Nat
  pend : Nat
  /-- the cores whose answers PEND counts (R84, R96) -/
  due : List Nat
  /-- its owner has been fenced: held until the rollback (R96) -/
  stale : Bool
  /-- the request being served in a transient state -/
  busy : Option Held
  /-- pointers before the invalidation, restored on a refusal (R113); in state O under a commit, not empty where the committing core owned
  the line before -/
  before : List Nat
  /-- requests held in order of arrival (R85) -/
  queue : List Held
  /-- in state WP: the write-back has arrived; the negative acknowledgement has arrived (R88) -/
  gotWb : Bool
  gotNack : Bool
  /-- its home has sent its message again (R96) -/
  resent : Bool
  deriving DecidableEq, Repr

/-- A commit request at a home (R111, R112). -/
structure CommitReq where
  home : Nat
  uid : Nat
  stamp : Nat
  core : Nat
  lines : List Nat
  reads : List Nat
  writes : List Nat
  view : Option Nat
  pinned : Bool
  granted : Bool
  confirmed : Bool
  deriving DecidableEq, Repr

/-- A posted remote store (R104, R120) or a write-back of remote guarded bytes (R455), under a mask, held while its partition's log is not
acknowledged up to a position (R439); its launch and index, and the pc and access descriptor of the store that a refusal is logged with. -/
structure Posted where
  part : Nat
  upTo : Nat
  lnum : Nat
  index : Nat
  va : Nat
  uid : Nat
  dev : Nat
  pa : Nat
  data : List (Option Byte)
  /-- core of the thread, and its LC when the store left (R115) -/
  core : Nat
  lc : Nat
  /-- incarnation of the core's cluster (R95) -/
  inc : Nat
  /-- a write-back of guarded bytes, for which the releases of its core wait (R122) -/
  back : Bool
  pc : Word
  desc : Word
  deriving DecidableEq, Repr

/-- An armed watch (R341): its line, the watching thread, the reference stamp, whether the home discarded it by triggering, and
whether the chunk that armed it has yet to reach its commit point. -/
structure Watch where
  line : Nat
  uid : Nat
  ref : Nat
  forced : Bool
  fresh : Bool
  deriving DecidableEq, Repr

/-- A waiter of a sync object (R339): line, thread. -/
structure Waiter where
  line : Nat
  uid : Nat
  deriving DecidableEq, Repr

/-- A mailbox message in the network (R97, R352): the sender's cluster, its incarnation, device and core; the target. -/
structure Mesg where
  cl : Nat
  inc : Nat
  srcDev : Nat
  src : Nat
  dev : Nat
  core : Nat
  box : Nat
  ctx : Nat
  data : List Byte
  /-- release carried: sent by `send.rel` (R354), and its scope -/
  rel : Bool
  scope : Scope
  stamp : Nat
  uid : Nat
  /-- position of the sender's order log, whose acknowledgement a message to another partition awaits (R439) -/
  upTo : Nat
  deriving DecidableEq, Repr

/-- Coherence and commit. -/
structure CohSt where
  l1 : List L1Line
  dir : List DirEnt
  /-- line stamps by line PA, scratchpad lines included (R110, R475) -/
  stamps : List (Nat × Nat)
  /-- context tag of lines in the L2 (R64) -/
  tags : List (Nat × Nat)
  /-- LC of each core (R110) -/
  lc : List (Nat × Nat)
  /-- clocks of home slices, engines, links: agents numbered from 4096 (R110, R115) -/
  clock : List (Nat × Nat)
  reqs : List CommitReq
  /-- holder of each partition's pin token, and the queue for it (R116) -/
  pinHolder : List (Nat × Nat)
  pinQueue : List (Nat × Nat)
  /-- armed watches, oldest first (R341) -/
  watches : List Watch
  waiters : List Waiter
  posted : List Posted
  /-- leaves in which DT is due when a write of a copy engine is performed: the engine's agent number, the line, the leaf's PA (R37) -/
  dts : List (Nat × Nat × Nat)
  /-- incarnation of each cluster (R95) -/
  inc : List (Nat × Nat)
  fencedCl : List Nat
  fencedDie : List Nat
  /-- clusters reported within 100 us, newest first (R98) -/
  reports : List Nat
  /-- messages in the network (R97, R352) -/
  net : List Mesg
  deriving DecidableEq, Repr

def MemSt.empty : MemSt := { cells := [], icells := [], frames := [], pinf := [], tlb := [], l1tlb := [], wcache := [], poisoned := [] }

def CohSt.empty : CohSt :=
  { l1 := [], dir := [], stamps := [], tags := [], lc := [], clock := [], reqs := [], pinHolder := [], pinQueue := [],
    watches := [], waiters := [], posted := [], dts := [], inc := [], fencedCl := [], fencedDie := [], reports := [], net := [] }

end Sys2Proof.Machine
end

