-- ==== Sys2Proof/Machine/ThreadSt.lean ====
section
/-! DEFINITION. ThreadSt.lean: the state of one thread (R101, R196, R212, R248-R258, R391, R392). -/

namespace Sys2Proof.Machine

/-- A queue entry or named register: its value, and the producer's place and fixed latency for the check of R274 (latency 0:
variable latency or delivered by a singleton, never checked). -/
structure Reg where
  val : Word
  born : Nat
  lat : Nat
  deriving DecidableEq, Repr

/-- The registers that a trap writes at one handler level, and the handler address (R391-R393). -/
structure TrapBank where
  handler : Word
  pc : Word
  cause : Word
  i0 : Word
  i1 : Word
  i2 : Word
  i3 : Word
  /-- of an engine fault, what its fault record holds beside (R405): bits [191:128] of the command word, core and index of the issuing thread -/
  eng : Option (Word × Nat × Nat)
  deriving DecidableEq, Repr

/-- The start state of R101: what a squash restores. -/
structure Arch where
  pc : Word
  /-- q0 to q15, q0 first (R249) -/
  q : List Reg
  /-- n0 to n43 (R251) -/
  n : List Reg
  fpctl : Word
  fpflags : Word
  /-- EXECCTL.CHK (R255) -/
  chk : Bool
  /-- EXECCTL.SUP (R255) -/
  sup : Bool
  /-- EXECCTL.TOKEN (R255, R425) -/
  token : Bool
  grpslots : Word
  /-- suppress-once bit (R402) -/
  suppress : Bool
  /-- the armed monitor: the line's PA (R341) -/
  monitor : Option Nat
  /-- bindings of soft registers: register number and recipe index (R258, R358) -/
  binds : List (Nat × Nat)
  /-- handler level 0-2 (R391) -/
  level : Nat
  /-- the last commit stamp (R110) -/
  lastStamp : Nat
  /-- program distance run so far (R274) -/
  dist : Nat
  deriving DecidableEq, Repr

/-- Phases of a chunk (R100, R111). -/
inductive Phase where
  | running
  | requesting
  | committing
  deriving DecidableEq, Repr

/-- The running chunk (R100-R109). -/
structure Chunk where
  /-- instructions retired in the chunk, or in the sub-chunk since its last end by overflow (R102, R106) -/
  count : Nat
  /-- instructions retired in the chunk's earlier sub-chunks (R102, R106) -/
  before : Nat
  /-- values that the chunk's earlier sub-chunks have recorded (R105, R106) -/
  passed : Nat
  /-- the start state (R101) -/
  start : Arch
  /-- exact read signature: line PAs (R109) -/
  reads : List Nat
  /-- D-class bytes written and held (R107), newest first -/
  writes : List Host.Cell
  /-- G-class bytes written and held (R107), newest first -/
  gwrites : List Host.Cell
  /-- own-cluster window bytes held in the window store buffer (R107), newest first -/
  wstores : List Host.Cell
  /-- translations stored through: VA page base, context, PA of the leaf, the entry installed (R37) -/
  dirty : List (Nat × Nat × Nat × Nat)
  /-- translations used: context, VA of the page, log2 of its size (R43) -/
  used : List (Nat × Nat × Nat)
  /-- ended before a singleton of R103 or R104: the instruction at the pc is performed between chunks once the chunk has committed -/
  single : Bool
  /-- ended only for want of room: a sub-chunk (R106) -/
  sub : Bool
  /-- a release on commit asked by an atomic (R124) -/
  rel : Bool
  /-- an acquire on commit asked by an atomic of order `.sc` (R124) -/
  acq : Bool
  /-- a poisoned line of another class than D has been read (R70, R71) -/
  poison : Bool
  /-- lines whose write-back `wb` asked at the commit point (R333) -/
  wbs : List Nat
  /-- values of R105 read in the chunk, newest first -/
  logged : List Word
  /-- lines for which the chunk has recorded the outcome of a spill reservation (R139) -/
  asks : List Nat
  phase : Phase
  /-- request key: stamp (R111) -/
  key : Nat
  /-- homes asked, homes that granted, homes that reported all acknowledgements (R111-R114) -/
  asked : List Nat
  granted : List Nat
  reported : List Nat
  /-- greatest stamp carried by its grants and acknowledgements (R114) -/
  seen : Nat
  /-- the other device whose memory or mailbox the singleton in progress names (R429) -/
  far : Option Nat
  deriving DecidableEq, Repr

/-- What a waiting thread waits for (R210). -/
inductive Wait where
  /-- its chunk's commit point (R103) -/
  | commit
  /-- a line or a held translation (R85, R210) -/
  | memory (line : Nat)
  /-- a write to the armed line, or the limit (R342) -/
  | mwait (line : Nat)
  | recv (mask : Nat)
  | sendRoom (core : Nat) (box : Nat)
  | barrier (lnum : Nat) (grp : Nat) (phase : Nat)
  | tag (t : Nat)
  | convene (lnum : Nat) (grp : Nat)
  | ring (g : Nat)
  | fifo (n : Nat)
  | freeTag
  | deque
  | choice (fork : Nat)
  | deferred
  /-- a context that is switched out on a cluster (R21, R176) -/
  | context (cl : Nat) (ctx : Nat)
  /-- a place in a waiter list (R339) -/
  | sync (line : Nat)
  /-- a ticket of the global sequencer (R126) -/
  | ticket
  /-- a route to a device that is not live (R458) -/
  | route (dev : Nat)
  /-- the partition's pin token (R116) -/
  | pin
  /-- a tile save block or a save block (R411) -/
  | saveBlock
  /-- a granule restore (R79) -/
  | granule (cl : Nat) (ctx : Nat) (off : Nat)
  /-- an L1 line or a window buffer entry that another thread's chunk holds (R102) -/
  | room
  /-- a line-request entry (R68) -/
  | lineEntry
  /-- a page walk pending for the cluster, or a walk request (R40): the page's VA -/
  | walk (va : Nat)
  /-- its posted remote stores (R302, R122) -/
  | posted
  /-- the acknowledgement of its partition's order log, before it changes another device's memory (R439), or an input that a replay
  partition does not have (R442) -/
  | acked
  /-- the root's acknowledgement of a join (R382) -/
  | subJoin (entry : Nat)
  /-- the retirement of its started `mma` (R371) -/
  | mma
  /-- a checkpoint, or the answer of the recovery controller (R389) -/
  | checkpoint
  deriving DecidableEq, Repr

/-- The condition of a thread slot (R100, R135, R419). -/
inductive Status where
  | vacant
  | running
  | waiting (w : Wait)
  /-- the suspended parent of a fork (R135) -/
  | parent (fork : Nat)
  /-- stopped by a debug halt (R419); the wait it stood in, if any -/
  | halted (w : Option Wait)
  deriving DecidableEq, Repr

/-- A synchronous trap: cause, subcause, underlying subcause and the four information words (R392, R396, R401). -/
structure Trap where
  cause : Nat
  sub : Nat
  usub : Nat
  i0 : Word
  i1 : Word
  i2 : Word
  i3 : Word
  /-- of an engine fault: bits [191:128] of the command word, core and index of the issuing thread (R405) -/
  eng : Option (Word × Nat × Nat) := none
  deriving DecidableEq, Repr

/-- An entry of a rival's deferral (R150): the instruction's pc, and the command (tag, 256-bit word, whether in user mode: R159) or the
message (target name, payload, release, scope). -/
inductive Deferred where
  | push (pc : Word) (tag : Nat) (word : Nat) (user : Bool)
  | send (pc : Word) (name : Word) (data : List Byte) (rel : Bool) (scope : Scope)
  deriving DecidableEq, Repr

/-- A thread (R4, R196, R202, R212). -/
structure Thread where
  /-- the model's handle of the thread, unique in the package -/
  uid : Nat
  status : Status
  core : Nat
  slot : Nat
  part : Nat
  /-- context tag of XLCTX (R25) -/
  xlctx : Word
  /-- launch context (R454) and virtual function -/
  ctx : Nat
  vf : Nat
  lnum : Nat
  /-- thread index, read by tid (R252) -/
  index : Nat
  /-- origin key (R196) -/
  origin : List Nat
  /-- JOIN of the record that made the thread (R196, R346) -/
  join : Word
  nreg : Nat
  nsoft : Nat
  a : Arch
  kern : TrapBank
  supv : TrapBank
  world : Word
  /-- enclosing view tags, innermost first (R137, R144) -/
  chain : List Nat
  /-- the fork of the thread's own view (R135) -/
  fork : Option Nat
  deferral : List Deferred
  chunk : Chunk
  /-- between chunks: the chunk before the instruction at the pc has reached its commit point, and that instruction is performed as
  a singleton (R100, R103) -/
  boundary : Bool
  /-- chunk sequence number (R106) -/
  seq : Nat
  squashes : Nat
  pinned : Bool
  /-- barrier phase of the last arrival, per slot (R350) -/
  arrivals : List (Nat × Nat)
  /-- crew entry (cluster, entry) and member number (R207) -/
  crew : Option (Nat × Nat × Nat)
  /-- tags allocated and not cleared (R380) -/
  tagCount : Nat
  /-- bound to a core (R199, R209, R380) -/
  boundCore : Option Nat
  /-- marked for eviction (R214) -/
  marked : Bool
  /-- to be evicted at its next pre-emption point (R203) -/
  leave : Bool
  /-- a trap waiting for the commit point (R390) -/
  pendTrap : Option Trap
  /-- words of the instruction being executed: first word in [31:0], second in [63:32] (R401) -/
  words : Nat
  /-- last evaluated values of soft registers (R262) -/
  kept : List (Nat × Word)
  /-- a miss of the thread has been outstanding for 2 us (R210) -/
  longMiss : Bool
  /-- pc of an instruction, and what it has registered or been granted elsewhere (a barrier rank, a ticket, a lock, a limit passed, a
  fork's status): used when it is performed again (R407) -/
  answer : Option (Word × Word)
  /-- the command word that the `push` at the pc has read, while it waits (R377) -/
  cmd : Option (Word × Nat)
  /-- order in which its current residency began (R203, R214) -/
  since : Nat
  /-- order in which its current wait began, 0 when it does not wait (R213) -/
  waited : Nat
  deriving DecidableEq, Repr

def Reg.zero : Reg := { val := 0, born := 0, lat := 0 }

def TrapBank.zero : TrapBank := { handler := 0, pc := 0, cause := 0, i0 := 0, i1 := 0, i2 := 0, i3 := 0, eng := none }

/-- What the thread's instruction has registered or been granted. -/
def Thread.answered (t : Thread) : Option Word :=
  match t.answer with
  | some (pc, v) => if pc = t.a.pc then some v else none
  | none => none

/-- Every register zero (R202); a slot that no thread has used holds this (notes/assumptions/5.md). -/
def Arch.zero : Arch :=
  { pc := 0, q := List.replicate 16 Reg.zero, n := List.replicate 44 Reg.zero, fpctl := 0, fpflags := 0, chk := false,
    sup := false, token := false, grpslots := 0, suppress := false, monitor := none, binds := [], level := 0, lastStamp := 0,
    dist := 0 }

/-- A chunk at its start (R100, R101). -/
def Chunk.fresh (a : Arch) : Chunk :=
  { count := 0, before := 0, passed := 0, start := a, reads := [], writes := [], gwrites := [], wstores := [], dirty := [], used := [],
    single := false, sub := false, rel := false, acq := false, poison := false, wbs := [], logged := [], asks := [], phase := .running, key := 0, asked := [], granted := [], reported := [], seen := 0
    far := none }

/-- The chunk that is run again from its start state: what its earlier sub-chunks have committed stands (R101, R106). -/
def Chunk.again (c : Chunk) : Chunk := { Chunk.fresh c.start with before := c.before, passed := c.passed }

/-- A vacant thread slot (notes/assumptions/5.md). -/
def Thread.vacant : Thread :=
  { uid := 0, status := .vacant, core := 0, slot := 0, part := 0, xlctx := 0, ctx := 0, vf := 0, lnum := 0, index := 0,
    origin := [], join := 0, nreg := 44, nsoft := 0, a := Arch.zero, kern := TrapBank.zero, supv := TrapBank.zero, world := 0,
    chain := [], fork := none, deferral := [], chunk := Chunk.fresh Arch.zero, boundary := false, seq := 0, squashes := 0, pinned := false,
    arrivals := [], crew := none, tagCount := 0, boundCore := none, marked := false, leave := false, pendTrap := none, words := 0, kept := [],
    longMiss := false, answer := none, cmd := none, since := 0, waited := 0 }

end Sys2Proof.Machine
end

