-- ==== Sys2Proof/Machine/EngSt.lean ====
section
/-! DEFINITION. EngSt.lean: the state of copy engines, layout records, channels, multicast, rings, crews, accumulator tiles,
completion tags, result elements, mailboxes and performance counters (R156-R185, R207, R242, R257, R352, R360-R372, R409). -/

namespace Sys2Proof.Machine

/-- A layout record of a cluster: its 768 bits and the context tag of the `lrec` that wrote it (R163). -/
structure Layout where
  cl : Nat
  idx : Nat
  word : Nat
  ctx : Nat
  deriving DecidableEq, Repr

/-- A copy of a layout record taken by a command: index, bits, and the context tag, none if never written (R156, R164). -/
structure LayoutCopy where
  idx : Nat
  word : Nat
  ctx : Option Nat
  deriving DecidableEq, Repr

/-- A source element: its bits, and the PA of its scale byte, its block's elements and the byte, where its page has a scale frame
(R34, R171). -/
structure SrcElem where
  val : Nat
  scale : Option (Nat × Nat × Nat)
  deriving DecidableEq, Repr

/-- A command in a FIFO or in progress (R156, R161). -/
structure Command where
  id : Nat
  cl : Nat
  core : Nat
  /-- 256-bit command word; an OVLD command carries OP 0x07 (R383) -/
  word : Nat
  pc : Word
  uid : Nat
  slot : Nat
  ctx : Nat
  part : Nat
  lnum : Nat
  index : Nat
  /-- pushed in user mode (R159) -/
  user : Bool
  src : Option LayoutCopy
  dst : Option LayoutCopy
  /-- pushed by `ovld` -/
  ovld : Bool
  /-- root of the context's page tables and its virtual function at the push (R159) -/
  root : Nat
  vf : Nat
  /-- linear index reached (R183) -/
  pos : Nat
  /-- ring entry reserved (R170) -/
  entry : Option Nat
  /-- payload performed (R181) -/
  finished : Bool
  /-- bytes moved (R424) -/
  moved : Nat
  /-- slab of a GATHER and the index read for it (R172) -/
  slab : Option (Nat × Nat)
  /-- elements that an MCAST has read, in linear order (R179) -/
  buf : List SrcElem
  /-- waiting at a channel or a held window (R175, R176) -/
  pending : Bool
  /-- waits for a held source, and leaves its channel to other commands (R176) -/
  aside : Bool
  /-- its stamp has been sent (R181) -/
  stamped : Bool
  /-- the element format that an MCAST has found on its pages (R167, R179) -/
  pgfmt : Option Nat
  /-- its access waits for a refresh window (R75) -/
  windowed : Bool
  /-- the device whose route it waits for (R458) -/
  route : Option Nat
  /-- the fault that has stopped it, while elements performed before are still to be acknowledged (R183) -/
  fault : Option (Trap × Word)
  deriving DecidableEq, Repr

/-- State of a completion tag (R180, R183, R403): the command's operation, its subject, and a recorded fault. -/
structure TagSt where
  tag : Nat
  /-- 0x01-0x07 of R162 and R383, 0x10 for a subscription -/
  op : Nat
  uid : Nat
  /-- elements the command delivers, elements delivered so far, elements popped (R173, R378) -/
  total : Nat
  delivered : Nat
  popped : Nat
  fault : Option (Trap × Word)
  faultDelivered : Bool
  done : Bool
  deriving DecidableEq, Repr

/-- A message in a mailbox (R352, R355). -/
structure BoxMsg where
  box : Nat
  dev : Nat
  core : Nat
  data : List Byte
  rel : Bool
  scope : Scope
  stamp : Nat
  deriving DecidableEq, Repr

/-- The per-core state of a context (R409). -/
structure CoreCtx where
  tagmap : Word
  tags : List TagSt
  /-- result elements: tag and value, in delivery order (R173) -/
  elems : List (Nat × Word)
  boxes : List BoxMsg
  /-- PERF0-PERF7 and PERFSEL0-PERFSEL7 (R257) -/
  perf : List Nat
  perfsel : List Nat
  /-- switched in on the core -/
  resident : Bool
  deriving DecidableEq, Repr

/-- A match-table entry (R178). -/
structure Sub where
  /-- the model's handle of the subscription -/
  id : Nat
  cl : Nat
  entry : Nat
  mtag : Nat
  ctx : Nat
  part : Nat
  core : Nat
  tag : Nat
  layout : LayoutCopy
  user : Bool
  uid : Nat
  pc : Word
  root : Nat
  vf : Nat
  lnum : Nat
  index : Nat
  /-- the root has acknowledged the join -/
  joined : Bool
  deriving DecidableEq, Repr

/-- A multicast in flight to one subscriber (R179): its subscription, the sender's cluster and command, the subscriber's cluster and entry,
the bits of the source record, the element format (none where no page was touched), the elements read in linear order, the position reached
and the ring entry reserved. -/
structure Mcast where
  id : Nat
  cl : Nat
  cmd : Nat
  sub : Nat
  entry : Nat
  srcRec : Nat
  fmt : Option Nat
  data : List SrcElem
  pos : Nat
  slot : Option Nat
  /-- the fault that has stopped it, while elements performed before are still to be acknowledged (R183) -/
  fault : Option (Trap × Word)
  deriving DecidableEq, Repr

/-- A subscription of another device that stands at the root (R178, R456): the device and its number there, the MTAG, the job. -/
structure FarSub where
  dev : Nat
  id : Nat
  mtag : Nat
  job : Nat
  deriving DecidableEq, Repr

/-- A copy of an MCAST's data for a subscriber on another device (R179, R456): the command, the subscriber, the sender's partition and function,
the log position behind which it leaves (R439), the data, and whether it has left. -/
structure FarMcast where
  cl : Nat
  cmd : Nat
  dev : Nat
  id : Nat
  part : Nat
  vf : Nat
  upTo : Nat
  data : List Nat
  sent : Bool
  deriving DecidableEq, Repr

inductive EntrySt where
  | free | reserved | filled
  deriving DecidableEq, Repr

/-- A ring of a context on a cluster (R360). -/
structure Ring where
  cl : Nat
  ctx : Nat
  g : Nat
  base : Nat
  count : Nat
  head : Nat
  /-- entry after the last one reserved (R363) -/
  next : Nat
  ents : List EntrySt
  deriving DecidableEq, Repr

/-- A crew entry (R207). -/
structure Crew where
  cl : Nat
  entry : Nat
  lnum : Nat
  grp : Nat
  ctx : Nat
  size : Nat
  /-- members that have convened: member number and thread -/
  members : List (Nat × Nat)
  /-- members that have disbanded or exited -/
  left : List Nat
  convened : Bool
  deriving DecidableEq, Repr

/-- An accumulator tile of a crew (R372): format, elements that are not +0 by position, counters, presence, place in the order of
naming. -/
structure Tile where
  cl : Nat
  crew : Nat
  acc : Nat
  fmt : AccFmt
  data : List (Nat × Nat)
  inv : Nat
  ovf : Nat
  sat : Nat
  present : Bool
  named : Nat
  /-- holds a tile save block (R411) -/
  block : Bool
  deriving DecidableEq, Repr

/-- A started `mma` (R369, R371): the issuer, the instruction's fields, and what its entries held at the start (tile, then sidecar). -/
structure Mma where
  uid : Nat
  cl : Nat
  ra : Nat
  rb : Nat
  acc : Nat
  fa : FFmt
  fb : FFmt
  rm : Rm
  ka : Bool
  kb : Bool
  dataA : List Byte
  dataB : List Byte
  deriving DecidableEq, Repr

structure EngSt where
  layouts : List Layout
  /-- commands waiting, in FIFO order of each core (R156) -/
  fifo : List Command
  /-- commands in progress (R157) -/
  active : List Command
  /-- core whose command each cluster's engine started last (R157) -/
  last : List (Nat × Nat)
  nextId : Nat
  cc : List ((Nat × Nat) × CoreCtx)
  subs : List Sub
  mcasts : List Mcast
  /-- subscriptions of other devices at the root, and copies on their way to them (R179, R456) -/
  farSubs : List FarSub
  farMcasts : List FarMcast
  rings : List Ring
  crews : List Crew
  tiles : List Tile
  /-- the `mma` started on each cluster -/
  mma : List Mma
  /-- count of tile namings, for R411 -/
  namings : Nat
  deriving DecidableEq, Repr

def EngSt.empty : EngSt :=
  { layouts := [], fifo := [], active := [], last := [], nextId := 0, cc := [], subs := [], mcasts := [], farSubs := [], farMcasts := [], rings := [], crews := [],
    tiles := [], mma := [], namings := 0 }

def CoreCtx.empty : CoreCtx :=
  { tagmap := 0, tags := [], elems := [], boxes := [], perf := List.replicate 8 0, perfsel := List.replicate 8 0,
    resident := false }

end Sys2Proof.Machine
end

