-- ==== Sys2Proof/Machine/WorkSt.lean ====
section
/-! DEFINITION. WorkSt.lean: the state of work distribution (R186-R206, R210-R214, R259, R350, R405), of scratchpad allocation
(R63, R77-R79) and of views (R135-R143, R153). -/

namespace Sys2Proof.Machine

/-- A group rule as accepted (R204): bitmap groups hold the bits read at acceptance. -/
structure Group where
  kind : Nat
  base : Nat
  stride : Nat
  count : Nat
  bitmap : List Bool
  /-- barrier phase and arrivals in it (R350) -/
  phase : Nat
  arrived : Nat
  deriving DecidableEq, Repr

/-- A recipe image entry (R259): recorded words and the address of the first. -/
structure Recipe where
  idx : Nat
  addr : Nat
  words : List Nat
  deriving DecidableEq, Repr

/-- A fault record (R405): the trap, the thread and the count. -/
structure FaultRec where
  trap : Trap
  pc : Word
  core : Nat
  index : Nat
  count : Nat
  deriving DecidableEq, Repr

/-- A launch-table entry (R186, R188, R190). -/
structure Launch where
  lnum : Nat
  part : Nat
  ctx : Nat
  vf : Nat
  queue : Nat
  /-- the record D0-D7 as one number (R188) -/
  record : Nat
  seqno : Nat
  groups : List Group
  recipes : List Recipe
  faults : Option FaultRec
  /-- once the completion block is sent: the PAs of its lines (R191) -/
  block : Option (List Nat)
  deriving DecidableEq, Repr

/-- A range of indices of a launch at a distributor (R192) or in a cluster's range slot (R198). -/
structure Range where
  place : Nat
  lnum : Nat
  first : Nat
  count : Nat
  deriving DecidableEq, Repr

/-- A continuation record (R196); RES = 1 records hold the thread handle of their state block. -/
structure Rec where
  index : Nat
  lnum : Nat
  join : Word
  frame : Word
  code : Word
  origin : List Nat
  /-- handle of the saved thread, for RES = 1 (R212) -/
  saved : Option Nat
  /-- bound to a core, for AFF = 1 (R199) -/
  boundCore : Option Nat
  bound : Bool
  /-- placed by `spawn` or `join`: its admission performs an acquire (R345); else from a range, with groups (R205) -/
  acquire : Bool
  /-- last-arriver token (R425) -/
  token : Bool
  deriving DecidableEq, Repr

/-- A cluster's work (R198), top of the deque first, oldest resume entry first. The spec does not say where the slots stand in the
partition's queue area: they are kept here, and the bytes of the area are not changed (notes/assumptions/75.md). -/
structure ClWork where
  deque : List Rec
  resume : List Rec
  ranges : List Range
  /-- deque slots reserved by a thread's `join` (R346): its uid -/
  reserved : List Nat
  deriving DecidableEq, Repr

/-- Scratchpad allocation of a context on a cluster (R63, R77): granule offsets present with their physical granule, offsets
saved in the save area, offsets whose restore is due, whether switched in, order of the switch-out. -/
structure Alloc where
  cl : Nat
  ctx : Nat
  size : Nat
  present : List (Nat × Nat)
  saved : List Nat
  due : List (Nat × Nat)
  /-- offsets that a copy engine waits for (R79) -/
  asked : List Nat
  resident : Bool
  outAt : Nat
  deriving DecidableEq, Repr

/-- Who holds a block of a thread save area: an evicted thread (R212) or a saved tile (R411). -/
inductive BlockOwner where
  | thread (uid : Nat)
  | tile (cl : Nat) (crew : Nat) (acc : Nat)
  deriving DecidableEq, Repr

/-- A block of a partition's thread save area in use (R212): its offset there and its length. -/
structure SaveBlock where
  part : Nat
  off : Nat
  len : Nat
  owner : BlockOwner
  deriving DecidableEq, Repr

/-- A queue's scanner state: raised for its oldest record, or for a launch (R194), the 64-bit count of records taken (R453), the PA of the
tail word on which the scanner's monitor stands, the PA of the STATUS written last (R187), and whether the next record is being read. -/
structure QSched where
  queue : Nat
  raised : Bool
  raisedFor : Option Nat
  head : Nat
  tailPa : Option Nat
  statusPa : Option Nat
  /-- the scanner reads the queue's next record (R452) -/
  reading : Bool
  deriving DecidableEq, Repr

structure WorkSt where
  launches : List Launch
  /-- ranges still at distributors: place is the die (R192) -/
  shares : List Range
  cl : List (Nat × ClWork)
  saved : List Thread
  /-- blocks of the thread save areas; one whose owner is gone is free (R212) -/
  blocks : List SaveBlock
  allocs : List Alloc
  outCount : Nat
  qs : List QSched
  /-- launch sequence number of each partition (R190) -/
  seqs : List (Nat × Nat)
  /-- deficit round robin (R194): the queue that each distributor, by die, and the scanner, as 10, served last -/
  rr : List (Nat × Nat)
  /-- deficits, by server and queue -/
  deficits : List ((Nat × Nat) × Nat)
  nextUid : Nat
  /-- order number of the next admission or wait (R203, R213, R214) -/
  admits : Nat
  deriving DecidableEq, Repr

/-- A fork (R135, R153). -/
structure Fork where
  id : Nat
  parent : Nat
  parentChain : List Nat
  defer : Bool
  /-- rivals: number, thread, view tag, live -/
  rivals : List (Nat × Nat × Nat × Bool)
  closed : Bool
  /-- the registered choice: chooser, rival (R153) -/
  choice : Option (Nat × Nat)
  part : Nat
  deriving DecidableEq, Repr

/-- A versioned line (R140), the latest written first in `ViewSt.versions`. The spec lays out no record of the spill area (R142): a spilled
line keeps its bytes here (notes/assumptions/26.md). -/
structure Version where
  tag : Nat
  line : Nat
  data : List Byte
  mask : Nat
  /-- held in the spill area (R142) -/
  spilled : Bool
  deriving DecidableEq, Repr

structure ViewSt where
  forks : List Fork
  nextFork : Nat
  tags : List Nat
  versions : List Version
  /-- reservations: view and line (R143) -/
  reserved : List (Nat × Nat)
  /-- records of the partition's counter in use, per partition (R143) -/
  spillUsed : List (Nat × Nat)
  /-- grant left of each cluster -/
  grants : List (Nat × Nat)
  /-- rivals that a double fault has killed and whose views are still to be dropped (R154, R395) -/
  fallen : List Thread
  /-- leaves stored through in a view: view, VA page, context, leaf PA, entry (R37) -/
  dirty : List (Nat × Nat × Nat × Nat × Nat)
  deriving DecidableEq, Repr

def WorkSt.empty : WorkSt :=
  { launches := [], shares := [], cl := [], saved := [], blocks := [], allocs := [], outCount := 0, qs := [], seqs := [], rr := [], deficits := [],
    nextUid := 1, admits := 1 }

def ViewSt.empty : ViewSt :=
  { forks := [], nextFork := 0, tags := [], versions := [], reserved := [], spillUsed := [], grants := [], fallen := [], dirty := [] }

def ClWork.empty : ClWork := { deque := [], resume := [], ranges := [], reserved := [] }

end Sys2Proof.Machine
end

