-- ==== Sys2Proof/Machine/CkptSt.lean ====
section
/-! DEFINITION. CkptSt.lean: effects that leave a partition, the order log and the captured images (R437-R442). -/

namespace Sys2Proof.Machine

/-- An answer to the host or the supervisor (R443). -/
inductive HostAns where
  | value (v : Word)
  | bytes (b : List Byte)
  | refused
  /-- the status of a host write or read that is refused (R443) -/
  | writeRefused
  | readRefused
  | interrupt (vf : Nat) (cause : Nat)
  | pfInterrupt (cause : Nat)
  /-- a die has been fenced (R98) -/
  | dieFenced (die : Nat)
  /-- an attestation report: the measurement registers, the host's nonce, the signature (R461) -/
  | report (regs : List (BitVec 256)) (nonce : BitVec 256) (signature : BitVec 3072)
  /-- the physical function's firmware-update window answers (R461 does not say what) -/
  | firmware (v : Word)
  deriving DecidableEq, Repr

/-- A firmware stage as it is found at boot: its image, the public key that its signature is checked against, the signature (R461). -/
structure BootStage where
  image : List Byte
  key : List Byte
  signature : List Byte
  deriving DecidableEq, Repr

/-- Entries of the order log (R438): commits, logged values, outside inputs. `core` breaks ties of the stamp (R117). -/
structure LogEnt where
  part : Nat
  identity : List Nat
  seq : Nat
  stamp : Nat
  core : Nat
  values : List Word
  deriving DecidableEq, Repr

/-- An effect that leaves a partition: an answer or interrupt, a write that the host reads, a write to another device, a message to
another partition or device, a multicast's data for another device (R439). -/
inductive OutEff where
  | answer (a : HostAns)
  | write (pa : Nat) (data : List Byte)
  | store (pa : Nat) (data : List (Option Byte))
  | send (dev : Nat) (core : Nat) (box : Nat) (data : List Byte)
  /-- an MCAST's data for a subscriber of another device (R179) -/
  | mcast (dev : Nat) (id : Nat) (data : List Nat)
  deriving DecidableEq, Repr

/-- An outside effect held until the log is acknowledged (R439). -/
structure HeldOut where
  part : Nat
  upTo : Nat
  eff : OutEff
  deriving DecidableEq, Repr

/-- A captured image of a partition (R437): sequence number, position in its order log, memory, resident threads, and the engine, work
and view state that the image is taken from. -/
structure Ckpt where
  part : Nat
  seqno : Nat
  logPos : Nat
  cells : List Host.Cell
  resident : List Thread
  eng : EngSt
  work : WorkSt
  views : ViewSt
  /-- messages to its cores in the network -/
  net : List Mesg
  /-- effects not yet released, posted stores not yet performed, and the count of effects released -/
  held : List HeldOut
  posted : List Posted
  doneLen : Nat
  complete : Bool
  deriving DecidableEq, Repr

/-- What a replay partition is created from (R442): a retained checkpoint and the order log of its partition. -/
structure Restore where
  ckpt : Ckpt
  log : List LogEnt
  deriving DecidableEq, Repr

end Sys2Proof.Machine
end

