-- ==== Sys2Proof/Machine/Event.lean ====
section
/-! DEFINITION. Event.lean: a pending step of an agent other than the thread whose instruction is next, with its operands (which
agent, which object, what an outside party sent). One constructor for each row of spec/opcode_table.json that has no encoding;
`Event.row` gives the row. State holds the pending steps (`State.agenda`) and the one being performed (`State.now`):
notes/assumptions/2.md. -/

namespace Sys2Proof

/-- A step due, with its operands. -/
inductive Event where
  | mmaStart (uid : Nat)  -- MMA_START (R369)
  | mmaRetirement (uid : Nat)  -- MMA_RETIREMENT (R370)
  | choiceEvent (fork : Nat)  -- CHOICE_EVENT (R153)
  | deferredEntryPerform (uid : Nat)  -- DEFERRED_ENTRY_PERFORM (R151)
  | copy (cl : Nat) (core : Nat)  -- COPY (R167)
  | gather (cl : Nat) (core : Nat)  -- GATHER (R172)
  | fill (cl : Nat) (core : Nat)  -- FILL (R168)
  | readq (cl : Nat) (core : Nat)  -- READQ (R173)
  | mcast (cl : Nat) (core : Nat)  -- MCAST (R179)
  | mark (cl : Nat) (core : Nat)  -- MARK (R181)
  | ovldCommand (cl : Nat) (core : Nat)  -- OVLD_COMMAND (R383)
  | commandCompletion (cl : Nat) (id : Nat)  -- COMMAND_COMPLETION (R181)
  | channelResume (cl : Nat) (id : Nat)  -- CHANNEL_RESUME (R175)
  | multicastJoin (cl : Nat) (entry : Nat)  -- MULTICAST_JOIN (R178)
  | multicastLeave (cl : Nat) (mtag : Nat)  -- MULTICAST_LEAVE (R178)
  | multicastDelivery (cl : Nat) (id : Nat) (sub : Nat)  -- MULTICAST_DELIVERY (R179)
  /-- another device's subscription stands at the root, or has left it (R178, R456) -/
  | farMulticastJoin (dev : Nat) (id : Nat) (mtag : Nat) (job : Nat)  -- MULTICAST_JOIN (R178)
  | farMulticastLeave (dev : Nat) (id : Nat)  -- MULTICAST_LEAVE (R178)
  /-- a copy of an MCAST's data leaves for a subscriber of another device; that subscriber has written it or faulted (R179) -/
  | farMulticastSend (dev : Nat) (id : Nat)  -- MULTICAST_DELIVERY (R179)
  | farMulticastDone (dev : Nat) (id : Nat)  -- MULTICAST_DELIVERY (R179)
  /-- another device's MCAST reaches the root, with its number there, its source record, element format and elements (R179, R456) -/
  | farMulticast (dev : Nat) (id : Nat) (mtag : Nat) (job : Nat) (src : Nat) (fmt : Option Nat) (data : List Machine.SrcElem)  -- MULTICAST_DELIVERY (R179)
  | contextKill (ctx : Nat)  -- CONTEXT_KILL (R414)
  | fenceOutAcknowledgement (ctx : Nat) (agent : Nat)  -- FENCE_OUT_ACKNOWLEDGEMENT (R185)
  | killStampWrite (ctx : Nat)  -- KILL_STAMP_WRITE (R185)
  | pageWalk (cl : Nat) (core : Option Nat) (ctx : Nat) (va : Nat) (kind : AccKind) (user : Bool) (inc : Nat)  -- PAGE_WALK (R50)
  /-- a transfer of a holder of line-request entries that awaits an entry, or a walk that awaits a walker (R38, R68) -/
  | awaitEntry (holder : Nat) (e : Event)  -- the row of the transfer
  | chunkEnd (uid : Nat)  -- CHUNK_END (R102)
  | commitRequest (home : Nat) (uid : Nat) (inc : Nat)  -- COMMIT_REQUEST (R112)
  | commitGrant (home : Nat) (uid : Nat)  -- COMMIT_GRANT (R111)
  | commitConfirmation (home : Nat) (uid : Nat) (inc : Nat)  -- COMMIT_CONFIRMATION (R113)
  | invalidation (core : Nat) (line : Nat) (cause : InvCause)  -- INVALIDATION (R113)
  | invalidationAcknowledgement (core : Nat) (line : Nat) (stamp : Nat) (inc : Nat)  -- INVALIDATION_ACKNOWLEDGEMENT (R86)
  | invalidationRefusal (core : Nat) (line : Nat) (uid : Nat) (stamp : Nat) (inc : Nat)  -- INVALIDATION_REFUSAL (R113)
  | commitPoint (uid : Nat)  -- COMMIT_POINT (R114)
  | pinTokenGrant (part : Nat)  -- PIN_TOKEN_GRANT (R116)
  | readMiss (core : Nat) (line : Nat) (cls : MemClass) (inc : Nat)  -- READ_MISS (R86)
  | forwardedRead (line : Nat)  -- FORWARDED_READ (R88)
  | ownerData (line : Nat) (cl : Nat) (inc : Nat) (data : List Byte)  -- OWNER_DATA (R86)
  | negativeAcknowledgement (line : Nat) (cl : Nat) (inc : Nat) (sent : Bool)  -- NEGATIVE_ACKNOWLEDGEMENT (R88)
  | writeBack (core : Nat) (line : Nat) (cls : MemClass) (inc : Nat) (mask : Nat) (data : List Byte)  -- WRITE_BACK (R86)
  | l1Replacement (core : Nat) (line : Nat)  -- L1_REPLACEMENT (R57)
  | homePerformedWrite (pa : Nat) (data : List (Option Byte)) (agent : Nat) (inc : Nat)  -- HOME_PERFORMED_WRITE (R86)
  | recall (line : Nat)  -- RECALL (R86)
  | sliceReplacement (line : Nat)  -- SLICE_REPLACEMENT (R87)
  | singletonAccess (pa : Nat) (op : HomeOp) (core : Nat) (uid : Nat) (inc : Nat)  -- SINGLETON_ACCESS (R115)
  | postedStorePerform (dev : Nat)  -- POSTED_STORE_PERFORM (R120)
  | watchArrival (uid : Nat) (line : Nat)  -- WATCH_ARRIVAL (R341)
  | mwaitLimitExpiry (uid : Nat)  -- MWAIT_LIMIT_EXPIRY (R342)
  | answerResend (line : Nat)  -- ANSWER_RESEND (R96)
  | clusterReport (line : Nat) (expired : Nat)  -- CLUSTER_REPORT (R96)
  | clusterFence (cl : Nat)  -- CLUSTER_FENCE (R96)
  | ucieLinkFailure (die : Nat)  -- UCIE_LINK_FAILURE (R98)
  | dieFence (die : Nat)  -- DIE_FENCE (R98)
  | messageAgeDiscard (router : Nat) (pos : Nat)  -- MESSAGE_AGE_DISCARD (R97)
  | sequencerTicket (uid : Nat)  -- SEQUENCER_TICKET (R126)
  | sequencerTakeover (failed : Nat) (highest : Nat)  -- SEQUENCER_TAKEOVER (R127)
  | hbmScrub (line : Nat) (found : ScrubResult)  -- HBM_SCRUB (R70)
  | hbmRefresh (stack : Nat)  -- HBM_REFRESH (R71)
  | weightStoreWindowOpen (die : Nat) (bank : Nat)  -- WEIGHT_STORE_WINDOW_OPEN (R74)
  | weightStoreWindowClose (die : Nat) (bank : Nat)  -- WEIGHT_STORE_WINDOW_CLOSE (R75)
  | granuleRestore (cl : Nat) (ctx : Nat) (off : Nat)  -- GRANULE_RESTORE (R79)
  | contextSwitchOut (core : Nat) (ctx : Nat)  -- CONTEXT_SWITCH_OUT (R409)
  | contextSwitchIn (core : Nat) (ctx : Nat)  -- CONTEXT_SWITCH_IN (R409)
  | tileSwap (crew : Nat) (acc : Nat)  -- TILE_SWAP (R411)
  | queueTailChange (qn : Nat)  -- QUEUE_TAIL_CHANGE (R187)
  | launchRecordTake (qn : Nat)  -- LAUNCH_RECORD_TAKE (R189)
  | rangeRequest (cl : Nat)  -- RANGE_REQUEST (R193)
  | shareRebalance (die : Nat)  -- SHARE_REBALANCE (R193)
  | priorityAging (qn : Nat) (launch : Bool)  -- PRIORITY_AGING (R194)
  | stealProbe (thief : Nat) (victim : Nat)  -- STEAL_PROBE (R200)
  | recordAdmission (core : Nat) (slot : Nat)  -- RECORD_ADMISSION (R201, R202)
  | granulePlacementEviction (cl : Nat)  -- GRANULE_PLACEMENT_EVICTION (R203)
  | slotWaitMark (cl : Nat)  -- SLOT_WAIT_MARK (R214)
  | longMissTimeout (uid : Nat)  -- LONG_MISS_TIMEOUT (R210)
  | threadEviction (uid : Nat)  -- THREAD_EVICTION (R211)
  | wakeConditionMet (uid : Nat)  -- WAKE_CONDITION_MET (R212)
  | launchCompletion (lnum : Nat)  -- LAUNCH_COMPLETION (R191)
  | vfSliceEnd (part : Nat)  -- VF_SLICE_END (R450)
  | trapDelivery (uid : Nat)  -- TRAP_DELIVERY (R390)
  | dctlHalt (cl : Nat)  -- DCTL_HALT (R419)
  | dctlRel (cl : Nat)  -- DCTL_REL (R420)
  | crossTriggerHalt (cl : Nat)  -- CROSS_TRIGGER_HALT (R421)
  | dtdataAccess (cl : Nat) (write : Option Word)  -- DTDATA_ACCESS (R418)
  | trbaseWrite (cl : Nat) (area : Nat) (v : Word)  -- TRBASE_WRITE (R418)
  | traceStateChange (core : Nat)  -- TRACE_STATE_CHANGE (R423)
  | traceSpanRecord (core : Nat)  -- TRACE_SPAN_RECORD (R423)
  | samplePeriod (cl : Nat)  -- SAMPLE_PERIOD (R426)
  | sampleRequestTake (core : Nat)  -- SAMPLE_REQUEST_TAKE (R426)
  | sillageEvent (die : Nat)  -- SILLAGE_EVENT (R429)
  | sillageBudgetRefill (die : Nat)  -- SILLAGE_BUDGET_REFILL (R431)
  | spctlInstall (die : Nat) (slot : Nat) (v : Word)  -- SPCTL_INSTALL (R434)
  | spctlUninstall (die : Nat) (slot : Nat) (v : Word)  -- SPCTL_UNINSTALL (R428)
  | atctlAttach (die : Nat) (at_ : Nat) (v : Word)  -- ATCTL_ATTACH (R428)
  | atctlDetach (die : Nat) (at_ : Nat) (v : Word)  -- ATCTL_DETACH (R428)
  | objValidate (die : Nat) (obj : Nat) (v : Word)  -- OBJ_VALIDATE (R428)
  | objRemove (die : Nat) (obj : Nat) (v : Word)  -- OBJ_REMOVE (R428)
  | tgcntClear (die : Nat) (t : Nat)  -- TGCNT_CLEAR (R428)
  | tnexpbaseWrite (die : Nat) (vf : Nat) (v : Word)  -- TNEXPBASE_WRITE (R428)
  | checkpoint (part : Nat)  -- CHECKPOINT (R437)
  | checkpointComplete (part : Nat)  -- CHECKPOINT_COMPLETE (R437)
  | logAcknowledgement (part : Nat) (upTo : Nat)  -- LOG_ACKNOWLEDGEMENT (R439)
  | rollback (part : Nat) (remap : List (Nat × Nat)) (tables : List Host.Cell)  -- ROLLBACK (R440)
  /-- the buddy's copy of a partition is lost -/
  | copyLost (part : Nat)  -- ROLLBACK (R440)
  | hostWrite (fn : HostFn) (win : Nat) (place : Nat) (pa : Nat) (data : List (Option Byte))  -- HOST_WRITE (R443)
  | hostRead (fn : HostFn) (pa : Nat) (size : Nat)  -- HOST_READ (R443)
  | hostSequencedOperation (fn : HostFn) (pa : Nat) (op : HomeOp)  -- HOST_SEQUENCED_OPERATION (R128)
  | partitionCreate (part : Nat) (v : Word) (from_ : Option Machine.Restore)  -- PARTITION_CREATE (R446)
  | stateWriteRun (part : Nat)  -- STATE_WRITE_RUN (R448)
  | stateWriteStopped (part : Nat)  -- STATE_WRITE_STOPPED (R448)
  | stateWriteLoad (part : Nat)  -- STATE_WRITE_LOAD (R448)
  | stateTransitionComplete (part : Nat)  -- STATE_TRANSITION_COMPLETE (R446)
  | rsmapWrite (part : Nat) (v : Word) (map : List (Nat × Nat))  -- RSMAP_WRITE (R412)
  | resizeComplete (part : Nat)  -- RESIZE_COMPLETE (R413)
  | contextDescriptorValidate (ctx : Nat) (v : Word)  -- CONTEXT_DESCRIPTOR_VALIDATE (R454)
  | killWrite (ctx : Nat)  -- KILL_WRITE (R454)
  | queueEnWrite (qn : Nat) (v : Word)  -- QUEUE_EN_WRITE (R452)
  | counterClearWrite (fn : HostFn) (addr : Nat) (v : Word)  -- COUNTER_CLEAR_WRITE (R447)
  | routeTableWrite (fn : HostFn) (addr : Nat) (v : Word)  -- ROUTE_TABLE_WRITE (R476)
  | routeLoss (part : Nat) (dev : Nat)  -- ROUTE_LOSS (R476)
  | routeReturn (part : Nat) (dev : Nat)  -- ROUTE_RETURN (R476)
  | unreachableTimeout (uid : Nat)  -- UNREACHABLE_TIMEOUT (R458)
  | fabricRequest (dev : Nat) (job : Nat) (pa : Nat) (op : HomeOp)  -- FABRIC_REQUEST (R455)
  /-- another device's `tlbinv` of scope `.dom`, for the contexts of its domain job (R43, R388) -/
  | farTlbinv (dev : Nat) (job : Nat) (kind : Fin 3) (va : Nat) (ctx : Nat)  -- FABRIC_REQUEST (R455)
  | messageArrival (pos : Nat)  -- MESSAGE_ARRIVAL (R352)
  | clockStretch (cl : Nat) (cycles : Nat)  -- CLOCK_STRETCH (R462)
  | boot (stages : List Machine.BootStage)  -- BOOT (R461)
  /-- an access to the firmware-update window -/
  | firmwareUpdate (fn : HostFn) (data : List Byte)  -- BOOT (R461)
  | attestation (nonce : BitVec 256)  -- BOOT (R461)
  | registerWrite (fn : HostFn) (addr : Nat) (v : Word)  -- REGISTER_WRITE (R10)
  | clusterReadmission (cl : Nat)  -- CLUSTER_READMISSION (R97)
  | ioDieFailure (die : Nat)  -- IO_DIE_FAILURE (R440)
  deriving DecidableEq, Repr

/-- The row of the table that an event is a step of. -/
def Event.row : Event → Instr
  | .mmaStart .. => .mmaStart
  | .mmaRetirement .. => .mmaRetirement
  | .choiceEvent .. => .choiceEvent
  | .deferredEntryPerform .. => .deferredEntryPerform
  | .copy .. => .copy
  | .gather .. => .gather
  | .fill .. => .fill
  | .readq .. => .readq
  | .mcast .. => .mcast
  | .mark .. => .mark
  | .ovldCommand .. => .ovldCommand
  | .commandCompletion .. => .commandCompletion
  | .channelResume .. => .channelResume
  | .multicastJoin .. => .multicastJoin
  | .multicastLeave .. => .multicastLeave
  | .multicastDelivery .. => .multicastDelivery
  | .farMulticastJoin .. => .multicastJoin
  | .farMulticastLeave .. => .multicastLeave
  | .farMulticastSend .. => .multicastDelivery
  | .farMulticastDone .. => .multicastDelivery
  | .farMulticast .. => .multicastDelivery
  | .contextKill .. => .contextKill
  | .fenceOutAcknowledgement .. => .fenceOutAcknowledgement
  | .killStampWrite .. => .killStampWrite
  | .pageWalk .. => .pageWalk
  | .awaitEntry _ e => e.row
  | .chunkEnd .. => .chunkEnd
  | .commitRequest .. => .commitRequest
  | .commitGrant .. => .commitGrant
  | .commitConfirmation .. => .commitConfirmation
  | .invalidation .. => .invalidation
  | .invalidationAcknowledgement .. => .invalidationAcknowledgement
  | .invalidationRefusal .. => .invalidationRefusal
  | .commitPoint .. => .commitPoint
  | .pinTokenGrant .. => .pinTokenGrant
  | .readMiss .. => .readMiss
  | .forwardedRead .. => .forwardedRead
  | .ownerData .. => .ownerData
  | .negativeAcknowledgement .. => .negativeAcknowledgement
  | .writeBack .. => .writeBack
  | .l1Replacement .. => .l1Replacement
  | .homePerformedWrite .. => .homePerformedWrite
  | .recall .. => .recall
  | .sliceReplacement .. => .sliceReplacement
  | .singletonAccess .. => .singletonAccess
  | .postedStorePerform .. => .postedStorePerform
  | .watchArrival .. => .watchArrival
  | .mwaitLimitExpiry .. => .mwaitLimitExpiry
  | .answerResend .. => .answerResend
  | .clusterReport .. => .clusterReport
  | .clusterFence .. => .clusterFence
  | .ucieLinkFailure .. => .ucieLinkFailure
  | .dieFence .. => .dieFence
  | .messageAgeDiscard .. => .messageAgeDiscard
  | .sequencerTicket .. => .sequencerTicket
  | .sequencerTakeover .. => .sequencerTakeover
  | .hbmScrub .. => .hbmScrub
  | .hbmRefresh .. => .hbmRefresh
  | .weightStoreWindowOpen .. => .weightStoreWindowOpen
  | .weightStoreWindowClose .. => .weightStoreWindowClose
  | .granuleRestore .. => .granuleRestore
  | .contextSwitchOut .. => .contextSwitchOut
  | .contextSwitchIn .. => .contextSwitchIn
  | .tileSwap .. => .tileSwap
  | .queueTailChange .. => .queueTailChange
  | .launchRecordTake .. => .launchRecordTake
  | .rangeRequest .. => .rangeRequest
  | .shareRebalance .. => .shareRebalance
  | .priorityAging .. => .priorityAging
  | .stealProbe .. => .stealProbe
  | .recordAdmission .. => .recordAdmission
  | .granulePlacementEviction .. => .granulePlacementEviction
  | .slotWaitMark .. => .slotWaitMark
  | .longMissTimeout .. => .longMissTimeout
  | .threadEviction .. => .threadEviction
  | .wakeConditionMet .. => .wakeConditionMet
  | .launchCompletion .. => .launchCompletion
  | .vfSliceEnd .. => .vfSliceEnd
  | .trapDelivery .. => .trapDelivery
  | .dctlHalt .. => .dctlHalt
  | .dctlRel .. => .dctlRel
  | .crossTriggerHalt .. => .crossTriggerHalt
  | .dtdataAccess .. => .dtdataAccess
  | .trbaseWrite .. => .trbaseWrite
  | .traceStateChange .. => .traceStateChange
  | .traceSpanRecord .. => .traceSpanRecord
  | .samplePeriod .. => .samplePeriod
  | .sampleRequestTake .. => .sampleRequestTake
  | .sillageEvent .. => .sillageEvent
  | .sillageBudgetRefill .. => .sillageBudgetRefill
  | .spctlInstall .. => .spctlInstall
  | .spctlUninstall .. => .spctlUninstall
  | .atctlAttach .. => .atctlAttach
  | .atctlDetach .. => .atctlDetach
  | .objValidate .. => .objValidate
  | .objRemove .. => .objRemove
  | .tgcntClear .. => .tgcntClear
  | .tnexpbaseWrite .. => .tnexpbaseWrite
  | .checkpoint .. => .checkpoint
  | .checkpointComplete .. => .checkpointComplete
  | .logAcknowledgement .. => .logAcknowledgement
  | .rollback .. => .rollback
  | .copyLost .. => .rollback
  | .hostWrite .. => .hostWrite
  | .hostRead .. => .hostRead
  | .hostSequencedOperation .. => .hostSequencedOperation
  | .partitionCreate .. => .partitionCreate
  | .stateWriteRun .. => .stateWriteRun
  | .stateWriteStopped .. => .stateWriteStopped
  | .stateWriteLoad .. => .stateWriteLoad
  | .stateTransitionComplete .. => .stateTransitionComplete
  | .rsmapWrite .. => .rsmapWrite
  | .resizeComplete .. => .resizeComplete
  | .contextDescriptorValidate .. => .contextDescriptorValidate
  | .killWrite .. => .killWrite
  | .queueEnWrite .. => .queueEnWrite
  | .counterClearWrite .. => .counterClearWrite
  | .routeTableWrite .. => .routeTableWrite
  | .routeLoss .. => .routeLoss
  | .routeReturn .. => .routeReturn
  | .unreachableTimeout .. => .unreachableTimeout
  | .fabricRequest .. => .fabricRequest
  | .farTlbinv .. => .fabricRequest
  | .messageArrival .. => .messageArrival
  | .clockStretch .. => .clockStretch
  | .boot .. => .boot
  | .firmwareUpdate .. => .boot
  | .attestation .. => .boot
  | .registerWrite .. => .registerWrite
  | .clusterReadmission .. => .clusterReadmission
  | .ioDieFailure .. => .ioDieFailure

end Sys2Proof
end

