-- ==== Sys2Proof/Machine/SysSt.lean ====
section
/-! DEFINITION. SysSt.lean: the state of device control space, boot, the host link, debug and telemetry, checkpoints and the order
log (R10, R416-R442, R443-R462, R476). -/

namespace Sys2Proof.Machine

/-- Boot (R461). -/
inductive BootSt where
  | off
  | recovery
  | booted
  deriving DecidableEq, Repr

/-- A partition's transition in progress (R446, R448). -/
inductive Transition where
  | toLoad | toStopped
  /-- the checkpoint of a stop has been captured under this number (R448 step 4) -/
  | captured (seqno : Nat)
  deriving DecidableEq, Repr

/-- A kill in progress (R185): agents whose acknowledgement is due and, once the stamp is written, the launches whose completion blocks are
still to be written or performed (R415). -/
structure Kill where
  ctx : Nat
  due : List Nat
  blocks : Option (List Nat)
  deriving DecidableEq, Repr

structure SysSt where
  /-- registers of device control space by address offset (R10, R445): those not at their reset value -/
  ctl : List (Nat × Word)
  boot : BootSt
  measure : List (BitVec 256)
  answers : List HostAns
  transitions : List (Nat × Transition)
  /-- resizes in progress: partition, the successor map (R412) -/
  resizes : List (Nat × List (Nat × Nat))
  kills : List Kill
  /-- the next ticket of the global sequencer (R126) -/
  ticket : Nat
  /-- devices that have been fenced from the domain (R127) -/
  fencedDev : List Nat
  /-- the highest ticket that each home has performed (R127) -/
  performed : List (Nat × Nat)
  /-- threads whose ticket request is at the sequencer (R126) -/
  ticketQueue : List Nat
  /-- weight-store windows open: die, bank (R74) -/
  wsOpen : List (Nat × Nat)
  /-- the bank whose window opened last, of each die whose refresh epoch has shown itself (R74) -/
  wsLast : List (Nat × Nat)
  /-- clusters that are fused off in this part (R14, R20) -/
  fused : List Nat
  /-- current virtual function of each partition (R450) -/
  curVf : List (Nat × Nat)
  /-- partitions whose job is interrupted (R3, R440) -/
  interrupted : List Nat
  /-- cores that a resize has removed, with their successors (R412) -/
  redirect : List (Nat × Nat)
  /-- cores, and clusters from 2048 up, that a resize has removed (R412) -/
  removed : List Nat
  /-- partitions that have been in load state since they were last in run state (R448) -/
  loaded : List Nat
  deriving DecidableEq, Repr

/-- A Sillage event offered to filters (R429): kind, and its fields f0-f7 as `ldev` reads them. -/
structure SilEvent where
  die : Nat
  code : Nat
  vf : Nat
  core : Nat
  fields : List Word
  deriving DecidableEq, Repr

/-- A filter run (R430-R433). -/
structure FilterRun where
  die : Nat
  slot : Nat
  /-- the tenant, charged unless the attachment is the supervisor's (R431) -/
  vf : Nat
  supv : Bool
  ev : SilEvent
  pc : Nat
  regs : List Word
  count : Nat
  deriving DecidableEq, Repr

/-- An event on which waiting threads deposit their last-arriver token (R425). -/
inductive TokKey where
  | barrier (lnum : Nat) (grp : Nat) (phase : Nat)
  | join (pa : Nat)
  /-- a message in one of the masked mailboxes that a `recv` waits on -/
  | box (core : Nat) (ctx : Nat) (mask : Nat)
  | watch (line : Nat)
  deriving DecidableEq, Repr

structure DbgSt where
  /-- events with a token deposited (R425) -/
  tokens : List TokKey
  /-- trace areas: cluster, area, offset, byte (R423) -/
  trace : List (Nat × Nat × Nat × Byte)
  /-- last traced state of each core (R422) -/
  tstate : List (Nat × Nat)
  /-- clusters whose core trace a trigger has stopped (R435) -/
  traceOff : List Nat
  /-- sample requests pending on a core (R426) -/
  sampleReq : List Nat
  /-- samples skipped, by core (R426) -/
  skipped : List (Nat × Nat)
  /-- clusters halted by their debug module (R419) -/
  halted : List Nat
  /-- Sillage event queue of each die, oldest first (R429) -/
  events : List SilEvent
  runs : List FilterRun
  /-- Sillage SRAM: die, byte address, byte (R427) -/
  sram : List (Nat × Nat × Byte)
  /-- event budget left in this microsecond, per die and virtual function (R431) -/
  budget : List (Nat × Nat × Nat)
  exportLeft : List (Nat × Nat × Nat)
  deriving DecidableEq, Repr

structure RepSt where
  ckpts : List Ckpt
  /-- partitions whose threads stop for a capture (R437) -/
  stopping : List Nat
  /-- pages dirtied since the last capture (R437) -/
  dirtyPages : List Nat
  log : List LogEnt
  /-- position acknowledged by the buddy (R439) -/
  acked : List (Nat × Nat)
  held : List HeldOut
  /-- partitions in gated replay: next logged event and end of the log (R440, R441) -/
  replay : List (Nat × Nat × Nat)
  /-- rollbacks to the same checkpoint (R442) -/
  rollbacks : List (Nat × Nat)
  seqnos : List (Nat × Nat)
  /-- effects released, in order (R439) -/
  done : List HeldOut
  /-- effects released before a rollback that its replay does not release again (R441) -/
  skips : List HeldOut
  /-- partitions created to replay a checkpoint (R442) -/
  replayParts : List Nat
  /-- crews that a rollback has still to move, by partition (R96, R412 step 5) -/
  moving : List (Nat × List (Nat × Nat))
  deriving DecidableEq, Repr

def SysSt.empty : SysSt :=
  { ctl := [], boot := .off, measure := List.replicate 8 0, answers := [], transitions := [], resizes := [], kills := [],
    ticket := 0, fencedDev := [], performed := [], ticketQueue := [], wsOpen := [], wsLast := [], fused := [], curVf := [], interrupted := [],
    redirect := [], removed := [], loaded := [] }

def DbgSt.empty : DbgSt :=
  { tokens := [], trace := [], tstate := [], traceOff := [], sampleReq := [], skipped := [], halted := [], events := [], runs := [], sram := [], budget := [],
    exportLeft := [] }

def RepSt.empty : RepSt :=
  { ckpts := [], stopping := [], dirtyPages := [], log := [], acked := [], held := [], replay := [], rollbacks := [], seqnos := [], done := [],
    skips := [], replayParts := [], moving := [] }

end Sys2Proof.Machine
end

