-- ==== Sys2Proof/Machine/State.lean ====
section
/-! DEFINITION. State.lean: the state of one DST-848 package (R1-R5, R186), what a step can stop with, and the state after reset.
`th` is the thread whose instruction is next, `rest` the other resident threads (R4). `agenda`, `sched`, `now` and `free` are
the model's own (notes/assumptions/2.md, notes/assumptions/3.md). -/

namespace Sys2Proof.Machine

/-- Which agent moves next (notes/assumptions/2.md). -/
inductive Move where
  /-- the resident thread with this handle executes an instruction -/
  | thread (uid : Nat)
  /-- the filter run at this position of `dbg.runs` executes an instruction -/
  | filter (pos : Nat)
  /-- the pending step at this position of the agenda is performed -/
  | event (pos : Nat)
  deriving DecidableEq, Repr

/-- The machine. -/
structure State where
  th : Thread
  rest : List Thread
  mem : MemSt
  coh : CohSt
  eng : EngSt
  wk : WorkSt
  vw : ViewSt
  sys : SysSt
  dbg : DbgSt
  rep : RepSt
  /-- steps due of the agents other than threads and filters, oldest first -/
  agenda : List Event
  /-- the pending step being performed -/
  now : Option Event
  /-- the order in which agents move; when empty, pending steps and threads take turns -/
  sched : List Move
  /-- whose turn it is when `sched` is empty: true for a thread or filter -/
  turn : Bool
  /-- index of the next free value (Config.free) -/
  free : Nat
  deriving DecidableEq, Repr

/-- What stops the machine. -/
inductive Fault where
  /-- A write of the device to a PA that a supervisor's register names and that lies in a hole of R23: raised by KILL_STAMP_WRITE (KILLPA)
  alone; the spec gives such a write no effect. Safe: the model stops where the spec says nothing. -/
  | hole (pa : Nat)
  deriving DecidableEq, Repr

/-- What the model declines to run. -/
inductive Refusal where
  /-- An instruction without a meaning: raised by its arm of Dispatch.lean only. Safe: nothing is claimed of it. -/
  | notModelled (mnemonic : String)
  deriving DecidableEq, Repr

/-- The machine right after reset: nothing booted, no partition, every slot vacant, every register at the value of R10's maps
where the spec gives one, else as notes/assumptions/5.md names. -/
def State.reset : State :=
  { th := Thread.vacant, rest := [], mem := MemSt.empty, coh := CohSt.empty, eng := EngSt.empty, wk := WorkSt.empty,
    vw := ViewSt.empty, sys := SysSt.empty, dbg := DbgSt.empty, rep := RepSt.empty, agenda := [], now := none, sched := [],
    turn := false, free := 0 }

/-- The outcome of a step. -/
abbrev Out := Host.Outcome State Fault Refusal

end Sys2Proof.Machine
end

