-- ==== Sys2Proof/Machine/Mem.lean ====
section
/-! DEFINITION. Mem.lean: bytes of a memory held as cells in canonical form (addresses strictly rising, no byte 0 listed; an
unlisted byte reads as 0: notes/assumptions/4.md), and the layout of local physical addresses (R22, R23, R53). -/

namespace Sys2Proof.Machine

/-- The byte at an address. -/
def cellGet : List Host.Cell → Nat → Byte
  | [], _ => 0
  | (a', b) :: m, a => if a' = a then b else cellGet m a

/-- The memory with one byte written. -/
def cellPut : List Host.Cell → Nat → Byte → List Host.Cell
  | [], a, b => if b = 0 then [] else [(a, b)]
  | (a', b') :: m, a, b =>
    if a < a' then (if b = 0 then (a', b') :: m else (a, b) :: (a', b') :: m)
    else if a = a' then (if b = 0 then m else (a, b) :: m)
    else (a', b') :: cellPut m a b

/-- Addresses strictly rise and no entry is 0. -/
def Memory.wf : List Host.Cell → Bool
  | [] => true
  | [(_, b)] => b != 0
  | (a, b) :: (a', b') :: m => b != 0 && decide (a < a') && Memory.wf ((a', b') :: m)

/-- `n` bytes from an address. -/
def cellsRead (m : List Host.Cell) (a n : Nat) : List Byte := (List.range n).map (fun i => cellGet m (a + i))

/-- Bytes written from an address. -/
def cellsWrite : List Host.Cell → Nat → List Byte → List Host.Cell
  | m, _, [] => m
  | m, a, b :: bs => cellsWrite (cellPut m a b) (a + 1) bs

/-- Bytes written under a mask. -/
def cellsWriteMask : List Host.Cell → Nat → List (Option Byte) → List Host.Cell
  | m, _, [] => m
  | m, a, none :: bs => cellsWriteMask m (a + 1) bs
  | m, a, some b :: bs => cellsWriteMask (cellPut m a b) (a + 1) bs

/-- Single bytes written, the last of the list first (a list newest first ends with its newest byte in memory). -/
def cellsPutAll (m : List Host.Cell) (ws : List Host.Cell) : List Host.Cell := ws.foldr (fun w m => cellPut m w.1 w.2) m

/-! ### Physical addresses -/

/-- Device number of a PA (R22). -/
def paDev (pa : Nat) : Nat := pa / 2 ^ 42 % 1024
/-- Local part of a PA (R22). -/
def paLocal (pa : Nat) : Nat := pa % 2 ^ 42
def lineOf (a : Nat) : Nat := a / 64 * 64

/-- What lies at a local PA (R23). -/
inductive Region where
  | hbm (stack : Nat)
  | weight (die : Nat)
  | scratch (cl : Nat)
  | control
  | hole
  deriving DecidableEq, Repr

/-- Base of the scratchpads in local space (R23). -/
def scratchBase : Nat := 0x20000000000
/-- Base of device control space (R23, R444). -/
def controlBase : Nat := 0x30000000000
def weightBase : Nat := 0x10000000000
/-- Bytes of a scratchpad (R61). -/
def scratchBytes : Nat := 0x180000

def region (p : Nat) : Region :=
  if p < 0xc000000000 then .hbm (p / 0xc00000000)
  else if p < weightBase then .hole
  else if p < 0x10200000000 then .weight ((p - weightBase) / 0x40000000)
  else if p < scratchBase then .hole
  else if p < scratchBase + 512 * 0x200000 then
    (if (p - scratchBase) % 0x200000 < scratchBytes then .scratch ((p - scratchBase) / 0x200000) else .hole)
  else if p < controlBase then .hole
  else .control

/-- Local PA of a byte of a cluster's scratchpad (R23). -/
def scratchPa (cl off : Nat) : Nat := scratchBase + cl * 0x200000 + off

/-- Bank of a scratchpad offset (R61). -/
def scratchBank (off : Nat) : Nat := bits off 9 6

/-- Home slice of a line on its die (R53). -/
def homeSlice (p : Nat) : Nat :=
  bits p 10 6 ^^^ bits p 15 11 ^^^ bits p 20 16 ^^^ bits p 25 21 ^^^ bits p 30 26 ^^^ bits p 35 31

/-- Home die of a local line: the die of its stack or of its bank; dies 8 and 9 are the I/O dies (R53). -/
def homeDie (p : Nat) : Nat :=
  match region p with
  | .hbm s => s / 2
  | .weight d => d
  | .scratch c => c / 64
  | _ => 8

/-- The home of a line as one number: device, die and slice (R53). A scratchpad line is located at its bank (R475). -/
def homeOf (pa : Nat) : Nat :=
  paDev pa * 512 + homeDie (paLocal pa) * 32 +
    (match region (paLocal pa) with
      | .scratch _ => scratchBank (paLocal pa)
      | _ => homeSlice (paLocal pa))

/-- Bank of a weight-store address (R72). -/
def weightBank (p : Nat) : Nat := (p - weightBase) % 0x40000000 / 256 % 64

/-- Cluster of a core (R4). -/
def clusterOf (core : Nat) : Nat := core / 4
def coresOf (cl : Nat) : List Nat := [4 * cl, 4 * cl + 1, 4 * cl + 2, 4 * cl + 3]
def dieOf (cl : Nat) : Nat := cl / 64

end Sys2Proof.Machine
end

