-- ==== Sys2Proof/Machine/Ctl.lean ====
section
/-! DEFINITION. Ctl.lean: device control space as a table of registers by offset (R444): addresses, reset values and named fields
(R445, R447, R449-R454, R476). What a write does is in CtlOps.lean. -/

namespace Sys2Proof.Machine

/-- Offsets of the blocks of R444. -/
def pdAddr (p w : Nat) : Nat := p * 0x1000 + 8 * w
def cdAddr (t w : Nat) : Nat := 0x40000 + t * 0x40 + 8 * w
def qtAddr (q w : Nat) : Nat := 0x100000 + q * 0x40 + 8 * w
def vfAddr (v off : Nat) : Nat := 0x1000000 + v * 0x10000 + off
def dmAddr (cl off : Nat) : Nat := 0x2000000 + cl * 0x1000 + off
def silAddr (die off : Nat) : Nat := 0x3000000 + die * 0x100000 + off
def lkAddr (l w : Nat) : Nat := 0x3800000 + l * 0x100 + 8 * w
def cntAddr (off : Nat) : Nat := 0x3900000 + off

/-- Reset value of a register that its map gives other than 0 (R445, R452). -/
def ctlReset (off : Nat) : Word :=
  if off < 0x14000 then
    (match off % 0x1000 with
      | 0x20 => 0x40000000#64
      | 0x30 => 0x40000000#64
      | 0x38 => 50#64
      | 0x40 => 1000#64
      | _ => 0#64)
  else if 0x100000 ≤ off ∧ off < 0x500000 ∧ off % 0x40 = 0x20 then 0x2000000000000000#64
  else 0#64

/-- A register's stored value. -/
def ctlGet (s : State) (off : Nat) : Word := Assoc.getD s.sys.ctl off (ctlReset off)

/-- A register's stored value set; a register at its reset value is not listed. -/
def ctlSet (s : State) (off : Nat) (v : Word) : State :=
  { s with sys := { s.sys with
      ctl := if v = ctlReset off then Assoc.erase s.sys.ctl off else Assoc.set s.sys.ctl off v } }

/-- Bits of a register. -/
def ctlBits (s : State) (off hi lo : Nat) : Nat := (ctlGet s off).bits hi lo

/-- Bits of a register replaced. -/
def ctlPut (s : State) (off hi lo v : Nat) : State := ctlSet s off ((ctlGet s off).putBits hi lo v)

/-! ### Partition descriptors (R445) -/

def pdValid (s : State) (p : Nat) : Bool := ctlBits s (pdAddr p 0) 0 0 == 1
def pdState (s : State) (p : Nat) : Nat := ctlBits s (pdAddr p 0) 3 2
def pdWalk5 (s : State) (p : Nat) : Bool := ctlBits s (pdAddr p 0) 8 8 == 1
def pdDevnum (s : State) (p : Nat) : Nat := ctlBits s (pdAddr p 0) 41 32
def pdStacks (s : State) (p : Nat) : Nat := ctlBits s (pdAddr p 1) 15 0
def pdLinks (s : State) (p : Nat) : Nat := ctlBits s (pdAddr p 1) 31 16
def pdQuarters (s : State) (p : Nat) : Nat := ctlBits s (pdAddr p 1) 63 32
def pdJob (s : State) (p : Nat) : Nat := ctlBits s (pdAddr p 8) 63 32
def pdSaveSize (s : State) (p : Nat) : Nat := (ctlGet s (pdAddr p 4)).toNat
def pdSpillRecords (s : State) (p : Nat) : Nat := (ctlGet s (pdAddr p 6)).toNat / 128

/-- Whether a partition holds a cluster: its QDMASK has the quarter-die (R445), the part has the cluster (R14, R20), and no resize has
removed it (R412). -/
def inPart (s : State) (p cl : Nat) : Bool :=
  pdValid s p && bitAt (pdQuarters s p) (cl / 16) && !s.sys.fused.contains cl && !s.sys.removed.contains (2048 + cl)
/-- A die of a partition: one of whose quarter-dies it holds. -/
def dieInPart (s : State) (p d : Nat) : Bool := pdValid s p && bits (pdQuarters s p) (4 * d + 3) (4 * d) != 0
/-- The package's device number: that of any partition (R22, R446). -/
def ownDev (s : State) : Nat :=
  match (List.range 20).find? (fun p => pdValid s p) with
  | some p => pdDevnum s p
  | none => 0

/-- Whether a PA lies in the package. -/
def isLocal (s : State) (pa : Nat) : Bool := paDev pa == ownDev s

/-- Whether a PA of the package lies in a hole of the local space (R23). -/
def atHole (s : State) (pa : Nat) : Bool := isLocal s pa && region (paLocal pa) == .hole

/-- Whether a PA lies in a hole for a partition (R23, R24); a fenced die's memory leaves its partitions (R98). -/
def isHole (s : State) (p pa : Nat) : Bool :=
  if isLocal s pa then
    match region (paLocal pa) with
    | .hbm st => !bitAt (pdStacks s p) st || s.coh.fencedDie.contains (st / 2)
    | .weight d => !dieInPart s p d || s.coh.fencedDie.contains d
    | .hole => true
    | _ => false
  else !(Config.inDomain (paDev pa)) || region (paLocal pa) == .hole

/-- Route table entry n of a partition (R476). -/
def route (s : State) (p n : Nat) : Nat :=
  if n = ownDev s then 0x80 else (ctlGet s (p * 0x1000 + 0xc00 + n / 8 * 8)).bits (n % 8 * 8 + 7) (n % 8 * 8)
def routeLive (s : State) (p n : Nat) : Bool := bitAt (route s p n) 7
def routeHops (s : State) (p n : Nat) : Nat := route s p n % 16

/-! ### Context descriptors (R454) -/

def cdValid (s : State) (t : Nat) : Bool := ctlBits s (cdAddr t 0) 0 0 == 1
def cdPart (s : State) (t : Nat) : Nat := ctlBits s (cdAddr t 1) 23 19
def cdVf (s : State) (t : Nat) : Nat := ctlBits s (cdAddr t 1) 31 24
def cdJob (s : State) (t : Nat) : Nat := ctlBits s (cdAddr t 1) 63 32
def cdShndlr (s : State) (t : Nat) : Word := ctlGet s (cdAddr t 2)
def cdKillPa (s : State) (t : Nat) : Nat := (ctlGet s (cdAddr t 4)).toNat
/-- The value loaded into XLCTX: its reserved field reads as zero (R25, R454). -/
def cdXlctx (s : State) (t : Nat) : Word := ctlGet s (cdAddr t 5) &&& 0xffffffffffffe000#64
def cdSave (s : State) (t : Nat) : Nat := (ctlGet s (cdAddr t 6)).toNat
def cdState (s : State) (t : Nat) : Nat := (ctlGet s (cdAddr t 7)).toNat

/-- The rings of a context's tag on its partition's clusters are as no `ringcfg` has configured them: at its creation and its kill
(R360, R371). -/
def dropRings (s : State) (t : Nat) : State :=
  { s with eng := { s.eng with rings := s.eng.rings.filter (fun r =>
      !(r.ctx == (cdXlctx s t).bits 63 52 && inPart s (cdPart s t) r.cl)) } }

/-! ### Queue table (R452) -/

def qtEn (s : State) (q : Nat) : Bool := ctlBits s (qtAddr q 0) 0 0 == 1
def qtIrq (s : State) (q : Nat) : Bool := ctlBits s (qtAddr q 0) 3 3 == 1
def qtWeight (s : State) (q : Nat) : Nat := ctlBits s (qtAddr q 4) 63 61 + 8 * ctlBits s (qtAddr q 5) 4 0
def qtPrio (s : State) (q : Nat) : Nat := ctlBits s (qtAddr q 5) 6 5
def qtLogn (s : State) (q : Nat) : Nat := ctlBits s (qtAddr q 5) 11 7
def qtVf (s : State) (q : Nat) : Nat := ctlBits s (qtAddr q 5) 19 12
def qtCtx (s : State) (q : Nat) : Nat := ctlBits s (qtAddr q 5) 31 20
def qtHead (s : State) (q : Nat) : Nat := ctlBits s (qtAddr q 5) 63 32
def qtTail (s : State) (q : Nat) : Nat := (ctlGet s (qtAddr q 6)).toNat
def qtBase (s : State) (q : Nat) : Nat := (ctlGet s (qtAddr q 7)).toNat

/-! ### Virtual functions (R450, R451) -/

def vfActive (s : State) (v : Nat) : Bool := ctlBits s (vfAddr v 0) 0 0 == 1
def vfFab (s : State) (v : Nat) : Bool := ctlBits s (vfAddr v 0) 1 1 == 1
def vfPart (s : State) (v : Nat) : Nat := ctlBits s (vfAddr v 0) 12 8

/-- Entries of a partition's order log. -/
def logLength (s : State) (p : Nat) : Nat := (s.rep.log.filter (fun e => e.part = p)).length

/-- A partition's order log, oldest entry first (R438). -/
def partLog (s : State) (p : Nat) : List LogEnt := s.rep.log.filter (fun e => e.part = p)

/-- The position and end of a partition's replay (R441). -/
def replayOf (s : State) (p : Nat) : Option (Nat × Nat) := Assoc.get s.rep.replay p

/-- The logged events that a replay has still to perform, in order. -/
def logLeft (s : State) (p : Nat) : List LogEnt :=
  match replayOf s p with
  | some (pos, fin) => ((partLog s p).take fin).drop pos
  | none => []

/-- The logged events of a thread's chunk in replay: one for each part in which it committed (R106). -/
def chunkLog (s : State) (p : Nat) (identity : List Nat) (seq : Nat) : List LogEnt :=
  (logLeft s p).filter (fun e => e.identity = identity ∧ e.seq = seq)

/-- The values that the log holds for a chunk, in the order in which it takes them (R105, R441). -/
def chunkValues (s : State) (p : Nat) (identity : List Nat) (seq : Nat) : List Word :=
  (chunkLog s p identity seq).flatMap (fun e => e.values)

/-- Whether a thread may perform its next commit event: always outside replay, else when the log has it next (R441). -/
def replayTurn (s : State) (t : Thread) : Bool :=
  match (logLeft s t.part).head? with
  | some e => e.identity == t.origin && e.seq == t.seq
  | none => true

/-- The stamp of a commit event: in replay the logged one (R441), of a chunk's last part that of the last part logged. -/
def replayStamp (s : State) (t : Thread) (full : Bool) (st : Nat) : Nat :=
  let es := chunkLog s t.part t.origin t.seq
  ((if full then es.getLast? else es.head?).map (fun e => e.stamp)).getD st

/-- What the log holds now; in replay, what of it has been performed. -/
def logPos (s : State) (p : Nat) : Nat :=
  match replayOf s p with
  | some (pos, _) => pos
  | none => logLength s p

/-- Whether a partition's log is acknowledged up to a position. -/
def ackedTo (s : State) (p upTo : Nat) : Bool := decide (upTo ≤ Assoc.getD s.rep.acked p 0)

/-- An effect held until what the log holds now is acknowledged (R439). -/
def holdOut (s : State) (p : Nat) (e : OutEff) : State :=
  { s with rep := { s.rep with held := s.rep.held ++ [{ part := p, upTo := logPos s p, eff := e }] } }

def giveAnswer (s : State) (a : HostAns) : State := { s with sys := { s.sys with answers := s.sys.answers ++ [a] } }

/-- An effect that was released before a rollback, met again: it is not released again (R441). -/
def takeSkip (s : State) (p : Nat) (e : OutEff) : Option State :=
  match s.rep.skips.find? (fun h => h.part = p ∧ h.eff = e) with
  | some h => some { s with rep := { s.rep with skips := s.rep.skips.erase h } }
  | none => none

/-- An effect released. -/
def noteOut (s : State) (p : Nat) (e : OutEff) : State :=
  { s with rep := { s.rep with done := s.rep.done ++ [{ part := p, upTo := logPos s p, eff := e }] } }

/-- Whether a partition was created to replay a checkpoint: what it would release is discarded, and it takes no input from outside but its
log's (R442). -/
def replayPart (s : State) (p : Nat) : Bool := s.rep.replayParts.contains p

/-- An answer or interrupt that leaves partition `p`: held while the partition's order log is not acknowledged (R439). -/
def emit (s : State) (p : Nat) (a : HostAns) : State :=
  if replayPart s p then s
  else match takeSkip s p (.answer a) with
  | some s1 => s1
  | none => if ackedTo s p (logPos s p) then giveAnswer (noteOut s p (.answer a)) a else holdOut s p (.answer a)

/-- A VFINT cause set; an interrupt is sent when the bit was clear and is enabled (R451). -/
def vfInterrupt (s : State) (v cause : Nat) : State :=
  let old := ctlGet s (vfAddr v 0x10)
  let s1 := ctlSet s (vfAddr v 0x10) (old.putBits cause cause 1)
  if !bitAt old.toNat cause && bitAt (ctlGet s (vfAddr v 0x18)).toNat cause then emit s1 (vfPart s v) (.interrupt v cause)
  else (takeSkip s1 (vfPart s v) (.answer (.interrupt v cause))).getD s1

/-! ### Counters (R447) -/

/-- A 48-bit counter advanced; it wraps. -/
def ctlCount (s : State) (off n : Nat) : State := ctlSet s off (BitVec.ofNat 64 (((ctlGet s off).toNat + n) % 2 ^ 48))
def pcHint (p : Nat) : Nat := p * 0x1000 + 0x400
def pcSavex (p : Nat) : Nat := p * 0x1000 + 0x408
def pcSpill (p : Nat) : Nat := p * 0x1000 + 0x410
def pcPin (p : Nat) : Nat := p * 0x1000 + 0x418
def pcRoll (p : Nat) : Nat := p * 0x1000 + 0x420
/-- A slice counter of the home of a local line: 0 SLRETAG, 8 SLSTALE, 0x10 SLWLFULL, 0x18 SLWDISC. -/
def slCounter (pa k : Nat) : Nat := cntAddr (0x20 * (homeDie (paLocal pa) * 32 + homeSlice (paLocal pa)) + k)

/-! ### The capability block (R449) -/

def countBits (n : Nat) : Nat → Nat
  | 0 => 0
  | k + 1 => (bitAt n k).toNat + countBits n k

/-- Mask of the clusters 64 j to 64 j + 63 of a partition, without those that are fused off (R14). Which ones are, the spec leaves to the
part: `sys.fused` lists them, and any list is a part (notes/assumptions/68.md). -/
def capClusters (s : State) (p j : Nat) : Nat :=
  (List.range 64).foldl (fun m i =>
    if inPart s p (64 * j + i) then m + 2 ^ i else m) 0

def capDies (s : State) (p : Nat) : Nat := (List.range 8).foldl (fun m d => if dieInPart s p d then m + 2 ^ d else m) 0

/-- Supported format codes: every code of R219 that is defined. -/
def capFormats : Nat := 0x0fffffff0000ff1f

/-- Doubleword i of the capability block of a partition. -/
def capWord (s : State) (p i : Nat) : Word :=
  if !pdValid s p then 0
  else BitVec.ofNat 64 (
    if i = 0 then 1 + 848 * 2 ^ 8
    else if i ≤ 8 then capClusters s p (i - 1)
    else if i = 9 then pdStacks s p + 48 * countBits (pdStacks s p) 16 * 2 ^ 16
    else if i = 10 then pdLinks s p + pdDevnum s p * 2 ^ 16 + ((List.range 1024).filter Config.inDomain).length % 2 ^ 11 * 2 ^ 26
    else if i = 11 then capDies s p + 1024 * countBits (capDies s p) 8 * 2 ^ 8
    else if i = 12 then capFormats
    else if i = 13 then 2000 + 256 * 2 ^ 16 + 6144 * 2 ^ 32
    else 0)

end Sys2Proof.Machine
end

