-- ==== Sys2Proof/Machine/Ops.lean ====
section
/-! DEFINITION. Ops.lean: the named operations over threads, registers, clocks and performance counters (R110, R249, R257, R269,
R270, R274), taking an exception (R390-R392, R395) and returning from one (R394). -/

namespace Sys2Proof.Machine

/-! ### Threads -/

/-- The resident threads. -/
def threads (s : State) : List Thread := s.th :: s.rest

def findThread (s : State) (uid : Nat) : Option Thread := (threads s).find? (fun t => t.uid = uid)

/-- One resident thread changed. -/
def updThread (s : State) (uid : Nat) (f : Thread → Thread) : State :=
  { s with th := if s.th.uid = uid then f s.th else s.th, rest := s.rest.map (fun t => if t.uid = uid then f t else t) }

/-- The thread brought to the front; its instruction is then the next. -/
def focusOn (s : State) (uid : Nat) : State :=
  if s.th.uid = uid then s
  else match s.rest.find? (fun t => t.uid = uid) with
    | none => s
    | some t =>
      { s with th := t, rest := s.rest.filter (fun u => u.uid ≠ uid) ++ (if s.th.status = .vacant then [] else [s.th]) }

/-- An operation on the front thread performed on another one. -/
def onThread (s : State) (uid : Nat) (f : State → State) : State :=
  match findThread s uid with
  | none => s
  | some _ => focusOn (f (focusOn s uid)) s.th.uid

/-- A thread, resident or evicted. -/
def anyThread (s : State) (uid : Nat) : Option Thread := (threads s ++ s.wk.saved).find? (fun t => t.uid = uid)

/-- A result for a waiting thread, delivered when it performs its instruction again; an evicted one wakes (R212). -/
def answerThread (s : State) (uid : Nat) (v : Word) : State :=
  let give (t : Thread) : Thread := if t.uid = uid then { t with answer := some (t.a.pc, v) } else t
  let s1 := updThread { s with wk := { s.wk with saved := s.wk.saved.map give } } uid give
  if s1.wk.saved.any (fun t => t.uid = uid) then { s1 with agenda := s1.agenda ++ [.wakeConditionMet uid] } else s1

/-- A fresh free value (notes/assumptions/3.md). -/
def freeWord (s : State) : Word := Config.free s.free
def tickFree (s : State) : State := { s with free := s.free + 1 }

/-- The free value after it, for a second one in the same operation; and the k-th after it. -/
def freeWord2 (s : State) : Word := Config.free (s.free + 1)
def freeNext (s : State) (k : Nat) : Word := Config.free (s.free + k)

/-- A step due later. -/
def post (s : State) (e : Event) : State := { s with agenda := s.agenda ++ [e] }
/-- A step due that is not yet on the agenda. -/
def postOnce (s : State) (e : Event) : State := if s.agenda.contains e then s else post s e
def postAll (s : State) (es : List Event) : State := { s with agenda := s.agenda ++ es }

/-! ### Clocks (R110, R115) -/

def lcOf (s : State) (core : Nat) : Nat := Assoc.getD s.coh.lc core 0
def setLc (s : State) (core v : Nat) : State := { s with coh := { s.coh with lc := Assoc.set s.coh.lc core v } }
/-- A core that receives a stamp (R110). -/
def bumpLc (s : State) (core v : Nat) : State := setLc s core (max (lcOf s core) v)
/-- The stamp of a line: the commit stamp of the last write to it (R110, R475). -/
def stampOf (s : State) (line : Nat) : Nat := Assoc.getD s.coh.stamps line 0
def setStamp (s : State) (line v : Nat) : State := { s with coh := { s.coh with stamps := Assoc.set s.coh.stamps line v } }
/-- Clock of a home, engine or link, by its number (R110). -/
def clockOf (s : State) (a : Nat) : Nat := Assoc.getD s.coh.clock a 0
def bumpClock (s : State) (a v : Nat) : State :=
  { s with coh := { s.coh with clock := Assoc.set s.coh.clock a (max (clockOf s a) v) } }
/-- Clock numbers: homes as `homeOf`, copy engines and links above them. -/
def engineClock (cl : Nat) : Nat := 2 ^ 20 + cl
def linkClock : Nat := 2 ^ 21

/-! ### Per-core state of a context (R409) -/

def ccOf (s : State) (core ctx : Nat) : CoreCtx := Assoc.getD s.eng.cc (core, ctx) CoreCtx.empty
def setCc (s : State) (core ctx : Nat) (c : CoreCtx) : State :=
  { s with eng := { s.eng with cc := Assoc.set s.eng.cc (core, ctx) c } }
def updCc (s : State) (core ctx : Nat) (f : CoreCtx → CoreCtx) : State := setCc s core ctx (f (ccOf s core ctx))

/-! ### Events of Sillage (R429) -/

/-- An event posted to the Sillage of a die: class, core, context, function, launch, thread index, slot, then fields 8 on; field 7, a
cycle count, is a free value (others may stand in `more`). A full queue drops it and counts the drop. -/
def silPost (s : State) (cls core ctx vf : Nat) (lnum : Option Nat) (index slot : Nat) (more : List Word) : State :=
  let die := dieOf (clusterOf core)
  let seqno := match s.wk.launches.find? (fun l => some l.lnum = lnum) with
    | some l => l.seqno
    | none => 0
  let ev : SilEvent :=
    { die := die, code := cls, vf := vf, core := core
      fields := [BitVec.ofNat 64 cls, BitVec.ofNat 64 core, BitVec.ofNat 64 ctx, BitVec.ofNat 64 vf, BitVec.ofNat 64 seqno,
        BitVec.ofNat 64 index, BitVec.ofNat 64 slot, freeWord s] ++ more }
  if (s.dbg.events.filter (fun e => e.die = die)).length < 256 then
    let s1 : State := { s with dbg := { s.dbg with events := s.dbg.events ++ [ev] }, free := s.free + 5 }
    { s1 with agenda := s1.agenda ++ [.sillageEvent die] }
  else
    let off := silAddr die (0xc000 + 0x40 * vf + 0x10)
    ctlSet s off (ctlGet s off + 1)

/-- As `silPost`, for an event of a thread. -/
def silOfThread (s : State) (t : Thread) (cls : Nat) (more : List Word) : State :=
  silPost s cls t.core (t.xlctx.bits 63 52) t.vf (some t.lnum) t.index t.slot more

/-! ### Performance counters (R257, R424) -/

/-- One counter advanced by `n` for event `code`, and whether it wrapped. -/
def perfStep (code n : Nat) (cnt sel : Nat) : Nat × Bool :=
  if bitAt sel 16 && sel % 2 ^ 16 == code then ((cnt + n) % 2 ^ 48, decide (2 ^ 48 ≤ cnt + n)) else (cnt, false)

/-- What the wrap of counter i does: an interrupt under OVIE, and an event of class 6. -/
def perfWrapped (core ctx vf : Nat) (sel : List Nat) (s : State) (i : Nat) : State :=
  let s1 := if bitAt (sel.getD i 0) 17 then vfInterrupt s vf 2 else s
  silPost s1 6 core ctx vf none 0 0 [BitVec.ofNat 64 i, BitVec.ofNat 64 (sel.getD i 0 % 2 ^ 16)]

/-- An event of a context counted on a core; events while the context is not resident there count nothing (R409). -/
def perfCount (s : State) (core ctx vf code n : Nat) : State :=
  let c := ccOf s core ctx
  if !c.resident then s
  else
    let r := List.zipWith (perfStep code n) c.perf c.perfsel
    let s1 := setCc s core ctx { c with perf := r.map (·.1) }
    ((List.range 8).filter (fun i => (r.getD i (0, false)).2)).foldl (perfWrapped core ctx vf c.perfsel) s1

/-- An event of a thread counted on its core. -/
def perfTh (s : State) (t : Thread) (code n : Nat) : State := perfCount s t.core (t.xlctx.bits 63 52) t.vf code n

/-! ### Fabric counts (R450, R457) -/

/-- Bytes of remote reads and writes counted on a link of a partition. Which link carries them, how many flits are sent and received, how many
fail their check there, and how many retries that takes, are free values (notes/assumptions/3.md): answers the flits with the state. -/
def linkCount (s : State) (p rd wr : Nat) : (Nat × Nat) × State :=
  let ls := (List.range 16).filter (bitAt (pdLinks s p))
  let out := 1 + (freeNext s 1).toNat % 2 ^ 16
  let inn := 1 + (freeNext s 2).toNat % 2 ^ 16
  let retries := (freeNext s 3).toNat % 2 ^ 16
  let bad := (freeNext s 4).toNat % 2 ^ 16
  let s1 : State := { s with free := s.free + 5 }
  match ls[(freeWord s).toNat % max 1 ls.length]? with
  | none => ((out, inn), s1)
  | some l =>
    let s2 := ctlCount (ctlCount (ctlCount (ctlCount s1 (lkAddr l 0) out) (lkAddr l 1) inn) (lkAddr l 2) retries) (lkAddr l 3) bad
    ((out, inn), ctlCount (ctlCount s2 (lkAddr l 4) rd) (lkAddr l 5) wr)

/-- As `linkCount`, for an access of a virtual function's context: its own fabric counts too. -/
def fabricCount (s : State) (p v rd wr : Nat) : State :=
  let r := linkCount s p rd wr
  ctlCount (ctlCount r.2 (vfAddr v 0x100) r.1.1) (vfAddr v 0x108) r.1.2

/-! ### The last-arriver token (R425) -/

/-- The token bit of a thread, in its registers and its start state. -/
def setToken (b : Bool) (t : Thread) : Thread :=
  { t with a := { t.a with token := b }, chunk := { t.chunk with start := { t.chunk.start with token := b } } }

/-- The front thread begins a wait: its token is deposited and its bit cleared. -/
def depositToken (s : State) (k : TokKey) : State :=
  if s.th.a.token then { s with th := setToken false s.th, dbg := { s.dbg with tokens := (k :: s.dbg.tokens).eraseDups } }
  else s

/-- Whether a thread waits, or stood halted in a wait. -/
def waitsIn (t : Thread) (f : Wait → Bool) : Bool :=
  match t.status with
  | .waiting w => f w
  | .halted (some w) => f w
  | _ => false

/-- The front thread completes an event: it takes a token deposited there, and every waiter that the event wakes takes its bit; `on` names
the event's deposits. -/
def lastArrival (s : State) (on : TokKey → Bool) (wakes : Thread → Wait → Bool) : State :=
  let woken (t : Thread) : Bool := waitsIn t (wakes t)
  if !(s.dbg.tokens.any on || (s.rest ++ s.wk.saved).any woken) then s
  else
    let b := s.th.a.token || s.dbg.tokens.any on
    let give (t : Thread) : Thread := if woken t then setToken b t else t
    { s with th := setToken b s.th
             rest := s.rest.map give
             wk := { s.wk with saved := s.wk.saved.map give }
             dbg := { s.dbg with tokens := s.dbg.tokens.filter (fun x => !on x) } }

/-- The front thread arrives without completing the event and without waiting. -/
def clearToken (s : State) : State := { s with th := setToken false s.th }

/-- The front thread's write to a line ends the waits on it (R342, R425). -/
def wakeWatchers (s : State) (line : Nat) : State :=
  lastArrival s (· == .watch line) (fun _ w => w == .mwait line)

/-! ### Registers -/

def Reg.of (v : Word) : Reg := { val := v, born := 0, lat := 0 }

/-- The words of the instruction being executed: stall count and length (R266, R272). -/
def stallOfWords (w : Nat) : Nat := bits w 24 22
def lenOfWords (w : Nat) : Nat := if isLongWord (w % 2 ^ 32) then 8 else 4

/-- First soft register (R251). -/
def Thread.softBase (t : Thread) : Nat := t.nreg - t.nsoft

def isSoft (t : Thread) (k : Nat) : Bool := decide (t.softBase ≤ k) && decide (k < t.nreg)

/-- Named register as stored. -/
def nReg (a : Arch) (k : Nat) : Reg := a.n.getD k Reg.zero
def qReg (a : Arch) (i : Nat) : Reg := a.q.getD i Reg.zero

/-- The value of a soft register as last evaluated for the instruction; an unbound one reads as 0 (R258, R261, R262). -/
def softVal (t : Thread) (k : Nat) : Word :=
  match Assoc.get t.a.binds k with
  | none => 0
  | some _ => Assoc.getD t.kept k 0

/-- `opnd(f)` of R280, after the soft operands of the instruction have been evaluated. -/
def opnd (s : State) (o : Opnd) : Word :=
  match o with
  | .q i => (qReg s.th.a i.val).val
  | .n k => if isSoft s.th k.val then softVal s.th k.val else (nReg s.th.a k.val).val
  | .z => 0
  | .tid => BitVec.ofNat 64 (s.th.index % 2 ^ 48)

/-- `opnd(f)` where the field may name K, sign-extended (R268, R269). -/
def opndK (s : State) (o : OpndK) (k : IWord) : Word :=
  match o with
  | .r o => opnd s o
  | .k => k.signExtend 64

/-- A register write of R270, with the producer's place and fixed latency for R274. -/
def pushArch (a : Arch) (d : Dest) (v : Word) (lat : Nat) : Arch :=
  let r : Reg := { val := v, born := a.dist, lat := lat }
  match d with
  | .drop => a
  | .push => { a with q := (r :: a.q).take 16 }
  | .reg k => { a with q := (r :: a.q).take 16, n := a.n.set k.val r }

/-- The front thread changed. -/
def updTh (s : State) (f : Thread → Thread) : State := { s with th := f s.th }
def updArch (s : State) (f : Arch → Arch) : State := { s with th := { s.th with a := f s.th.a } }

/-- `result(v)` of R280. -/
def pushResult (s : State) (d : Dest) (v : Word) (lat : Nat) : State := updArch s (fun a => pushArch a d v lat)

/-! ### Taking an exception -/

/-- TCAUSE (R392). -/
def causeWord (t : Trap) (lvl : Nat) (so sup : Bool) : Word :=
  BitVec.ofNat 64 (t.cause + t.sub * 2 ^ 8 + t.usub * 2 ^ 16 + sup.toNat * 2 ^ 32 + so.toNat * 2 ^ 33 + lvl * 2 ^ 34)

/-- A trap bank written at delivery (R392, R401). -/
def bankWith (b : TrapBank) (pc : Word) (cause : Word) (t : Trap) : TrapBank :=
  { b with pc := pc &&& ~~~3#64, cause := cause, i0 := t.i0, i1 := t.i1, i2 := t.i2, i3 := t.i3, eng := t.eng }

/-- What a fault record holds of a trap (R405): of an engine fault the pc of the `push`, bits [191:128] of the command word in INFO0 and the
issuing thread. -/
def recordOf (t : Trap) (pc : Word) (core index : Nat) : FaultRec :=
  match t.eng with
  | some (w, c, i) => { trap := { t with i0 := w }, pc := t.i0, core := c, index := i, count := 1 }
  | none => { trap := t, pc := pc, core := core, index := index, count := 1 }

/-- A fault logged in a launch's fault record (R405): the first fills it, every one counts. -/
def logFault (s : State) (lnum : Nat) (t : Trap) (pc : Word) (core index : Nat) : State :=
  let s1 : State := { s with wk := { s.wk with launches := s.wk.launches.map (fun l =>
    if l.lnum = lnum then
      { l with faults := some (match l.faults with
          | none => recordOf t pc core index
          | some f => { f with count := min (f.count + 1) (2 ^ 32 - 1) }) }
    else l) } }
  match s.wk.launches.find? (fun l => l.lnum = lnum) with
  | some l => vfInterrupt s1 l.vf 1
  | none => s1

/-- Watches of a thread removed (R302). -/
def dropWatch (s : State) (uid : Nat) : State :=
  { s with coh := { s.coh with watches := s.coh.watches.filter (fun w => w.uid ≠ uid) } }

/-- A member leaves its crew; the entry and its tiles go when every member has (R207, R372). -/
def leaveCrew (s : State) (cl e m : Nat) : State :=
  let crews := s.eng.crews.map (fun c => if c.cl = cl ∧ c.entry = e then { c with left := m :: c.left } else c)
  let gone (c : Crew) : Bool := decide (c.cl = cl ∧ c.entry = e) && decide (c.size ≤ c.left.length)
  { s with eng := { s.eng with
      crews := crews.filter (fun c => !gone c)
      tiles := if crews.any gone then s.eng.tiles.filter (fun t => !(t.cl = cl && t.crew = e)) else s.eng.tiles } }

/-- An engine fault logged in the launch's record, with bits [191:128] of the command word (R403, R405). -/
def logEngineFault (s : State) (lnum : Nat) (t : Trap) (w : Word) (core index : Nat) : State :=
  logFault s lnum { t with eng := some (w, core, index) } t.i0 core index

/-- Undelivered engine faults of a thread that ends go to its launch's record (R403). -/
def flushFaults (s : State) (t : Thread) : State :=
  let mine (g : TagSt) : Bool := g.uid == t.uid && g.fault.isSome && !g.faultDelivered
  let faults := s.eng.cc.flatMap (fun e => (e.2.tags.filter mine).filterMap (fun g => g.fault))
  let s1 := faults.foldl (fun s f => logEngineFault s t.lnum f.1 f.2 t.core t.index) s
  { s1 with eng := { s1.eng with cc := s1.eng.cc.map (fun e =>
      (e.1, { e.2 with tags := e.2.tags.map (fun g => if mine g then { g with faultDelivered := true } else g) })) } }

/-- The front thread ends: its slot and pool entries are freed, its monitor disarmed, its crew left (R302). The completion of its launch
(R191) and the context's switch-out from the core (R409) are then looked at. -/
def endThread (s : State) : State :=
  let t := s.th
  let s1 := match t.crew with
    | some (cl, e, m) => leaveCrew (flushFaults s t) cl e m
    | none => flushFaults s t
  let s2 := dropWatch s1 t.uid
  { s2 with
      agenda := s2.agenda ++ [.launchCompletion t.lnum, .contextSwitchOut t.core (t.xlctx.bits 63 52)]
      th := { Thread.vacant with core := t.core, slot := t.slot }
      coh := { s2.coh with waiters := s2.coh.waiters.filter (fun w => w.uid ≠ t.uid)
                           reqs := s2.coh.reqs.filter (fun r => r.uid ≠ t.uid) } }

/-- The trap that brought the thread to its handler level, from its bank (R395). -/
def bankTrap (b : TrapBank) : Trap :=
  { cause := b.cause.bits 7 0, sub := b.cause.bits 15 8, usub := b.cause.bits 23 16, i0 := b.i0, i1 := b.i1, i2 := b.i2, i3 := b.i3, eng := b.eng }

/-- A rival that has ended is marked as gone in its fork. -/
def markDead (s : State) (fork uid : Nat) : State :=
  { s with vw := { s.vw with forks := s.vw.forks.map (fun f =>
    if f.id = fork then { f with rivals := f.rivals.map (fun r => if r.2.1 = uid then (r.1, r.2.1, r.2.2.1, false) else r) } else f) } }

/-- A thread killed by a double fault: the trap is logged with its cause and subcause (R391, R395). A rival is gone from its fork, whose next
event drops its view and its deferral (R151, R154). -/
def doubleFault (s : State) (t : Trap) (pc : Word) : State :=
  let s1 := endThread (logFault s s.th.lnum t pc s.th.core s.th.index)
  match s.th.fork with
  | none => s1
  | some f =>
    let s2 := markDead s1 f s.th.uid
    post { s2 with vw := { s2.vw with fallen := s.th :: s2.vw.fallen } } (.choiceEvent f)

/-- Delivery of a trap at its commit point (R391, R392): TPC := `pc`; the level, the mode and the suppress-once bit are saved and
changed; the thread continues at the handler in a new chunk. A trap bound for level 2 without a handler, or raised there, is a
double fault (R391, R395). -/
def deliverTrap (s : State) (t : Trap) (pc : Word) : State :=
  let a := s.th.a
  let sys := t.cause = 0x11
  if a.level = 0 ∧ s.th.kern.handler ≠ 0 ∧ ¬sys then
    let a' := { a with pc := s.th.kern.handler, level := 1, suppress := false }
    { s with th := { s.th with
        a := a', kern := bankWith s.th.kern pc (causeWord t a.level a.suppress a.sup) t,
        chunk := Chunk.fresh a', boundary := false, pendTrap := none, status := .running } }
  else if a.level < 2 ∧ s.th.supv.handler ≠ 0 then
    let a' := { a with pc := s.th.supv.handler, level := 2, suppress := false, sup := true }
    { s with th := { s.th with
        a := a', supv := bankWith s.th.supv pc (causeWord t a.level a.suppress a.sup) t,
        chunk := Chunk.fresh a', boundary := false, pendTrap := none, status := .running } }
  else doubleFault s t pc

/-- Return from an exception (R394): level, mode, suppress-once bit and pc from the bank; at level 2 with cause 0x11 STINFO1 is
the result of the `sysc`, whose destination stands in the words of TINFO3. -/
def returnFrom (a : Arch) (b : TrapBank) : Arch :=
  { a with pc := b.pc, level := b.cause.bits 35 34, suppress := b.cause.bits 33 33 == 1, sup := b.cause.bits 32 32 == 1 }

/-- The destination field of a first word (R270). -/
def destOfWord (w : Nat) : Dest := (Dest.ofCode (bits w 21 16)).getD .drop

end Sys2Proof.Machine
end

