-- ==== Sys2Proof/Machine/Coh.lean ====
section
/-! DEFINITION. Coh.lean: L1 copies, directory, line-request entries, home-performed writes, squash and commit (R55-R57, R64-R68, R83-R94,
R100-R121, R140-R143). An access whose line needs the answer of no other agent is served in its own step; any other sends its
request to the home, whose steps are in Coherence.lean (notes/assumptions/17.md). -/

namespace Sys2Proof.Machine

/-! ### L1 copies -/

def l1Get (s : State) (core line : Nat) : Option L1Line := s.coh.l1.find? (fun l => l.core = core ∧ l.line = line)
def l1Drop (s : State) (core line : Nat) : State :=
  { s with coh := { s.coh with l1 := s.coh.l1.filter (fun l => !(l.core == core && l.line == line)) } }
def l1Put (s : State) (l : L1Line) : State :=
  { s with coh := { s.coh with l1 := l :: s.coh.l1.filter (fun x => !(x.core == l.core && x.line == l.line)) } }
/-- Every L1 copy of a line of one class dropped. -/
def l1DropAll (s : State) (line : Nat) (cls : MemClass) : State :=
  { s with coh := { s.coh with l1 := s.coh.l1.filter (fun l => !(l.line == line && l.cls == cls)) } }

/-- A 64-bit mask of all bytes. -/
def fullMask : Nat := 2 ^ 64 - 1

/-- Bytes replaced in a line's data. -/
def setBytes (data : List Byte) (off : Nat) : List (Option Byte) → List Byte
  | [] => data
  | none :: r => setBytes data (off + 1) r
  | some b :: r => setBytes (data.set off b) (off + 1) r

/-! ### Incarnations and agents (R95, R115, R117) -/

/-- The current incarnation of a cluster, as every slice and router keeps it (R95). -/
def incOf (s : State) (cl : Nat) : Nat := Assoc.getD s.coh.inc cl 0

/-- Whether a message of a cluster is accepted: its incarnation is current and its port open (R95-R97). -/
def freshAnswer (s : State) (cl inc : Nat) : Bool := inc == incOf s cl && !s.coh.fencedCl.contains cl

/-- A window or work queue of the host link, and a core whose L1 writes back guarded bytes, as agents that write at homes; copy engines
are `engineClock`. -/
def linkAgent (win : Nat) : Nat := 2 ^ 21 + win % 2 ^ 16
def coreAgent (core : Nat) : Nat := 2 ^ 22 + core

/-- The cluster of an agent; the link and the device itself have none. -/
def agentCluster (a : Nat) : Option Nat :=
  if 2 ^ 22 ≤ a then some (clusterOf (a - 2 ^ 22)) else if 2 ^ 20 ≤ a ∧ a < 2 ^ 21 then some (a - 2 ^ 20) else none

/-- The clock of an agent (R110): the link has one for all its windows. -/
def agentClock (a : Nat) : Nat := if 2 ^ 21 ≤ a ∧ a < 2 ^ 22 then linkClock else a

/-- The incarnation that an agent's messages carry. -/
def agentInc (s : State) (a : Nat) : Nat := (agentCluster a).elim 0 (incOf s)

def agentFresh (s : State) (a inc : Nat) : Bool := (agentCluster a).elim true (fun cl => freshAnswer s cl inc)

/-- The core number by which ties of a stamp are broken (R117): an engine has that of the lowest core of its cluster, the host link 2,048. -/
def agentNumber (a : Nat) : Nat := if 2 ^ 22 ≤ a then a - 2 ^ 22 else (agentCluster a).elim 2048 (fun cl => 4 * cl)

/-! ### The directory -/

def DirEnt.fresh (line : Nat) : DirEnt :=
  { line := line, st := .I, ptrs := [], bc := false, owner := 0, inc := 0, pend := 0, due := [], stale := false, busy := none, before := [],
    queue := [], gotWb := false, gotNack := false, resent := false }

def dirOf (s : State) (line : Nat) : DirEnt := (s.coh.dir.find? (fun d => d.line = line)).getD (DirEnt.fresh line)
def setDir (s : State) (d : DirEnt) : State :=
  { s with coh := { s.coh with dir := d :: s.coh.dir.filter (fun x => x.line != d.line) } }

def DirState.transient : DirState → Bool
  | .IA => true
  | .FW => true
  | .WP => true
  | .RC => true
  | _ => false

/-- The die of a home, and whether it has been fenced and answers nothing more (R98). -/
def dieOfHome (home : Nat) : Nat := home % 512 / 32
def deadHome (s : State) (home : Nat) : Bool := home / 512 == ownDev s && s.coh.fencedDie.contains (dieOfHome home)

/-- A line whose home holds further requests (R85): transient, reserved for the request being served, or stale until its partition rolls
back (R96); the home of a fenced die answers none (R98). -/
def lineBusy (s : State) (line : Nat) : Bool :=
  (dirOf s line).st.transient || (dirOf s line).busy.isSome || (dirOf s line).stale || deadHome s (homeOf line)

/-- A held request added to a line's queue (R85). -/
def queueAt (s : State) (line : Nat) (h : Held) : State := setDir s { dirOf s line with queue := (dirOf s line).queue ++ [h] }

/-- A transfer on its way, or the one that awaits a line-request entry (R68). -/
def Event.inner : Event → Event
  | .awaitEntry _ e => e
  | e => e

/-- A write to a line on its way to the home. -/
def isWriteTo (line : Nat) (e : Event) : Bool :=
  match Event.inner e with
  | .homePerformedWrite pa _ _ _ => lineOf pa == line
  | _ => false

/-! ### The slices (R64-R66) -/

/-- Lines that a home slice of 2 MiB holds (R64). -/
def sliceLines (s : State) (home : Nat) : List Nat := (s.coh.tags.filter (fun e => homeOf e.1 = home)).map (fun e => e.1)

/-- Whether a line stands in its slice or finds room there; a bank's and another device's lines stand in none here (R82). -/
def sliceRoom (s : State) (line : Nat) : Bool :=
  match isLocal s line, region (paLocal line) with
  | true, .hbm _ => (Assoc.get s.coh.tags line).isSome || decide ((sliceLines s (homeOf line)).length < 32768)
  | true, .weight _ => (Assoc.get s.coh.tags line).isSome || decide ((sliceLines s (homeOf line)).length < 32768)
  | _, _ => true

def replacesAt (home : Nat) : Event → Bool
  | .sliceReplacement l => homeOf l == home
  | _ => false

/-- A full slice replaces a line of its choice for one that needs room (R66). -/
def makeRoom (s : State) (line : Nat) : State :=
  if sliceRoom s line || s.agenda.any (replacesAt (homeOf line)) then s
  else
    let ls := sliceLines s (homeOf line)
    post (tickFree s) (.sliceReplacement (ls.getD ((freeWord s).toNat % max 1 ls.length) 0))

/-- A line whose home is not stable, holds a write to it, or has no room for it. -/
def lineHeld (s : State) (line : Nat) : Bool := lineBusy s line || s.agenda.any (isWriteTo line) || !sliceRoom s line

/-- The bytes of a dirty owned line that its core has sent to the home (R57, R86). -/
def sentLine (s : State) (core line : Nat) : Option (List Byte) :=
  s.agenda.findSome? (fun e => match Event.inner e with
    | .writeBack c l .D _ _ data => if c = core ∧ l = line then some data else none
    | .ownerData l cl _ data => if cl = clusterOf core ∧ l = line then some data else none
    | _ => none)

/-- Whether a line in RC was owned: it awaits the answer to a recall (R86). -/
def DirEnt.recalled (d : DirEnt) : Bool := d.st == .RC && d.ptrs.isEmpty && !d.bc

/-- Whether the committed bytes of a line are its owner's (R84): owned, or its owner's data or write-back awaited. -/
def DirEnt.atOwner (d : DirEnt) : Bool := d.st == .O || d.st == .FW || (d.st == .WP && !d.gotWb) || d.recalled

/-- The committed bytes of a line: the owner's, which may be on their way to the home, else the home's (R84, R118). -/
def homeLine (s : State) (line : Nat) : List Byte :=
  let d := dirOf s line
  if d.atOwner then
    match (l1Get s d.owner line).filter (fun l => l.cls == .D) with
    | some l => l.data
    | none => (sentLine s d.owner line).getD (cellsRead s.mem.cells line 64)
  else cellsRead s.mem.cells line 64

def homeByte (s : State) (pa : Nat) : Byte := (homeLine s (lineOf pa)).getD (pa % 64) 0
def homeBytes (s : State) (pa n : Nat) : List Byte := (List.range n).map (fun i => homeByte s (pa + i))

/-- A line whose home can answer a read from its own data (R86): held by none as owner. -/
def homeReads (s : State) (line : Nat) : Bool := !lineHeld s line && (dirOf s line).st != .O

/-- A pointer added, or BC set when four are in use (R83, R86). -/
def DirEnt.addSharer (d : DirEnt) (cl : Nat) : DirEnt :=
  if d.ptrs.contains cl then d else if d.ptrs.length < 4 then { d with ptrs := d.ptrs ++ [cl] } else { d with bc := true }

/-- The cores to which an invalidation of a line goes (R83): every core of a sharing cluster that has not been fenced (R96). -/
def sharerCores (s : State) (d : DirEnt) : List Nat :=
  (if d.bc then List.range 2048 else d.ptrs.flatMap coresOf).filter (fun c => !s.coh.fencedCl.contains (clusterOf c))

/-- Pages written since the last capture (R437). -/
def markPage (s : State) (pa : Nat) : State :=
  if s.rep.dirtyPages.contains (pa / 4096) then s
  else { s with rep := { s.rep with dirtyPages := pa / 4096 :: s.rep.dirtyPages } }

/-- Bytes of memory written where the home keeps them. -/
def memWriteMask (s : State) (pa : Nat) (data : List (Option Byte)) : State :=
  markPage { s with mem := { s.mem with cells := cellsWriteMask s.mem.cells pa data } } pa

def memWrite (s : State) (pa : Nat) (data : List Byte) : State := memWriteMask s pa (data.map some)

/-- A page-table entry as 128 bits (R27). -/
def entryAt (s : State) (pa : Nat) : Nat := leNat (homeBytes s pa 16)

/-- AC and DT cleared (R37). -/
def plainEntry (e : Nat) : Nat := putBits e 6 5 0

/-- A bit of an entry set by the device at its home (R37): in the home's bytes and in every copy of class D. -/
def setEntryBit (s : State) (pa i : Nat) : State :=
  let e := entryAt s pa
  if bitAt e i then s
  else
    let bytes := (leBytes 16 (putBits e i i 1)).map some
    let copy (l : L1Line) : L1Line :=
      if l.line = lineOf pa ∧ l.cls = .D then { l with data := setBytes l.data (pa % 64) bytes } else l
    memWriteMask { s with coh := { s.coh with l1 := s.coh.l1.map copy } } pa bytes

/-- The owner's copy written to the home: the line is then current there, read only at the former owner (R86). -/
def ownerToHome (s : State) (line : Nat) : State :=
  let d := dirOf s line
  if d.st = .O then
    let s1 := memWrite s line (homeLine s line)
    let s2 := match l1Get s d.owner line with
      | some l => l1Put s1 { l with dirty := 0 }
      | none => s1
    setDir s2 { d with st := .S, ptrs := [clusterOf d.owner], bc := false }
  else s

/-- The versioned lines that a home slice holds in place, the latest written first (R142). -/
def inPlace (s : State) (home : Nat) : List Version := s.vw.versions.filter (fun v => !v.spilled && homeOf v.line == home)

/-- The least recently written versioned lines of a home go to the spill area: those beyond 16,384, and those whose room committed lines
need (R142). -/
def spillOver (s : State) (home : Nat) : State :=
  let vs := inPlace s home
  let excess := max (vs.length - 16384) (vs.length + (sliceLines s home).length - 32768)
  if excess = 0 then s
  else
    let gone := vs.drop (vs.length - excess)
    { s with vw := { s.vw with versions := s.vw.versions.map (fun v => if gone.contains v then { v with spilled := true } else v) } }

/-- The L2 tag of a line taken by an access under a context tag (R64, R65); a line of another device has none here (R82). -/
def retag (s : State) (line ctx : Nat) : State :=
  if !isLocal s line then s
  else match Assoc.get s.coh.tags line with
  | some t =>
    if t = ctx then s
    else ctlCount { s with coh := { s.coh with tags := Assoc.set s.coh.tags line ctx } } (slCounter line 0) 1
  | none => spillOver { s with coh := { s.coh with tags := Assoc.set s.coh.tags line ctx } } (homeOf line)

/-! ### Line-request entries (R67, R68) -/

/-- The holder of an entry: a core, the copy engine of a cluster from 4,096 up, its walkers from 8,192 up. -/
def agentEntry (a : Nat) : Option Nat :=
  if 2 ^ 22 ≤ a then some (a - 2 ^ 22) else if 2 ^ 20 ≤ a ∧ a < 2 ^ 21 then some (4096 + (a - 2 ^ 20)) else none

/-- The holder of the entry of a request that a home holds or serves (R85). -/
def Held.entry : Held → Option Nat
  | .read core _ _ => some core
  | .write _ a _ => agentEntry a
  | .wrote a => agentEntry a
  | .turn _ core _ _ _ => some core
  | .fetch a _ => agentEntry a
  | .walk cl _ _ _ _ _ _ => some (8192 + cl)
  | .asks _ _ => none
  | .commit _ => none
  | .replace => none

/-- The holder of the entry of a transfer on its way; one that awaits an entry has none. -/
def entryOf : Event → Option Nat
  | .readMiss core _ _ _ => if core < 2048 then some core else agentEntry core
  | .writeBack core _ _ _ _ _ => some core
  | .singletonAccess _ _ core _ _ => some core
  | .homePerformedWrite _ _ a _ => agentEntry a
  | .pageWalk cl _ _ _ _ _ _ => some (8192 + cl)
  | _ => none

/-- The requests that a home holds, or serves in a transient state (R85): those that still await their answer. -/
def DirEnt.unanswered (d : DirEnt) : List Held := (if d.st.transient then d.busy.toList else []) ++ d.queue

/-- The holders of the line-request entries in use: one entry for every line transfer that awaits its answer (R67). -/
def entriesInUse (s : State) : List Nat :=
  s.agenda.filterMap entryOf ++ s.coh.dir.flatMap (fun d => d.unanswered.filterMap Held.entry) ++ s.coh.posted.map (fun p => p.core)

/-- The entries that R67 guarantees a holder. -/
def entryShare (a : Nat) : Nat := if a < 4096 then 64 else if a < 8192 then 128 else 0

/-- Whether a holder of a cluster finds an entry: of its guaranteed ones, or of the 640 that serve any agent (R67, R68). -/
def entryFree (s : State) (cl a : Nat) : Bool :=
  let used := entriesInUse s
  let shared := ([4 * cl, 4 * cl + 1, 4 * cl + 2, 4 * cl + 3, 4096 + cl, 8192 + cl].map (fun x => used.count x - entryShare x)).sum
  decide (used.count a < entryShare a) || decide (shared < 640)

/-- A transfer sent by a holder of a cluster, which waits for an entry where none is free (R68). -/
def sendEntry (s : State) (cl holder : Nat) (e : Event) : State := post s (if entryFree s cl holder then e else .awaitEntry holder e)

/-- The cluster of a holder of entries. -/
def holderCluster (a : Nat) : Nat := if a < 4096 then clusterOf a else if a < 8192 then a - 4096 else a - 8192

/-- Whether a copy engine, or a core, finds an entry for a transfer as an agent; the link and the device need none. -/
def agentRoom (s : State) (a : Nat) : Bool := (agentEntry a).all (fun h => entryFree s (holderCluster h) h)

/-- Walks of a die for which a walker is at work (R38): on their way, or at a home that holds them. -/
def walkersBusy (s : State) (die : Nat) : Nat :=
  (s.agenda.filter (fun e => match e with | .pageWalk cl _ _ _ _ _ _ => dieOf cl == die | _ => false)).length +
    (s.coh.dir.flatMap (fun d => d.unanswered.filter (fun h => match h with | .walk cl _ _ _ _ _ _ => dieOf cl == die | _ => false))).length

/-- Whether a walk of a cluster finds one of its die's 32 walkers and a line-request entry (R38, R67). -/
def walkerFree (s : State) (cl : Nat) : Bool := entryFree s cl (8192 + cl) && decide (walkersBusy s (dieOf cl) < 32)

/-- Whether a waiting transfer may leave now. -/
def mayLeave (s : State) (holder : Nat) : Event → Bool
  | .pageWalk cl _ _ _ _ _ _ => walkerFree s cl
  | _ => entryFree s (holderCluster holder) holder

/-- A transfer that awaits an entry, or a walk that awaits a walker, leaves when there is one (R38, R68). -/
def leaveWaiting (s : State) (holder : Nat) (e : Event) : State := post s (if mayLeave s holder e then e else .awaitEntry holder e)

/-! ### Chunks -/

/-- Lines that a chunk has written in class D (R109). -/
def Chunk.lines (c : Chunk) : List Nat := (c.writes.map (fun w => lineOf w.1)).eraseDups

/-- Whether a chunk has read or written a line (R109, exact sets). -/
def Chunk.touches (c : Chunk) (line : Nat) : Bool := c.reads.contains line || c.writes.any (fun w => lineOf w.1 == line)

/-- Uncommitted chunks that have touched a line, but those of `but`. -/
def touching (s : State) (line : Nat) (but : Nat) : List Thread :=
  (threads s).filter (fun t => t.uid ≠ but ∧ t.chunk.touches line)

/-- A line that a chunk of a core holds speculative (R56). -/
def speculative (s : State) (core line : Nat) : Bool :=
  (threads s).any (fun t => t.core == core && (t.chunk.writes ++ t.chunk.gwrites).any (fun w => lineOf w.1 == line))

/-- Whether a home may take up a write to a stable line: no committing chunk and no pinned attempt has touched it (R85, R116). -/
def homeFree (s : State) (line : Nat) : Bool :=
  !lineBusy s line && (touching s line 0).all (fun t => t.chunk.phase != .committing && !t.pinned)

/-- Whether a home may perform a write to the line now: no L1 must answer first (R86). -/
def canHomeWrite (s : State) (line : Nat) : Bool :=
  homeFree s line && (dirOf s line).queue.isEmpty && (match (dirOf s line).st with
    | .I => true
    | .S => (sharerCores s (dirOf s line)).isEmpty
    | _ => false)

/-- The queue scanner's monitor on a line triggers (R187): the tails on it are looked at. -/
def wakeScanner (s : State) (line : Nat) : State :=
  (s.wk.qs.filter (fun q => q.tailPa.map lineOf = some line)).foldl (fun s q =>
    postOnce s (.queueTailChange q.queue)) s

/-- Bytes of a write put into the home's line with a stamp (R110). -/
def homeStore (s : State) (pa : Nat) (data : List (Option Byte)) (st : Nat) : State :=
  if data.all Option.isNone then s
  else wakeScanner (bumpClock (setStamp (memWriteMask s pa data) (lineOf pa) st) (homeOf pa) st) (lineOf pa)

/-- The leaves in which DT is due with the writes of an agent to a line. -/
def dtsOf (s : State) (agent line : Nat) : List (Nat × Nat × Nat) := s.coh.dts.filter (fun d => d.1 == agent && d.2.1 == line)

/-- They are due no more. -/
def dropDts (s : State) (agent line : Nat) : State :=
  { s with coh := { s.coh with dts := s.coh.dts.filter (fun d => !(d.1 == agent && d.2.1 == line)) } }

/-- DT set in them: the write is performed (R37). -/
def setDts (s : State) (agent line : Nat) : State := (dtsOf s agent line).foldl (fun s d => setEntryBit s d.2.2 6) (dropDts s agent line)

/-- DT of a leaf is due when the agent's write to a line is performed (R37). -/
def dueDt (s : State) (agent line leafPa : Nat) : State :=
  if s.coh.dts.contains (agent, line, leafPa) then s else { s with coh := { s.coh with dts := (agent, line, leafPa) :: s.coh.dts } }

/-- A write at a scratchpad bank with a stamp, which the bank's clock takes (R110). -/
def writeBank (s : State) (pa : Nat) (data : List (Option Byte)) (st : Nat) : State :=
  bumpClock (setStamp (memWriteMask s pa data) (lineOf pa) st) (homeOf pa) st

/-- A write of an agent performed at its home (R115): stamp max(line stamp, clock) + 1, which the acknowledgement returns to a core. -/
def homeApply (s : State) (pa : Nat) (data : List (Option Byte)) (agent : Nat) : State :=
  if data.all Option.isNone then s
  else
    let st := max (stampOf s (lineOf pa)) (clockOf s (agentClock agent)) + 1
    let s1 := setDts (bumpClock (homeStore s pa data st) (agentClock agent) st) agent (lineOf pa)
    if 2 ^ 22 ≤ agent then bumpLc s1 (agent - 2 ^ 22) st else s1

/-! ### Write-backs of L1 copies (R57, R89-R91) -/

/-- Whether a write of an agent has not been acknowledged: on its way, held, or awaiting the sharers (R67, R91, R122, R131). -/
def pendingWrites (s : State) (agent : Nat) : Bool :=
  s.agenda.any (fun e => match Event.inner e with | .homePerformedWrite _ _ a _ => a == agent | _ => false) ||
    s.coh.dir.any (fun d => (d.busy.toList ++ d.queue).any (fun h => match h with
      | .write _ a _ => a == agent
      | .wrote a => a == agent
      | _ => false))

/-- A write-back of a line that a core has sent and the home has not received. -/
def writeBackSent (s : State) (core line : Nat) : Bool :=
  s.agenda.any (fun e => match Event.inner e with | .writeBack c l _ _ _ _ => c == core && l == line | _ => false)

/-- Whether a core has guarded bytes on their way to a home, here or on another device (R122). -/
def coreWritesPending (s : State) (core : Nat) : Bool :=
  pendingWrites s (coreAgent core) || s.coh.posted.any (fun p => p.back && p.core == core) ||
    s.agenda.any (fun e => match Event.inner e with | .writeBack c _ cls _ _ _ => c == core && cls == .G | _ => false)

/-- The bytes of a write as a mask over its line. -/
def lineData (pa : Nat) (data : List (Option Byte)) : List (Option Byte) :=
  (List.range 64).map (fun i => if pa % 64 ≤ i then data.getD (i - pa % 64) none else none)

/-- A masked write of a line with a later one over it. -/
def overData (old new : List (Option Byte)) : List (Option Byte) := List.zipWith (fun a b => b.or a) old new

/-- A write of an agent to a line that has not reached the home, with a later one of the same agent over it: the home receives them in their
order. -/
def mergeInto (line agent inc : Nat) (data : List (Option Byte)) (e : Event) : Event :=
  let put : Event → Event
    | .homePerformedWrite pa old a i =>
      if lineOf pa = line ∧ a = agent ∧ i = inc then .homePerformedWrite line (overData (lineData pa old) data) a i
      else .homePerformedWrite pa old a i
    | e => e
  match e with
  | .awaitEntry h e => .awaitEntry h (put e)
  | e => put e

/-- Whether a write of an agent to a line has not reached the home. -/
def writeSent (s : State) (line agent inc : Nat) : Bool :=
  s.agenda.any (fun e => match Event.inner e with | .homePerformedWrite pa _ a i => lineOf pa == line && a == agent && i == inc | _ => false)

/-- A home-performed write sent to its home; it waits for an entry where its agent has none free (R68). -/
def postWrite (s : State) (pa : Nat) (data : List (Option Byte)) (agent : Nat) : State :=
  let inc := agentInc s agent
  if writeSent s (lineOf pa) agent inc then { s with agenda := s.agenda.map (mergeInto (lineOf pa) agent inc (lineData pa data)) }
  else match agentEntry agent with
    | some h => sendEntry s (holderCluster h) h (.homePerformedWrite pa data agent inc)
    | none => post s (.homePerformedWrite pa data agent inc)

/-- A home-performed write now where its line needs no other agent's answer and its agent finds an entry, else sent to the home. -/
def homeWriteOrPost (s : State) (pa : Nat) (data : List (Option Byte)) (agent : Nat) : State :=
  if canHomeWrite s (lineOf pa) && !lineHeld s (lineOf pa) && agentRoom s agent then homeApply s pa data agent
  else postWrite s pa data agent

/-- A home asked to call in every copy of a line, for a write that must be performed in one step; a full slice makes room first. -/
def prepareLine (s : State) (line agent : Nat) : State :=
  if lineHeld s line then makeRoom s line
  else if canHomeWrite s line then s
  else postWrite s line [] agent

/-- Device numbers outside the package keep no directory here; their memory is written under the check of R455. -/
def remoteWrite (s : State) (pa : Nat) (data : List (Option Byte)) (job lc : Nat) : Option State :=
  if Config.remoteGrants pa job then some (setStamp (memWriteMask s pa data) (lineOf pa) (max lc (stampOf s (lineOf pa)) + 1)) else none

/-- On whose behalf a write leaves a core: launch and index, and what a refusal of it is logged with (R405, R455): pc, access descriptor and
words of the instruction. -/
structure Cause where
  lnum : Nat
  index : Nat
  pc : Word
  desc : Word
  words : Word
  deriving DecidableEq, Repr

/-- A write-back that the front thread's instruction causes; its descriptor names a write (notes/assumptions/83.md). -/
def Thread.cause (t : Thread) : Cause := { lnum := t.lnum, index := t.index, pc := t.a.pc, desc := 1, words := BitVec.ofNat 64 t.words }

/-- A write-back that no instruction causes: a replacement, or the release of a launch's completion. -/
def Cause.ofLaunch (lnum index : Nat) : Cause := { lnum := lnum, index := index, pc := 0, desc := 1, words := 0 }

/-- The partition that holds a core. -/
def corePart (s : State) (core : Nat) : Nat := ((List.range 20).find? (fun p => inPart s p (clusterOf core))).getD 0

/-- A byte among the effects that a rollback has found released: it is not written again (R441). -/
def skipsByte (p a : Nat) (b : Byte) (h : HeldOut) : Bool :=
  match h.eff with
  | .store pa data => h.part == p && decide (pa ≤ a) && data.getD (a - pa) none == some b
  | _ => false

def HeldOut.without (a : Nat) (h : HeldOut) : HeldOut :=
  match h.eff with
  | .store pa data => { h with eff := .store pa (data.set (a - pa) none) }
  | _ => h

/-- The bytes of a remote write that are still to be written, and the effects left to skip. -/
def skipBytes (p : Nat) : Nat → List (Option Byte) → List HeldOut → List (Option Byte) × List HeldOut
  | _, [], hs => ([], hs)
  | a, none :: ds, hs => (none :: (skipBytes p (a + 1) ds hs).1, (skipBytes p (a + 1) ds hs).2)
  | a, some b :: ds, hs =>
    match hs.findIdx? (skipsByte p a b) with
    | some i => (none :: (skipBytes p (a + 1) ds (hs.modify i (HeldOut.without a))).1, (skipBytes p (a + 1) ds (hs.modify i (HeldOut.without a))).2)
    | none => (some b :: (skipBytes p (a + 1) ds hs).1, (skipBytes p (a + 1) ds hs).2)

/-- The fabric counts of a launch's write to another device: its function's and its link's. -/
def countStore (s : State) (p lnum n : Nat) : State :=
  match s.wk.launches.find? (fun l => l.lnum = lnum) with
  | some l => fabricCount s p l.vf 0 n
  | none => (linkCount s p 0 n).2

/-- A write to another device put behind those that wait for it (R120, R439, R458). -/
def postOut (s : State) (p : Posted) : State := post { s with coh := { s.coh with posted := s.coh.posted ++ [p] } } (.postedStorePerform p.dev)

/-- Guarded bytes of a remote line sent to its device (R82, R455). They leave the partition, so they wait for the log (R439) and for a route
(R458), behind the writes sent to that device before. -/
def postBack (s : State) (l : L1Line) (data : List (Option Byte)) (c : Cause) : State :=
  let p := corePart s l.core
  let r := skipBytes p l.line data s.rep.skips
  let s1 : State := { s with rep := { s.rep with skips := r.2 } }
  if r.1.all Option.isNone then s1
  else postOut (countStore s1 p c.lnum (r.1.filter Option.isSome).length)
    { part := p, upTo := logPos s p, lnum := c.lnum, index := c.index, va := l.va, uid := 0, dev := paDev l.line, pa := l.line, data := r.1,
      core := l.core, lc := lcOf s l.core, inc := incOf s (clusterOf l.core), back := true, pc := c.pc, desc := c.desc }

/-- The bytes of a line under a mask, as a masked write. -/
def maskedData (l : L1Line) (mask : Nat) : List (Option Byte) :=
  (List.range 64).map (fun i => if bitAt mask i then some (l.data.getD i 0) else none)

/-- The mask of the offsets at which a test holds. -/
def maskOf (f : Nat → Bool) : Nat := (List.range 64).foldl (fun m i => if f i then m + 2 ^ i else m) 0

/-- Masked bytes of a guarded line sent to its home: here, or on the device that owns it. -/
def writeBackTo (s : State) (l : L1Line) (data : List (Option Byte)) (c : Cause) : State :=
  if isLocal s l.line then homeWriteOrPost (bumpClock s (coreAgent l.core) (lcOf s l.core)) l.line data (coreAgent l.core)
  else postBack s l data c

/-- Dirty bytes of a G line under a mask written back and kept valid (R91): an access of the context that filled it (R65). -/
def gWriteBack (s : State) (l : L1Line) (mask : Nat) (c : Cause) : State :=
  let m := l.dirty &&& mask
  if m = 0 then s else l1Put (writeBackTo (retag s l.line l.ctx) l (maskedData l m) c) { l with dirty := l.dirty ^^^ m }

/-- An L1 replaces a line that holds nothing speculative (R57, R85): a dirty owned line and dirty G bytes are sent to the home, any other
copy is dropped without a message. -/
def l1Replace (s : State) (l : L1Line) : State :=
  let s1 := l1Drop s l.core l.line
  let inc := incOf s (clusterOf l.core)
  match l.cls with
  | .D =>
    if l.dirty != 0 && (dirOf s l.line).owner == l.core then sendEntry s1 (clusterOf l.core) l.core (.writeBack l.core l.line .D inc fullMask l.data)
    else s1
  | .G => l1Drop (gWriteBack s l fullMask (Cause.ofLaunch l.last.1 l.last.2)) l.core l.line
  | _ => s1

/-- The uncommitted chunks of a core that have read or written an owned line: its home, once it has the line back, would no longer tell the
core of a write to it (R86, R118). -/
def ownedReaders (s : State) (l : L1Line) : List Thread :=
  if l.cls = .D ∧ l.dirty ≠ 0 then (threads s).filter (fun t => t.core = l.core ∧ t.chunk.touches l.line) else []

/-- A line that its L1 keeps: it holds speculative bytes (R56), or it is owned and an uncommitted chunk has read it. -/
def l1Bound (s : State) (l : L1Line) : Bool := speculative s l.core l.line || !(ownedReaders s l).isEmpty

/-- Lines that the L1 of a core may replace (R56, R102). -/
def l1Victims (s : State) (core : Nat) : List L1Line := s.coh.l1.filter (fun l => l.core == core && !l1Bound s l)

/-- A line filled into an L1 of 128 KiB: a full one replaces a line of its choice (R55, R57). -/
def l1Insert (s : State) (l : L1Line) : State :=
  if (l1Get s l.core l.line).isSome || decide ((s.coh.l1.filter (fun x => x.core = l.core)).length < 2048) then l1Put s l
  else
    let vs := l1Victims s l.core
    match vs[(freeWord s).toNat % max 1 vs.length]? with
    | some v => l1Put (l1Replace (tickFree s) v) l
    | none => l1Put s l

/-- The home's line as a core's L1 takes it: with the guarded bytes that the core has sent and the home still holds back (R116, R121). -/
def homeFor (s : State) (core line : Nat) : List Byte :=
  ((dirOf s line).queue.foldl (fun d h => match h with
    | .write ws a _ => if a = coreAgent core then overData d ws else d
    | _ => d) ((cellsRead s.mem.cells line 64).map some)).map (fun b => b.getD 0)

/-! ### A home and its line (R85, R86) -/

/-- The home's data reach a reader (R86, R89, R110): a D reader keeps a copy, a G reader's invalid bytes are filled. -/
def giveData (s : State) (core line : Nat) (cls : MemClass) : State :=
  let home := cellsRead s.mem.cells line 64
  let s1 := bumpLc s core (stampOf s line)
  match cls, l1Get s1 core line with
  | .D, none => l1Insert s1 { core := core, line := line, cls := .D, ctx := 0, va := 0, data := home, valid := fullMask, dirty := 0, last := (0, 0) }
  | .D, some l =>
    if l.cls = .G && (l.dirty != 0 || speculative s core line) then s1
    else l1Put s1 { core := core, line := line, cls := .D, ctx := 0, va := 0, data := home, valid := fullMask, dirty := 0, last := (0, 0) }
  | .G, some l =>
    if l.cls = .G then
      l1Put s1 { l with data := (List.range 64).map (fun i => if bitAt l.valid i then l.data.getD i 0 else (homeFor s core line).getD i 0),
                        valid := fullMask }
    else s1
  | _, _ => s1

/-- A home asks the owner of a line, and awaits its answer with its incarnation (R86, R95). -/
def awaitOwner (s : State) (d : DirEnt) (st : DirState) (h : Held) (e : Event) : State :=
  post (setDir s { d with st := st, before := [], pend := if st = .RC then 1 else 0, due := [d.owner], busy := some h,
                          inc := incOf s (clusterOf d.owner), resent := false }) e

/-- A home invalidates every sharer of a line and awaits an answer of each (R83, R86). INC has room for one incarnation: it takes that of
the first pointer's cluster (notes/assumptions/67.md). -/
def awaitSharers (s : State) (d : DirEnt) (st : DirState) (h : Held) (cause : InvCause) : State :=
  postAll (setDir s { d with st := st, before := d.ptrs, pend := (sharerCores s d).length, due := sharerCores s d, busy := some h,
                             inc := incOf s (d.ptrs.headD 0), resent := false })
    ((sharerCores s d).map (fun c => Event.invalidation c d.line cause))

/-- A read at a home whose line is stable (R86). -/
def admitRead (s : State) (line core : Nat) (cls : MemClass) (inc : Nat) : State :=
  let d := dirOf s line
  if d.st = .O then awaitOwner s d .FW (.read core cls inc) (.forwardedRead line)
  else
    let s1 := giveData s core line cls
    if cls = .D then setDir s1 { (dirOf s1 line).addSharer (clusterOf core) with st := .S } else s1

/-- A home-performed write at a home whose line is stable and free (R86): an owner is recalled first; sharers are invalidated, the bytes
standing in the home. -/
def admitWrite (s : State) (pa : Nat) (data : List (Option Byte)) (agent inc : Nat) : State :=
  let d := dirOf s (lineOf pa)
  match d.st with
  | .O => awaitOwner s d .RC (.write (lineData pa data) agent inc) (.recall (lineOf pa))
  | .S =>
    if (sharerCores s d).isEmpty then setDir (homeApply s pa data agent) { d with st := .I, ptrs := [], bc := false }
    else awaitSharers (homeApply s pa data agent) d .IA (.wrote agent) .homeWrite
  | _ => setDir (homeApply s pa data agent) { d with st := .I, ptrs := [], bc := false }

/-- Whether an operation writes. -/
def opWrites : HomeOp → Bool
  | .read _ => false
  | _ => true

/-- Whether a thread waits for a line. -/
def waitsFor (s : State) (uid line : Nat) : Bool := (findThread s uid).any (fun t => t.status == .waiting (.memory line))

/-- A singleton access whose thread has been killed since: its home performs it (R153, R414). -/
def orphaned (s : State) (uid : Nat) : Bool := (anyThread s uid).isNone

/-- The step that uses a line reserved for a request, where it is not the thread's own: the access of a killed thread, a commit's request or
confirmation, a walk. -/
def turnStep (s : State) (line : Nat) : Held → List Event
  | .turn uid core pa op inc => if orphaned s uid then [.singletonAccess pa op core uid inc] else []
  | .asks uid inc =>
    [if (findThread s uid).any (fun t => t.chunk.phase == .committing) then .commitConfirmation (homeOf line) uid inc else .commitRequest (homeOf line) uid inc]
  | .walk cl core ctx va kind user inc => [.pageWalk cl core ctx va kind user inc]
  | _ => []

/-- A line reserved for a request: in state `st` with the pointers `ptrs`, nothing awaited. -/
def reserveFor (s : State) (d : DirEnt) (h : Held) (st : DirState) (ptrs : List Nat) : State :=
  let s1 := setDir s { d with st := st, ptrs := ptrs, bc := d.bc && st == .S, before := [], pend := 0, due := [], busy := some h, gotWb := false,
                              gotNack := false, resent := false }
  { s1 with agenda := turnStep s1 d.line h ++ s1.agenda }

/-- The turn of a request at a stable line (R86): the line is brought to where it can be performed, and reserved for it. -/
def admitTurn (s : State) (line : Nat) (h : Held) (write : Bool) : State :=
  let d := dirOf s line
  match d.st, write with
  | .O, true => awaitOwner s d .RC h (.recall line)
  | .O, false => awaitOwner s d .FW h (.forwardedRead line)
  | .S, true => if (sharerCores s d).isEmpty then reserveFor s d h .S d.ptrs else awaitSharers s d .IA h .homeWrite
  | st, _ => reserveFor s d h st d.ptrs

/-- Whether an engine has commands in progress, which alone read lines. -/
def engineAtWork (s : State) (agent : Nat) : Bool := s.eng.active.any (fun c => engineClock c.cl == agent)

/-- A request at a home whose line is stable. A thread that no longer waits for its access takes no turn. -/
def admitHeld (s : State) (line : Nat) : Held → State
  | .read core cls inc => admitRead s line core cls inc
  | .write data agent inc => admitWrite s line data agent inc
  | .wrote _ => s
  | .turn uid core pa op inc => if waitsFor s uid line || orphaned s uid then admitTurn s line (.turn uid core pa op inc) (opWrites op) else s
  | .fetch a inc => if engineAtWork s a then admitTurn s line (.fetch a inc) false else s
  | .walk cl core ctx va kind user inc => admitTurn s line (.walk cl core ctx va kind user inc) false
  | .asks uid inc => reserveFor s (dirOf s line) (.asks uid inc) (dirOf s line).st (dirOf s line).ptrs
  | .commit _ => s
  | .replace => post s (.sliceReplacement line)

/-- A request that writes. -/
def Held.writes : Held → Bool
  | .write .. => true
  | .turn _ _ _ op _ => opWrites op
  | _ => false

/-- A home-performed write. -/
def Held.isWrite : Held → Bool
  | .write .. => true
  | .wrote _ => true
  | _ => false

/-- Whether a home holds a request: its line is not stable (R85), or it is a write that a pinned attempt bars (R116) or an earlier held
write precedes. -/
def mustHold (s : State) (line : Nat) (h : Held) : Bool :=
  lineBusy s line || (h.writes && (!homeFree s line || (dirOf s line).queue.any Held.writes))

/-- A request reaches a line: served, or held in order of arrival (R85). -/
def arriveAt (s : State) (line : Nat) (h : Held) : State := if mustHold s line h then queueAt s line h else admitHeld s line h

/-- The requests held at a line are served one by one, in the order of their arrival, while it is stable (R85). -/
def serveHeld (s : State) (line : Nat) : State :=
  let d := dirOf s line
  if d.queue.isEmpty || lineBusy s line then s else d.queue.foldl (fun s h => arriveAt s line h) (setDir s { d with queue := [] })

/-- Writes that were held for a chunk that has ended are served (R116). -/
def serveWrites (s : State) : State :=
  ((s.coh.dir.filter (fun d => d.queue.any Held.writes)).map (fun d => d.line)).foldl serveHeld s

/-- Whether the line is reserved for a request; one that crosses a write-back is served from its data (R88). -/
def reservedFor (s : State) (line : Nat) (mine : Held → Bool) : Bool :=
  (!(dirOf s line).st.transient || ((dirOf s line).st == .WP && (dirOf s line).gotWb)) && (dirOf s line).busy.any mine

/-- A line that was reserved for a request is free again. -/
def endReserved (s : State) (line : Nat) (mine : Held → Bool) : State :=
  if reservedFor s line mine then serveHeld (setDir s { dirOf s line with busy := none }) line else s

/-- Every line reserved for a request is free again. -/
def freeReserved (s : State) (mine : Held → Bool) : State :=
  (s.coh.dir.filter (fun d => reservedFor s d.line mine)).foldl (fun s d => endReserved s d.line mine) s

def Held.isTurn (uid : Nat) : Held → Bool
  | .turn u _ _ _ _ => u == uid
  | _ => false
def Held.isFetch (agent : Nat) : Held → Bool
  | .fetch a _ => a == agent
  | _ => false
def Held.isWalk (cl ctx va : Nat) : Held → Bool
  | .walk c _ x v _ _ _ => c == cl && x == ctx && v / 4096 == va / 4096
  | _ => false
def Held.isAsk (uid : Nat) : Held → Bool
  | .asks u _ => u == uid
  | _ => false

def turnOf (s : State) (uid line : Nat) : Bool := reservedFor s line (Held.isTurn uid)
def endTurn (s : State) (uid line : Nat) : State := endReserved s line (Held.isTurn uid)

/-- The deque slots that a thread's `join` has reserved are free again (R346). -/
def dropSlots (s : State) (uid : Nat) : State :=
  if s.wk.cl.any (fun e => e.2.reserved.contains uid) then
    { s with wk := { s.wk with cl := s.wk.cl.map (fun e => (e.1, { e.2 with reserved := e.2.reserved.filter (fun u => u != uid) })) } }
  else s

/-- A thread that no longer waits for its accesses gives up its turns, and the deque slot that its `join` reserved. -/
def dropTurns (s : State) (uid : Nat) : State := freeReserved (dropSlots s uid) (Held.isTurn uid)

/-- The accesses of a killed thread whose lines are reserved for it are performed by their homes (R153, R414). -/
def leaveTurns (s : State) (uid : Nat) : State :=
  postAll s ((s.coh.dir.filter (fun d => turnOf s uid d.line)).flatMap (fun d => d.busy.toList.flatMap (turnStep s d.line)))

/-- Whether a request is held at a line or served there. -/
def heldAt (s : State) (line : Nat) (mine : Held → Bool) : Bool := ((dirOf s line).busy.toList ++ (dirOf s line).queue).any mine

/-- Whether a singleton access of a thread to a line is on its way or held (R85). -/
def turnAsked (s : State) (uid line : Nat) : Bool :=
  s.agenda.any (fun e => match e with | .singletonAccess pa _ _ u _ => u == uid && lineOf pa == line | _ => false) || heldAt s line (Held.isTurn uid)

/-- Whether a read of a line by a core, or by an engine as an agent, is on its way or held. -/
def readAsked (s : State) (core line : Nat) (cls : MemClass) : Bool :=
  s.agenda.any (fun e => match e with | .readMiss c l k _ => c == core && l == line && k == cls | _ => false) ||
    heldAt s line (fun h => match h with
      | .read c k _ => c == core && k == cls
      | .fetch a _ => a == core
      | _ => false)

/-! ### Squashes (R101, R113, R116) -/

/-- A squash (R101, R116): the start state is restored, the chunk's effects and requests go; a squash that counts and is the third
makes the next attempt wait for the pin token; a watch that the start state did not hold is dropped. -/
def squashTh (t : Thread) : Thread :=
  let a := t.chunk.start
  let n := if t.pinned then t.squashes else t.squashes + 1
  { t with
    a := a, squashes := n, waited := 0, longMiss := false, pendTrap := none
    chunk := { t.chunk.again with key := if t.pinned then t.chunk.key else 0 }
    status := match t.status with
      | .halted _ => .halted (if 3 ≤ n ∧ !t.pinned then some .pin else none)
      | _ => if 3 ≤ n ∧ !t.pinned then .waiting .pin else .running }

/-- A thread that waits for the pin token. -/
def wantsPin (t : Thread) : Bool := t.status == .waiting .pin || t.status == .halted (some .pin)

/-- A message of a line's invalidations, on its way. -/
def isInvalidation (line : Nat) : Event → Bool
  | .invalidation _ l _ => l == line
  | .invalidationAcknowledgement _ l _ _ => l == line
  | .invalidationRefusal _ l _ _ _ => l == line
  | _ => false

/-- The invalidations of a line given up: what is still under way for them goes unheeded. -/
def dropInvalidations (s : State) (line : Nat) : State := { s with agenda := s.agenda.filter (fun e => !isInvalidation line e) }

/-- Lines that a committing chunk had invalidated are given back (R113): IA returns to S with its former pointers, a line newly
owned returns to I with the home's data, and a line it owned before stays owned. -/
def releaseLines (s : State) (uid : Nat) : State :=
  (s.coh.dir.filter (fun d => d.busy = some (.commit uid))).foldl (fun s d =>
    let s1 :=
      if d.st = .IA then setDir (dropInvalidations s d.line) { d with st := .S, ptrs := d.before, before := [], busy := none, pend := 0, due := [] }
      else if d.before.isEmpty then setDir (l1Drop s d.owner d.line) { d with st := .I, ptrs := [], busy := none }
      else setDir s { d with before := [], busy := none }
    serveHeld s1 d.line) s

def squash (s : State) (uid : Nat) (conflict : Bool) : State :=
  match findThread s uid with
  | none => s
  | some t =>
    let s0 := silOfThread (perfTh s t (if conflict then 6 else 7) 1) t 2
      [if conflict then 0 else 1, BitVec.ofNat 64 t.squashes, BitVec.ofNat 64 t.chunk.count]
    let s1 := releaseLines s0 uid
    let t' := squashTh t
    let s2 := updThread s1 uid (fun _ => t')
    let s3 : State := { s2 with coh := { s2.coh with
        reqs := s2.coh.reqs.filter (fun r => r.uid ≠ uid)
        watches := s2.coh.watches.filter (fun w => !(w.uid == uid && w.fresh))
        pinQueue := if wantsPin t' then s2.coh.pinQueue ++ [(t.part, uid)] else s2.coh.pinQueue } }
    postOnce (serveWrites (if wantsPin t' then post s3 (.pinTokenGrant t.part) else s3)) (.traceStateChange t.core)

/-- Every uncommitted chunk that has touched a line squashed (R87). -/
def squashLine (s : State) (line : Nat) (but : Nat) : State := (touching s line but).foldl (fun s t => squash s t.uid true) s

/-- A write performed at a home within one line, with a stamp (R86): an owner's data reach the home, copies are dropped, intersecting
chunks squashed. -/
def homeWriteAt (s : State) (pa : Nat) (data : List (Option Byte)) (st : Nat) : State :=
  let line := lineOf pa
  let s1 := squashLine (ownerToHome s line) line 0
  let s2 := setDir (l1DropAll s1 line .D) { dirOf s1 line with st := .I, ptrs := [], bc := false }
  homeStore s2 pa data st

/-- `n` bytes from a free value on: what the device writes where the spec gives no layout. -/
def openBytes (s : State) (n : Nat) : List Byte := ((List.range ((n + 7) / 8)).flatMap (fun i => leBytes 8 (freeNext s i).toNat)).take n

/-- An area that the device saves state into is written, line by line, with bytes that the spec leaves open (R409, R411,
notes/assumptions/26.md). One that is not memory of this device has no bytes to write. -/
def writeArea (s : State) (pa n : Nat) : State :=
  (List.range (n / 64)).foldl (fun s i =>
    let a := pa + 64 * i
    if isLocal s a ∧ !atHole s a then
      homeWriteAt { s with free := s.free + 8 } (lineOf a) ((openBytes s 64).map some) (max (stampOf s (lineOf a)) (clockOf s (homeOf a)) + 1)
    else s) s

/-! ### Inputs from outside in the order log (R438)

An entry with no thread identity is an input from outside, its kind in the place of the chunk sequence number: 0 a write (PA and bytes,
256 for one that the mask leaves), 1 a message that arrives from outside the partition, 2 the kill of a context, 3 a record taken from a
queue, 5 another device's multicast. Kind 4 is the place of a later part of a chunk whose parts a replay has joined in their first place
(R106). -/

def scopeCode : Scope → Nat
  | .cl => 0
  | .die => 1
  | .pkg => 2
  | .dom => 3
  | .sys => 4

def scopeOf (n : Nat) : Scope :=
  if n = 0 then .cl else if n = 1 then .die else if n = 2 then .pkg else if n = 3 then .dom else .sys

/-- A message as logged. -/
def msgWords (m : Mesg) : List Word :=
  [m.core, m.ctx, m.box, m.srcDev, m.src, m.rel.toNat, scopeCode m.scope, m.stamp].map (BitVec.ofNat 64) ++ m.data.map (fun b => b.zeroExtend 64)

/-- A message put into its mailbox (R354). -/
def putMsg (s : State) (core ctx : Nat) (m : BoxMsg) : State := updCc s core ctx (fun c => { c with boxes := c.boxes ++ [m] })

/-- A logged message delivered. -/
def replayMsg (s : State) (vs : List Word) : State :=
  let v (i : Nat) : Nat := (vs.getD i 0).toNat
  putMsg s (v 0) (v 1) { box := v 2, dev := v 3, core := v 4, data := (vs.drop 8).map (fun w => w.setWidth 8), rel := v 5 == 1, scope := scopeOf (v 6), stamp := v 7 }

/-- A logged write performed. -/
def replayWrite (s : State) (vs : List Word) (stamp : Nat) : State :=
  let data := vs.tail.map (fun v => if v.toNat < 256 then some (v.setWidth 8) else none)
  let pa := (vs.headD 0).toNat
  if data.isEmpty then s
  else match region (paLocal pa) with
    | .scratch _ => writeBank s pa data stamp
    | _ => homeWriteAt s pa data stamp

/-- Subscriptions of a partition that another device's multicast serves (R179): of its MTAG and job, in place, not already being served. -/
def farServed (s : State) (p mtag job : Nat) : List Sub :=
  s.eng.subs.filter (fun e => e.part = p ∧ e.mtag = mtag ∧ e.joined ∧ cdJob s e.ctx = job ∧ s.eng.mcasts.all (fun m => m.id != e.id))

/-- Another device's multicast given to them; its sender stands in the place of a cluster as 512 and the device's number. -/
def farServe (s : State) (p dev id mtag job src : Nat) (fmt : Option Nat) (data : List SrcElem) : State :=
  let es := farServed s p mtag job
  let ms := es.map (fun e => ({ id := e.id, cl := 512 + dev, cmd := id, sub := e.cl, entry := e.entry, srcRec := src, fmt := fmt, data := data,
                                 pos := 0, slot := none, fault := none } : Mcast))
  postAll { s with eng := { s.eng with mcasts := s.eng.mcasts ++ ms } }
    (es.map (fun e => Event.multicastDelivery (512 + dev) id (e.cl * 32 + e.entry)))

/-- A multicast as logged: device, number, MTAG, job, format, source record, elements with their scales. -/
def mcastWords (dev id mtag job src : Nat) (fmt : Option Nat) (data : List SrcElem) : List Word :=
  ([dev, id, mtag, job, fmt.elim 0 (· + 1)] ++ (List.range 12).map (fun i => src / 2 ^ (64 * i) % 2 ^ 64) ++
    data.flatMap (fun (e : SrcElem) => e.val :: e.scale.elim [0, 0, 0, 0] (fun (x : Nat × Nat × Nat) => [1, x.1, x.2.1, x.2.2]))).map (BitVec.ofNat 64)

def mcastElems : List Nat → List SrcElem
  | v :: f :: a :: b :: c :: r => { val := v, scale := if f = 0 then none else some (a, b, c) } :: mcastElems r
  | _ => []

/-- A logged multicast given to the partition's subscribers. -/
def replayMcast (s : State) (p : Nat) (vs : List Word) : State :=
  let v (i : Nat) : Nat := (vs.getD i 0).toNat
  let src := (List.range 12).foldl (fun n i => n + v (5 + i) * 2 ^ (64 * i)) 0
  farServe s p (v 0) (v 1) (v 2) (v 3) src (if v 4 = 0 then none else some (v 4 - 1)) (mcastElems ((vs.drop 17).map BitVec.toNat))

/-- The replay of a partition is at an end: normal execution and logging resume (R440 step 5). -/
def endReplay (s : State) (p : Nat) : State :=
  { s with rep := { s.rep with replay := Assoc.erase s.rep.replay p, rollbacks := Assoc.erase s.rep.rollbacks p } }

/-- The inputs from outside that come next in a partition's replay are supplied from the log (R441); a kill or a take is made by its own
step, which goes on. `n` bounds them. -/
def replayInputs : Nat → State → Nat → State
  | 0, s, _ => s
  | n + 1, s, p =>
    match replayOf s p with
    | none => s
    | some (pos, fin) =>
      if fin ≤ pos then endReplay s p
      else match (logLeft s p).head? with
        | none => s
        | some e =>
          let x := (e.values.headD 0).toNat
          if e.identity ≠ [] then s
          else if e.seq = 4 then replayInputs n { s with rep := { s.rep with replay := Assoc.set s.rep.replay p (pos + 1, fin) } } p
          else if e.seq = 2 then postOnce s (.killWrite x)
          else if e.seq = 3 then postOnce s (.queueTailChange x)
          else
            let s1 := if e.seq = 1 then replayMsg s e.values else if e.seq = 5 then replayMcast s p e.values else replayWrite s e.values e.stamp
            replayInputs n { s1 with rep := { s1.rep with replay := Assoc.set s1.rep.replay p (pos + 1, fin) } } p

/-- Whether an input from outside may be taken now: outside replay always, but in a replay partition never (R442); else when the log has it
next. -/
def inputTurn (s : State) (p kind x : Nat) : Bool :=
  match replayOf s p with
  | none => !replayPart s p
  | some _ => match (logLeft s p).head? with
    | some e => e.identity.isEmpty && e.seq == kind && (e.values.headD 0).toNat == x
    | none => true

/-- An input from outside recorded; in replay the log already holds it and goes on. -/
def logOutside (s : State) (p kind stamp : Nat) (values : List Word) : State :=
  match replayOf s p with
  | none => { s with rep := { s.rep with log := s.rep.log ++ [{ part := p, identity := [], seq := kind, stamp := stamp, core := 2048, values := values }] } }
  | some (pos, fin) => replayInputs (fin + 1) { s with rep := { s.rep with replay := Assoc.set s.rep.replay p (pos + 1, fin) } } p

/-- A write from outside recorded (R436, R438). -/
def logInput (s : State) (part pa : Nat) (data : List (Option Byte)) : State :=
  logOutside s part 0 (stampOf s (lineOf pa)) (BitVec.ofNat 64 pa :: data.map (fun b => b.elim 256 (fun b => b.zeroExtend 64)))

/-- The log of a partition from a position on with the parts of a chunk joined in the place of the first (R106); `n` is the position. -/
def joinParts (whole : LogEnt) (pos : Nat) : Nat → Bool → List LogEnt → List LogEnt
  | _, _, [] => []
  | n, seen, e :: es =>
    if e.part ≠ whole.part then e :: joinParts whole pos n seen es
    else if pos ≤ n ∧ e.identity = whole.identity ∧ e.seq = whole.seq then
      (if seen then { e with identity := [], seq := 4, values := [] } else whole) :: joinParts whole pos (n + 1) true es
    else e :: joinParts whole pos (n + 1) seen es

/-- A commit event recorded in its partition's order log (R438). In replay the log already holds it: a chunk's turn lasts until its last
sub-chunk commits, and then the next event is due (R106, R441). -/
def logCommit (s : State) (e : LogEnt) (full : Bool) : State :=
  match replayOf s e.part with
  | none => { s with rep := { s.rep with log := s.rep.log ++ [e] } }
  | some (pos, fin) =>
    let es := chunkLog s e.part e.identity e.seq
    match es.getLast? with
    | none => s
    | some l =>
      if !full then s
      else
        let whole := { l with values := es.flatMap (fun x => x.values) }
        replayInputs (fin + 1) { s with rep := { s.rep with
          log := joinParts whole pos 0 false s.rep.log, replay := Assoc.set s.rep.replay e.part (pos + 1, fin) } } e.part

/-! ### Guarded memory (R89-R92) -/

/-- G lines of a core filled under a context tag. -/
def gLines (s : State) (core ctx : Nat) : List L1Line :=
  s.coh.l1.filter (fun l => l.core == core && l.cls == .G && l.ctx == ctx)

/-- The release of R122: every dirty G byte of the context in the core's L1 is written back. -/
def releaseG (s : State) (core ctx : Nat) (c : Cause) : State :=
  (gLines s core ctx).foldl (fun s l => gWriteBack s l fullMask c) s

/-- The acquire of R122: every valid G byte of the context that is not dirty is made invalid. -/
def acquireG (s : State) (core ctx : Nat) : State :=
  (gLines s core ctx).foldl (fun s l => l1Put s { l with valid := l.valid &&& l.dirty }) s

/-! ### Commit -/

/-- Whether every translation stored through is still the entry that was installed (R37). -/
def dirtyOk (s : State) (c : Chunk) : Bool :=
  c.dirty.all (fun d => plainEntry (entryAt s d.2.2.1) == plainEntry d.2.2.2)

/-- The comparison that goes with the setting of DT at a commit; a rival's commit sets none (R37). -/
def dirtyPasses (s : State) (t : Thread) : Bool := !t.chain.isEmpty || dirtyOk s t.chunk

/-- D-class bytes of a chunk into the owner's line (R114): the L1 line takes them and is owned. -/
def commitLine (core stamp : Nat) (writes : List Host.Cell) (s : State) (line : Nat) : State :=
  let base := match l1Get s core line with
    | some l => if l.cls = .D then l.data else homeLine s line
    | none => homeLine s line
  let data := (writes.filter (fun w => lineOf w.1 = line)).foldr (fun w d => d.set (w.1 % 64) w.2) base
  let s1 := l1Put s { core := core, line := line, cls := .D, ctx := 0, va := 0, data := data, valid := fullMask, dirty := fullMask, last := (0, 0) }
  let s2 := setDir s1 { dirOf s1 line with st := .O, owner := core, ptrs := [], bc := false, busy := none, before := [], pend := 0, due := [] }
  wakeScanner (markPage (bumpClock (setStamp (serveHeld s2 line) line stamp) (homeOf line) stamp) line) line

def versionOf (s : State) (tag line : Nat) : Option Version := s.vw.versions.find? (fun v => v.tag = tag ∧ v.line = line)
def setVersion (s : State) (v : Version) : State :=
  { s with vw := { s.vw with versions := v :: s.vw.versions.filter (fun x => !(x.tag == v.tag && x.line == v.line)) } }

/-- The versioned lines of some views for a line are read back from the spill area (R142); a read does not change which were written last. -/
def unspill (s : State) (chain : List Nat) (line : Nat) : State :=
  let mine (v : Version) : Bool := v.line == line && chain.contains v.tag
  if s.vw.versions.any (fun v => mine v && v.spilled) then
    spillOver { s with vw := { s.vw with versions := s.vw.versions.map (fun v => if mine v then { v with spilled := false } else v) } } (homeOf line)
  else s

/-- Bytes of a rival's chunk into its view's versioned line (R140-R142). -/
def commitVersion (tag : Nat) (writes : List Host.Cell) (s : State) (line : Nat) : State :=
  let v : Version := (versionOf s tag line).getD { tag := tag, line := line, data := List.replicate 64 0, mask := 0, spilled := false }
  let ws := writes.filter (fun w => lineOf w.1 = line)
  let v' : Version := { v with
    data := ws.foldr (fun w d => d.set (w.1 % 64) w.2) v.data
    mask := ws.foldl (fun m w => m ||| 2 ^ (w.1 % 64)) v.mask
    spilled := false }
  spillOver (setVersion s v') (homeOf line)

/-- G-class bytes of a chunk become committed dirty bytes of the L1 copy (R107). -/
def commitG (t : Thread) (s : State) (w : Host.Cell) : State :=
  let core := t.core
  let ctx := t.xlctx.bits 63 52
  let line := lineOf w.1
  let i := w.1 % 64
  let l := ((l1Get s core line).filter (fun l => l.cls == .G)).getD
    { core := core, line := line, cls := .G, ctx := ctx, va := 0, data := List.replicate 64 0, valid := 0, dirty := 0, last := (0, 0) }
  l1Put s { l with data := l.data.set i w.2, valid := l.valid ||| 2 ^ i, dirty := l.dirty ||| 2 ^ i, last := (t.lnum, t.index) }

/-- `wb` at the commit point (R333). An owned line that a chunk of another thread of the core has read or written goes home too; the L1 then
keeps its copy, read only, so that the chunk is still told of a write to the line (notes/assumptions/84.md). -/
def commitWb (core : Nat) (c : Cause) (s : State) (line : Nat) : State :=
  match l1Get s core line with
  | none => s
  | some l =>
    match l.cls with
    | .G => gWriteBack s l fullMask c
    | .D =>
      let d := dirOf s line
      if d.st ≠ .O ∨ d.owner ≠ core then s
      else if s.rest.any (fun t => t.core == core && t.chunk.touches line) then
        setDir (l1Put (memWrite s line l.data) { l with dirty := 0 }) { d with st := .S, ptrs := [clusterOf core], bc := false }
      else setDir (l1Drop (memWrite s line l.data) core line) { d with st := .I, ptrs := [] }
    | _ => s

/-- Job number of a thread's partition. -/
def jobOf (s : State) (t : Thread) : Nat := pdJob s t.part

/-- The fork whose registered choice of another rival waits for a thread to reach a chunk end (R153 step 2). -/
def heldForChoice (s : State) (uid : Nat) : Option Nat :=
  (s.vw.forks.find? (fun f => match f.choice with
    | some (chooser, k) => chooser != uid && f.rivals.any (fun r => r.1 == k && r.2.1 == uid)
    | none => false)).map (fun f => f.id)

/-- The watches that a thread's chunk armed stand from its commit point on, in place of the one before (R341). -/
def keepWatches (s : State) (uid : Nat) : State :=
  if s.coh.watches.any (fun w => w.uid = uid ∧ w.fresh) then
    { s with coh := { s.coh with watches :=
        (s.coh.watches.filter (fun w => !(w.uid == uid && !w.fresh))).map (fun w => if w.uid = uid then { w with fresh := false } else w) } }
  else s

/-- The front thread's chunk reaches its commit point with a stamp (R114, R115): release if asked, window stores at the banks, G bytes,
D lines or versioned lines, write-backs, DT; the order log takes the commit (R438); a new chunk starts. `advance` is false for the
ends of R106 that do not count. With a trap pending the thread waits for its delivery (R390). -/
def commitAt (s : State) (st : Nat) (advance : Bool) : State :=
  let t := s.th
  let stamp := replayStamp s t advance st
  let c := t.chunk
  let ctx := t.xlctx.bits 63 52
  let s1 := if c.rel then releaseG (c.gwrites.foldr (fun w s => commitG t s w) s) t.core ctx t.cause
    else c.gwrites.foldr (fun w s => commitG t s w) s
  let s2 := c.wstores.foldr (fun w s => writeBank s w.1 [some w.2] stamp) s1
  let s3 := match t.chain with
    | [] => c.lines.foldl (commitLine t.core stamp c.writes) s2
    | tag :: _ => c.lines.foldl (commitVersion tag c.writes) s2
  let s3' := c.wbs.foldl (commitWb t.core t.cause) s3
  let s4 := if c.acq then acquireG s3' t.core ctx else s3'
  let s5 := match t.chain with
    | [] => c.dirty.foldl (fun s d => setEntryBit s d.2.2.1 6) s4
    | tag :: _ => { s4 with vw := { s4.vw with dirty := c.dirty.map (fun d => (tag, d)) ++ s4.vw.dirty } }
  let s6 := setLc s5 t.core (max (lcOf s5 t.core) stamp)
  let a := { t.a with lastStamp := stamp }
  let sc := perfTh s6 t 5 1
  let s7 := silOfThread sc t 1 [if advance then 0 else 1, BitVec.ofNat 64 stamp, BitVec.ofNat 64 c.count, freeWord2 sc, 0]
  let s8 := if t.marked || t.leave then postOnce s7 (.threadEviction t.uid) else s7
  let s9 : State := { s8 with
    th := { t with a := a, squashes := 0
                   chunk := { Chunk.fresh a with
                     before := if advance then 0 else c.before + c.count, passed := if advance then 0 else c.passed + c.logged.length }
                   pinned := t.pinned && !advance
                   seq := if advance then t.seq + 1 else t.seq, boundary := c.single,
                   status := match t.status, t.pendTrap with
                     | .halted w, _ => .halted w
                     | _, some _ => .waiting .commit
                     | _, none => match heldForChoice s8 t.uid with
                       | some f => .waiting (.choice f)
                       | none => .running }
    coh := { s8.coh with
      reqs := s8.coh.reqs.filter (fun r => r.uid ≠ t.uid)
      pinHolder := if t.pinned && advance then s8.coh.pinHolder.filter (fun h => h.2 ≠ t.uid) else s8.coh.pinHolder } }
  -- a thread that waited for its commit runs on (R423)
  let s9' := if t.status = .running then s9 else postOnce s9 (.traceStateChange t.core)
  let s10 := logCommit s9' { part := t.part, identity := t.origin, seq := t.seq, stamp := stamp, core := t.core, values := c.logged.reverse } advance
  serveWrites (match t.chain with
    | [] => c.lines.foldl wakeWatchers (keepWatches s10 t.uid)
    | _ => keepWatches s10 t.uid)

/-- A chunk that read a poisoned line does not commit; the partition rolls back (R70, R71). -/
def poisonedRead (s : State) (c : Chunk) : Bool := c.poison || c.reads.any (fun l => s.mem.poisoned.contains l)

/-- Translations dropped from the TLBs (R37, R39, R43). -/
def dropTlb (s : State) (gone : Tlb → Bool) : State :=
  { s with mem := { s.mem with tlb := s.mem.tlb.filter (fun e => !gone e), l1tlb := s.mem.l1tlb.filter (fun e => !gone e.2) } }

/-- Walk-cache entries of a context that cover an address dropped (R39, R43). -/
def dropWalks (s : State) (ctx va : Nat) : State :=
  { s with mem := { s.mem with wcache := s.mem.wcache.filter (fun e => !(e.ctx == ctx && va / 2 ^ (12 + 9 * e.lvl) == e.base)) } }

/-- A chunk whose leaf has changed is squashed, and the translation is dropped, so that it walks afresh (R37). -/
def squashStale (s : State) (uid : Nat) (c : Chunk) : State :=
  let bad := c.dirty.filter (fun d => plainEntry (entryAt s d.2.2.1) != plainEntry d.2.2.2)
  let s1 := dropTlb (squash s uid true) (fun e => bad.any (fun d => d.2.2.1 == e.leafPa && d.2.1 == e.ctx))
  bad.foldl (fun s d => dropWalks s d.2.1 d.1) s1

/-- The guarded lines that the release of a chunk's commit point writes back: those dirty under its context, and those it wrote (R124). -/
def releaseLinesOf (s : State) (t : Thread) : List Nat :=
  (((gLines s t.core (t.xlctx.bits 63 52)).filter (fun l => l.dirty != 0)).map (fun l => l.line) ++
    t.chunk.gwrites.map (fun w => lineOf w.1)).eraseDups.filter (isLocal s)

/-- The dirty guarded lines of other devices that the release of a chunk's commit point covers. -/
def remoteDirty (s : State) (t : Thread) : List L1Line :=
  (gLines s t.core (t.xlctx.bits 63 52)).filter (fun l => l.dirty != 0 && !isLocal s l.line)

/-- Whether the release of a chunk's commit point can be performed and acknowledged in that step (R124). -/
def releaseReady (s : State) (t : Thread) : Bool :=
  !t.chunk.rel || (!coreWritesPending s t.core && remoteDirty s t = [] &&
    (releaseLinesOf s t).all (fun l => canHomeWrite s l && !lineHeld s l && agentRoom s (coreAgent t.core)))

/-- The homes asked to call in the copies that stand against it; guarded bytes of other devices are sent to them. -/
def prepareRelease (s : State) (t : Thread) : State :=
  (remoteDirty s t).foldl (fun s l => gWriteBack s l fullMask t.cause) ((releaseLinesOf s t).foldl (fun s l => prepareLine s l (coreAgent t.core)) s)

/-- The homes that hold the lines a chunk wrote (R111). -/
def homesOf (c : Chunk) : List Nat := (c.lines.map homeOf).eraseDups

/-- A chunk that has read a poisoned line is squashed, and waits for the rollback of its partition (R70, R424, R429). -/
def squashPoisoned (s : State) : State :=
  let t := s.th
  let s1 := silOfThread (perfTh s t 7 1) t 2 [2, BitVec.ofNat 64 t.squashes, BitVec.ofNat 64 t.chunk.count]
  postOnce (post { s1 with th := { t with a := t.chunk.start, pendTrap := none, chunk := { t.chunk.again with phase := .requesting },
                                          status := .waiting .commit } } (.rollback t.part [] [])) (.traceStateChange t.core)

/-- The front thread's chunk ends (R102, R111, R115): with no D-class write it reaches its commit point now, with stamp LC + 1, once its
release can be performed (R124); otherwise it requests its commit from the homes of the lines it wrote and the thread waits. -/
def endChunkAs (s : State) (advance : Bool) : State :=
  let t := s.th
  let c := t.chunk
  if poisonedRead s c then squashPoisoned s
  else if !dirtyPasses s t then squashStale s t.uid c
  else if c.writes = [] then
    if releaseReady s t then commitAt s (lcOf s t.core + 1) advance
    else
      postOnce (post (prepareRelease { s with th := { t with chunk := { c with phase := .requesting, sub := !advance }, status := .waiting .commit } } t)
        (.commitPoint t.uid)) (.traceStateChange t.core)
  else
    let key := if t.pinned ∧ c.key ≠ 0 then c.key else lcOf s t.core + 1
    let s1 := setLc s t.core (max (lcOf s t.core) key)
    postAll { s1 with th := { t with
        chunk := { c with phase := .requesting, sub := !advance, key := key, asked := homesOf c, granted := [], reported := [], seen := key }
        status := .waiting .commit } }
      ((homesOf c).map (fun h => .commitRequest h t.uid (incOf s (clusterOf t.core))) ++ [.traceStateChange t.core])

def endChunk (s : State) : State := endChunkAs s true

/-- The chunk ends before a singleton (R103, R104): `boundary` holds once it has reached its commit point. -/
def endForSingle (s : State) : State := endChunk { s with th := { s.th with chunk := { s.th.chunk with single := true } } }

/-- A trap raised at the front thread's instruction (R390): the chunk before it ends, and the trap is delivered at its commit
point, at once when that is reached in this step. A singleton's trap is delivered at once, and a line reserved for its access is free. -/
def raise (s : State) (tr : Trap) : State :=
  if s.th.boundary then deliverTrap (dropTurns s s.th.uid) tr s.th.a.pc
  else
    let s1 := endChunk { s with th := { s.th with pendTrap := some tr } }
    if s1.th.chunk.phase = .running ∧ s1.th.pendTrap = some tr then deliverTrap s1 tr s1.th.a.pc else s1

end Sys2Proof.Machine
end

