-- ==== Sys2Proof/Machine/Csr.lean ====
section
/-! DEFINITION. Csr.lean: the system registers by number (R253-R257, R392, R393, R138, R205, R235, R236, R25, R60): access, value and
what a write stores. -/

namespace Sys2Proof.Machine

/-- Whether a number is assigned (R253, R393). -/
def csrAssigned (num : Nat) : Bool :=
  num == 0x001 || num == 0x002 || (0x008 ≤ num && num ≤ 0x00b) || (0x010 ≤ num && num ≤ 0x016) || num == 0x020 ||
    (0x030 ≤ num && num ≤ 0x03f) || (0x100 ≤ num && num ≤ 0x102) || (0x110 ≤ num && num ≤ 0x115)

/-- The subcause of R254 for a number named in a mode, none when the access is legal. -/
def csrRefused (num : Nat) (user : Bool) : Option Nat :=
  if user && 0x100 ≤ num && num ≤ 0x1ff then some 5
  else if csrAssigned num then none
  else some 4

/-- Whether a write takes effect in a mode (R253, R257). -/
def csrWritable (num : Nat) (user : Bool) : Bool :=
  num == 0x001 || num == 0x002 || num == 0x008 || (0x010 ≤ num && num ≤ 0x016) || (!user && 0x030 ≤ num && num ≤ 0x03f) ||
    (!user && ((0x100 ≤ num && num ≤ 0x102) || (0x110 ≤ num && num ≤ 0x115)))

/-- The context tag of a thread (R25). -/
def ctxOf (t : Thread) : Nat := t.xlctx.bits 63 52

/-- EXECCTL (R255). -/
def execctl (a : Arch) : Word := BitVec.ofNat 64 (a.token.toNat * 2 ^ 8 + a.sup.toNat * 2 ^ 7 + a.chk.toNat)

/-- WORLD with the count of deferred entries (R138). -/
def worldWord (t : Thread) : Word := t.world.putBits 7 3 t.deferral.length

def bankRead (b : TrapBank) : Nat → Word
  | 1 => b.pc
  | 2 => b.cause
  | 3 => b.i0
  | 4 => b.i1
  | 5 => b.i2
  | 6 => b.i3
  | _ => b.handler

/-- TCAUSE as written: reserved bits stay 0 and a PLVL of 0b11 leaves the field (R392). -/
def causeWrite (old v : Word) : Word :=
  BitVec.ofNat 64 (v.toNat % 2 ^ 24 + v.bits 33 32 * 2 ^ 32 +
    (if v.bits 35 34 = 3 then old.bits 35 34 else v.bits 35 34) * 2 ^ 34)

def bankWrite (b : TrapBank) (i : Nat) (v : Word) : TrapBank :=
  match i with
  | 1 => { b with pc := v &&& ~~~3#64 }
  | 2 => { b with cause := causeWrite b.cause v }
  | 3 => { b with i0 := v }
  | 4 => { b with i1 := v }
  | 5 => { b with i2 := v }
  | 6 => { b with i3 := v }
  | _ => { b with handler := v &&& ~~~3#64 }

/-- FPCTL as stored (R235). -/
def fpctlWrite (v : Word) : Word :=
  BitVec.ofNat 64 (v.bits 12 8 * 2 ^ 8 + (if v.bits 2 0 < 5 then v.bits 2 0 else 0))

/-- Events whose count is a matter of cycles or of misses that take none here (R424): a counter that counts one holds a free value. -/
def perfTiming (sel : Nat) : Bool :=
  bitAt sel 16 && [3, 4, 0xa, 0xd, 0x33].contains (sel % 2 ^ 16)

/-- One of eight counters or selectors set (R257). -/
def setOf8 (l : List Nat) (k v : Nat) : List Nat := (List.range 8).map (fun j => if j = k then v else l.getD j 0)

/-- PERFi of a core and context (R257). -/
def perfValue (s : State) (c : CoreCtx) (i : Nat) : Nat :=
  if perfTiming (c.perfsel.getD i 0) then (freeWord s).bits 47 0 else c.perf.getD i 0

/-- The value of a system register of a thread. -/
def csrRead (s : State) (t : Thread) (num : Nat) : Word :=
  let c := ccOf s t.core (ctxOf t)
  if num = 0x001 then t.a.fpctl
  else if num = 0x002 then t.a.fpflags
  else if num = 0x008 then execctl t.a
  else if num = 0x009 then t.a.grpslots
  else if num = 0x00a then worldWord t
  else if num = 0x00b then BitVec.ofNat 64 (t.vf * 2 ^ 16 + t.part * 2 ^ 8 + 1)
  else if 0x010 ≤ num ∧ num ≤ 0x016 then bankRead t.kern (num - 0x010)
  else if num = 0x020 then c.tagmap
  else if 0x030 ≤ num ∧ num ≤ 0x037 then BitVec.ofNat 64 (perfValue s c (num - 0x030))
  else if 0x038 ≤ num ∧ num ≤ 0x03f then BitVec.ofNat 64 (c.perfsel.getD (num - 0x038) 0)
  else if num = 0x100 then t.xlctx
  else if num = 0x101 then BitVec.ofNat 64 (Assoc.getD s.mem.pinf t.core 0)
  else if num = 0x102 then t.supv.handler
  else if 0x110 ≤ num ∧ num ≤ 0x115 then bankRead t.supv (num - 0x110 + 1)
  else 0

/-- A thread with a system register of its own written. -/
def csrThread (t : Thread) (num : Nat) (v : Word) : Thread :=
  if num = 0x001 then { t with a := { t.a with fpctl := fpctlWrite v } }
  else if num = 0x002 then { t with a := { t.a with fpflags := BitVec.ofNat 64 (v.bits 4 0) } }
  else if num = 0x008 then { t with a := { t.a with chk := v.bits 0 0 == 1 } }
  else if 0x010 ≤ num ∧ num ≤ 0x016 then { t with kern := bankWrite t.kern (num - 0x010) v }
  else if num = 0x100 then { t with xlctx := BitVec.ofNat 64 (v.toNat / 2 ^ 13 * 2 ^ 13) }
  else if num = 0x102 then { t with supv := bankWrite t.supv 0 v }
  else if 0x110 ≤ num ∧ num ≤ 0x115 then { t with supv := bankWrite t.supv (num - 0x110 + 1) v }
  else t

/-- A system register of the thread `t` written in a mode; a write that the mode does not allow is ignored (R254). `put` changes that
thread. A counter whose event changes keeps the count it had. -/
def csrStore (put : State → (Thread → Thread) → State) (s : State) (t : Thread) (num : Nat) (v : Word) (user : Bool) : State :=
  if !csrWritable num user then s
  else if 0x030 ≤ num ∧ num ≤ 0x037 then
    updCc s t.core (ctxOf t) (fun c => { c with perf := setOf8 c.perf (num - 0x030) (v.bits 47 0) })
  else if 0x038 ≤ num ∧ num ≤ 0x03f then
    updCc s t.core (ctxOf t) (fun c => { c with
      perf := setOf8 c.perf (num - 0x038) (perfValue s c (num - 0x038)), perfsel := setOf8 c.perfsel (num - 0x038) (v.bits 17 0) })
  else if num = 0x101 then
    { s with mem := { s.mem with pinf := Assoc.set s.mem.pinf t.core (min (v.bits 6 0) 96) } }
  else put s (fun t => csrThread t num v)

/-- The same for any resident thread. -/
def csrWrite (s : State) (t : Thread) (num : Nat) (v : Word) (user : Bool) : State :=
  csrStore (fun s f => updThread s t.uid f) s t num v user

end Sys2Proof.Machine
end

