-- ==== Sys2Proof/Machine/Sil.lean ====
section
/-! DEFINITION. Sil.lean: the registers and the SRAM of a die's Sillage (R427, R428, R434). -/

namespace Sys2Proof.Machine

/-! ### SRAM -/

def sramByte (s : State) (die a : Nat) : Byte :=
  match s.dbg.sram.find? (fun e => e.1 = die ∧ e.2.1 = a) with
  | some e => e.2.2
  | none => 0

def sramPut (s : State) (die a : Nat) (b : Byte) : State :=
  { s with dbg := { s.dbg with sram :=
      (if b = 0 then [] else [(die, a, b)]) ++ s.dbg.sram.filter (fun e => !(e.1 == die && e.2.1 == a)) } }

/-- `n` bytes as a number. -/
def sramNat (s : State) (die a n : Nat) : Nat := leNat ((List.range n).map (fun i => sramByte s die (a + i)))

def sramWrite (s : State) (die a n v : Nat) : State :=
  ((leBytes n v).zipIdx).foldl (fun s e => sramPut s die (a + e.2) e.1) s

/-- Start of the object area in the SRAM (R427). -/
def objArea : Nat := 0x8000

/-- A filter word of a slot (R428). -/
def filterWordAt (s : State) (die slot i : Nat) : Nat := sramNat s die (slot * 256 + 4 * i) 4

/-! ### Registers -/

def spctl (s : State) (die n : Nat) : Word := ctlGet s (silAddr die (0x8000 + 8 * n))
def atctl (s : State) (die a : Nat) : Word := ctlGet s (silAddr die (0x9000 + 0x40 * a))
def atmask (s : State) (die a i : Nat) : Word := ctlGet s (silAddr die (0x9008 + 0x40 * a + 8 * i))
def obj0 (s : State) (die o : Nat) : Word := ctlGet s (silAddr die (0xa000 + 0x20 * o))
def obj1 (s : State) (die o : Nat) : Word := ctlGet s (silAddr die (0xa008 + 0x20 * o))
def objLo (s : State) (die o : Nat) : Word := ctlGet s (silAddr die (0xa010 + 0x20 * o))
def tgctl (s : State) (die t : Nat) : Word := ctlGet s (silAddr die (0xb000 + 0x20 * t))
def tnReg (s : State) (die v i : Nat) : Word := ctlGet s (silAddr die (0xc000 + 0x40 * v + 8 * i))
def tnSet (s : State) (die v i : Nat) (x : Word) : State := ctlSet s (silAddr die (0xc000 + 0x40 * v + 8 * i)) x

def spV (w : Word) : Bool := w.bits 7 7 == 1
def spLen (w : Word) : Nat := w.bits 6 0
def spSupv (w : Word) : Bool := w.bits 15 15 == 1
def spOwner (w : Word) : Nat := w.bits 23 16
def objV (w : Word) : Bool := w.bits 0 0 == 1
def objSupv (w : Word) : Bool := w.bits 23 23 == 1
def objOwner (w : Word) : Nat := w.bits 31 24
def objKind (w : Word) : Nat := w.bits 18 16
def objBase (w : Word) : Nat := w.bits 43 32
def objSize (w : Word) : Nat := w.bits 55 44

/-- An object's byte address in the SRAM. -/
def objAddr (w : Word) : Nat := objArea + 64 * objBase w

/-- The status of an instruction word of a program of length `len` at index i: 0 when it passes (R428, R434). -/
def filterStatus (s : State) (die : Nat) (supv : Bool) (owner len i w : Nat) : Nat :=
  let op := bits w 31 26
  let branch := 0x0d ≤ op && op ≤ 0x11
  let off := bits w 5 0
  let w' := if branch && off == 0 then w + 1 else w
  if op = 0 ∨ 0x1a ≤ op then 1
  else match decodeFilter w' with
    | .error _ => 2
    | .ok _ =>
      if branch && (off == 0 || len ≤ i + off) then 3
      else if 0x12 ≤ op ∧ op ≤ 0x15 ∧ !supv ∧ (objSupv (obj0 s die off) ∨ objOwner (obj0 s die off) ≠ owner) then 4
      else if op = 0x16 ∧ !supv ∧ (spSupv (tgctl s die (bits w 3 0)) ∨ spOwner (tgctl s die (bits w 3 0)) ≠ owner) then 4
      else 0

/-- The status of an install: the first failure in the order length, words from index 0, last word. -/
def installStatus (s : State) (die slot : Nat) (c : Word) : Nat :=
  let len := spLen c
  if len = 0 ∨ 64 < len then 5
  else
    match ((List.range len).map (fun i => filterStatus s die (spSupv c) (spOwner c) len i (filterWordAt s die slot i))).find?
        (fun x => x ≠ 0) with
    | some x => x
    | none => if bits (filterWordAt s die slot (len - 1)) 31 26 = 0x19 then 0 else 6

/-- A write of SPCTL with V = 1 to an empty slot, or of the other fields (R428, R434). -/
def spctlInstallAt (s : State) (die slot : Nat) (v : Word) : State :=
  let off := silAddr die (0x8000 + 8 * slot)
  let c := ctlGet s off
  if spV c then s
  else
    let c' : Word := BitVec.ofNat 64 (v.bits 23 15 * 2 ^ 15 + c.bits 10 8 * 2 ^ 8 + v.bits 6 0)
    if v.bits 7 7 = 1 then
      let st := installStatus s die slot c'
      ctlSet s off ((c'.putBits 10 8 st).putBits 7 7 (if st = 0 then 1 else 0))
    else ctlSet s off c'

/-- A write of SPCTL with V = 0 to an installed slot: its attachments go (R428). -/
def spctlUninstallAt (s : State) (die slot : Nat) : State :=
  let off := silAddr die (0x8000 + 8 * slot)
  let s1 := ctlSet s off ((ctlGet s off).putBits 7 7 0)
  (List.range 32).foldl (fun s a =>
    if (atctl s die a).bits 30 24 = slot then ctlPut s (silAddr die (0x9000 + 0x40 * a)) 0 0 0 else s) s1

def spctlWrite (s : State) (die slot : Nat) (v : Word) : State :=
  if spV (spctl s die slot) then (if v.bits 7 7 = 0 then spctlUninstallAt s die slot else s) else spctlInstallAt s die slot v

/-- Reserved bits of ATCTL read as zero. -/
def atMaskBits (v : Word) : Word := v &&& 0xff7f0100e3#64

/-- A write of ATCTL with V = 1 (R428): refused attachments read back V = 0. -/
def atctlAttachAt (s : State) (die a : Nat) (v : Word) : State :=
  let c := atMaskBits v
  let sp := spctl s die (c.bits 30 24)
  let supv := c.bits 16 16 == 1
  let bad := !spV sp || c.bits 7 5 == 7 || (!supv && spOwner sp != c.bits 39 32) || (supv && !spSupv sp)
  ctlSet s (silAddr die (0x9000 + 0x40 * a)) (c.putBits 0 0 (if bad then 0 else 1))

/-- A write of ATCTL with V = 0. -/
def atctlDetachAt (s : State) (die a : Nat) (v : Word) : State :=
  ctlSet s (silAddr die (0x9000 + 0x40 * a)) ((atMaskBits v).putBits 0 0 0)

/-- Bytes that an object of a kind needs, with parameters in range; none where refused (R428, R434). -/
def objNeeds (kind : Nat) (p : Word) : Option Nat :=
  match kind with
  | 0 => if 1 ≤ p.bits 3 0 ∧ p.bits 3 0 ≤ 12 then some (2 ^ p.bits 3 0 * 8) else none
  | 1 => if 6 ≤ p.bits 15 12 ∧ p.bits 15 12 ≤ 13 ∧ 1 ≤ p.bits 11 8 ∧ p.bits 11 8 ≤ 8 then
      some (p.bits 11 8 * 2 ^ p.bits 15 12 * 4) else none
  | 2 => if 4 ≤ p.bits 7 4 ∧ p.bits 7 4 ≤ 14 then some (2 ^ p.bits 7 4) else none
  | 3 => some 0
  | _ => none

/-- Whether an object's area overlaps another valid object's. -/
def objOverlaps (s : State) (die o : Nat) (w : Word) : Bool :=
  (List.range 64).any (fun o' =>
    let w' := obj0 s die o'
    o' != o && objV w' && decide (objBase w < objBase w' + objSize w') && decide (objBase w' < objBase w + objSize w))

def objMaskBits (v : Word) : Word := v &&& 0x00ffffffff870001#64

/-- A write of OBJ0 while V = 0: stored; with V = 1 the object is validated and its counters are set to zero (R428). -/
def objValidateAt (s : State) (die o : Nat) (v : Word) : State :=
  let off := silAddr die (0xa000 + 0x20 * o)
  let c := objMaskBits v
  if objV (ctlGet s off) then s
  else if !objV c then ctlSet s off c
  else
    let ok := match objNeeds (objKind c) (obj1 s die o) with
      | none => false
      | some n => decide (1 ≤ objSize c) && decide (objBase c + objSize c ≤ 3584) && !objOverlaps s die o c && decide (n ≤ 64 * objSize c)
    if !ok then ctlSet s off (c.putBits 0 0 0)
    else
      let s1 := ctlSet s off c
      if objKind c = 3 then s1
      else { s1 with dbg := { s1.dbg with sram := s1.dbg.sram.filter (fun e =>
              !(e.1 == die && objAddr c ≤ e.2.1 && decide (e.2.1 < objAddr c + 64 * objSize c))) } }

/-- A write of OBJ0 with V = 0 while V = 1: the object is removed. -/
def objRemoveAt (s : State) (die o : Nat) : State := ctlPut s (silAddr die (0xa000 + 0x20 * o)) 0 0 0

/-- A write of zero to TGCNT clears TGCNT and TGVAL. -/
def tgcntClearAt (s : State) (die t : Nat) : State :=
  ctlSet (ctlSet s (silAddr die (0xb008 + 0x20 * t)) 0) (silAddr die (0xb010 + 0x20 * t)) 0

/-- A write of TNEXPBASE: TNEXPHEAD counts from there. -/
def tnexpbaseWriteAt (s : State) (die v : Nat) (x : Word) : State := tnSet (tnSet s die v 3 x) die v 5 0

/-- TGCTL as stored (R428). -/
def tgctlStored (v : Word) : Word :=
  let a := v.bits 2 0
  let a' := if 5 ≤ a ∨ (a = 4 ∧ v.bits 15 15 = 0) then 0 else a
  BitVec.ofNat 64 (v.bits 23 15 * 2 ^ 15 + v.bits 3 3 * 8 + a')

/-- Whether a unit of 64 bytes of the object area may be written: inside an object with V = 0 and no valid one. -/
def objUnitWritable (s : State) (die u : Nat) : Bool :=
  let covers (o : Nat) : Bool := decide (objBase (obj0 s die o) ≤ u) && decide (u < objBase (obj0 s die o) + objSize (obj0 s die o))
  (List.range 64).any (fun o => covers o && !objV (obj0 s die o)) && !(List.range 64).any (fun o => covers o && objV (obj0 s die o))

/-- Virtual functions of a partition. -/
def vfOfPart (s : State) (p v : Nat) : Bool := vfActive s v && vfPart s v == p

/-- Whether a supervisor owns the entry at an offset of a die's block (R428). -/
def silOwned (s : State) (p die off : Nat) : Bool :=
  let mine (supv : Bool) (owner : Nat) : Bool := supv || vfOfPart s p owner
  if off < 0x8000 then mine (spSupv (spctl s die (off / 0x100))) (spOwner (spctl s die (off / 0x100)))
  else if off < 0x8400 then mine (spSupv (spctl s die ((off - 0x8000) / 8))) (spOwner (spctl s die ((off - 0x8000) / 8)))
  else if off < 0xa000 then
    let c := atctl s die ((off - 0x9000) / 0x40)
    mine (c.bits 16 16 == 1) (c.bits 39 32)
  else if off < 0xb000 then
    let c := obj0 s die ((off - 0xa000) / 0x20)
    mine (objSupv c) (objOwner c)
  else if off < 0xc000 then
    let c := tgctl s die ((off - 0xb000) / 0x20)
    mine (spSupv c) (spOwner c)
  else if off < 0x10000 then vfOfPart s p ((off - 0xc000) / 0x40)
  else
    -- bytes of the object area are those of the object that they lie in, a valid one first
    let u := (off - 0x40000) / 64
    let covers (o : Nat) : Bool := decide (objBase (obj0 s die o) ≤ u) && decide (u < objBase (obj0 s die o) + objSize (obj0 s die o))
    let valid := (List.range 64).filter (fun o => covers o && objV (obj0 s die o))
    (if valid.isEmpty then (List.range 64).filter covers else valid).all (fun o => mine (objSupv (obj0 s die o)) (objOwner (obj0 s die o)))

/-- Whether an offset of a die's block is no register (R428). -/
def silHole (off : Nat) : Bool :=
  if off < 0x8400 then false
  else if off < 0x9000 then true
  else if off < 0x9800 then decide (0x28 ≤ off % 0x40)
  else if off < 0xa000 then true
  else if off < 0xa800 then decide (0x18 ≤ off % 0x20)
  else if off < 0xb000 then true
  else if off < 0xb200 then decide (0x18 ≤ off % 0x20)
  else if off < 0xc000 then true
  else if off < 0x10000 then false
  else decide (off < 0x40000 ∨ 0x78000 ≤ off)

def silRead (s : State) (die off : Nat) : Word :=
  if off < 0x8000 then BitVec.ofNat 64 (sramNat s die off 8)
  else if 0x40000 ≤ off then BitVec.ofNat 64 (sramNat s die (off - 0x40000 + objArea) 8)
  else ctlGet s (silAddr die off)

/-- A register of a die's Sillage written (R428). -/
def silWrite (s : State) (die off : Nat) (v : Word) : State :=
  if off < 0x8000 then (if spV (spctl s die (off / 0x100)) then s else sramWrite s die off 8 v.toNat)
  else if off < 0x8400 then spctlWrite s die ((off - 0x8000) / 8) v
  else if off < 0xa000 then
    let a := (off - 0x9000) / 0x40
    if off % 0x40 = 0 then (if v.bits 0 0 = 1 then atctlAttachAt s die a v else atctlDetachAt s die a v)
    else ctlSet s (silAddr die off) v
  else if off < 0xb000 then
    let o := (off - 0xa000) / 0x20
    if off % 0x20 = 0 then
      (if objV (obj0 s die o) then (if v.bits 0 0 = 0 then objRemoveAt s die o else s) else objValidateAt s die o v)
    else if objV (obj0 s die o) then s
    else if off % 0x20 = 8 then ctlSet s (silAddr die off) (v &&& 0x7fffff#64)
    else ctlSet s (silAddr die off) v
  else if off < 0xc000 then
    let t := (off - 0xb000) / 0x20
    if off % 0x20 = 0 then ctlSet s (silAddr die off) (tgctlStored v)
    else if off % 0x20 = 8 ∧ v = 0 then tgcntClearAt s die t
    else s
  else if off < 0x10000 then
    let f := (off - 0xc000) / 0x40
    match off % 0x40 / 8 with
    | 0 => tnSet s die f 0 (v &&& 0xffff#64)
    | 3 => tnexpbaseWriteAt s die f v
    | 4 => tnSet s die f 4 (v &&& 0xffff001f#64)
    | 5 => s
    | 6 => tnSet s die f 6 v
    | i => if v = 0 then tnSet s die f i 0 else s
  else if objUnitWritable s die ((off - 0x40000) / 64) then sramWrite s die (off - 0x40000 + objArea) 8 v.toNat
  else s

end Sys2Proof.Machine
end

