-- ==== Sys2Proof/Machine/CtlOps.lean ====
section
/-! DEFINITION. CtlOps.lean: reads and writes of device control space (R416, R418, R428, R443-R454, R457, R476), by the function that
makes them. -/

namespace Sys2Proof.Machine

/-! ### Route tables (R476) -/

/-- A doubleword of a route table written: reserved bits are 0 and the package's own entry is ignored. -/
def routeWriteAt (s : State) (p off : Nat) (v : Word) : State :=
  let w := off - 0xc00
  let old := ctlGet s (p * 0x1000 + off)
  let masked := v &&& 0x8f8f8f8f8f8f8f8f#64
  let own := ownDev s
  ctlSet s (p * 0x1000 + off)
    (if w / 8 = own / 8 then masked.putBits (own % 8 * 8 + 7) (own % 8 * 8) (old.bits (own % 8 * 8 + 7) (own % 8 * 8)) else masked)

def routeRead (s : State) (p off : Nat) : Word :=
  let n := (off - 0xc00) / 8 * 8
  BitVec.ofNat 64 ((List.range 8).foldl (fun a i => a + route s p (n + i) * 2 ^ (8 * i)) 0)

/-! ### Context descriptors and queue entries (R452, R454) -/

/-- A write of word 0 of a context descriptor: V = 1 is refused when JOB differs from the partition's (R454), also where V is 1 already; KILL
kills. -/
def contextWriteAt (s : State) (t : Nat) (v : Word) : State :=
  let ok := v.bits 0 0 == 1 && cdJob s t == pdJob s (cdPart s t)
  let s0 := if ok && !cdValid s t then dropRings s t else s
  let s1 := ctlSet s0 (cdAddr t 0) (if ok then 1 else 0)
  if v.bits 1 1 = 1 ∧ cdValid s t then post s1 (.killWrite t) else s1

/-- A word of a context descriptor written; the reserved fields read as zero. -/
def cdWrite (s : State) (t w : Nat) (v : Word) : State :=
  match w with
  | 0 => contextWriteAt s t v
  | 1 => ctlSet s (cdAddr t 1) (BitVec.ofNat 64 (v.toNat / 2 ^ 19 * 2 ^ 19))
  | 3 => s
  | w => ctlSet s (cdAddr t w) v

/-- EN of a queue written (R452); a queue that starts to be scanned has its tail looked at (R187). -/
def queueEnWriteAt (s : State) (q : Nat) (v : Word) : State :=
  let was := qtEn s q
  let s1 := ctlSet s (qtAddr q 0) (((ctlGet s (qtAddr q 0)).putBits 0 0 (v.bits 0 0)).putBits 3 3 (v.bits 3 3))
  if v.bits 0 0 = 1 ∧ !was then post s1 (.queueTailChange q) else s1

/-- A WEIGHT of 0 is stored as 1. -/
def weightFix (s : State) (q : Nat) : State := if qtWeight s q = 0 then ctlPut s (qtAddr q 4) 63 61 1 else s

/-- A word of a queue entry written (R452). -/
def qtWrite (s : State) (q w : Nat) (v : Word) : State :=
  match w with
  | 0 => queueEnWriteAt s q v
  | 4 => weightFix (ctlPut s (qtAddr q 4) 63 61 (v.bits 63 61)) q
  | 5 =>
    let s1 := ctlPut s (qtAddr q 5) 6 0 (v.bits 6 0)
    weightFix (if qtEn s q then s1 else ctlPut s1 (qtAddr q 5) 31 7 (v.bits 31 7)) q
  | w => if 6 ≤ w ∧ !qtEn s q then ctlSet s (qtAddr q w) v else s

/-! ### The scanner's place in a queue (R187, R452, R453) -/

def qsOf (s : State) (q : Nat) : QSched :=
  (s.wk.qs.find? (fun e => e.queue = q)).getD
    { queue := q, raised := false, raisedFor := none, head := 0, tailPa := none, statusPa := none, reading := false }
def setQs (s : State) (e : QSched) : State :=
  { s with wk := { s.wk with qs := e :: s.wk.qs.filter (fun x => x.queue != e.queue) } }

/-- Whether a write of the device to a word is not performed yet: on its way, held at its home, held for the log (R439), or on its way to
another device. -/
def writeDue (s : State) (pa : Nat) : Bool :=
  s.coh.posted.any (fun p => p.core == 2048 && p.pa == pa) || s.agenda.any (isWriteTo (lineOf pa)) || ((dirOf s (lineOf pa)).busy.toList ++ (dirOf s (lineOf pa)).queue).any Held.isWrite ||
    s.rep.held.any (fun h => match h.eff with | .write p _ => p == pa | _ => false)

/-- Whether the scanner has still to write STATUS in the record that it took last (R187). -/
def statusDue (s : State) (q : Nat) : Bool := (qsOf s q).statusPa.any (writeDue s)

/-- A word of a queue entry read: BUSY while the scanner reads a record (R452). Until STATUS is written in the record taken last, the scanner
is still at that record, and HEAD names it. -/
def qtRead (s : State) (q w : Nat) : Word :=
  let v := ctlGet s (qtAddr q w)
  if w = 0 then (if statusDue s q || (qsOf s q).reading then v.putBits 1 1 1 else v)
  else if !statusDue s q then v
  else match w with
    | 5 => v.putBits 63 32 ((v.bits 63 32 + 2 ^ 32 - 1) % 2 ^ 32)
    | _ => v

/-! ### Windows of virtual functions (R450, R451) -/

def vfRead (s : State) (v off : Nat) : Word :=
  if 0x100 ≤ off ∧ off < 0x120 ∧ !vfFab s v then 0 else ctlGet s (vfAddr v off)

def vfWrite (s : State) (v off : Nat) (x : Word) (pf : Bool) : State :=
  match off with
  | 0x00 => if pf then ctlSet s (vfAddr v 0) (x &&& 0x1f03#64) else s
  | 0x08 => if pf then ctlSet s (vfAddr v 8) (x &&& 0x1ffff0000ffff#64) else s
  | 0x10 => ctlSet s (vfAddr v 0x10) (ctlGet s (vfAddr v 0x10) &&& ~~~x)
  | 0x18 => ctlSet s (vfAddr v 0x18) (x &&& 0x7f#64)
  | _ => s

def vfHole (off : Nat) : Bool :=
  !(off < 0x20 || (0x100 ≤ off && off < 0x120) || (0x200 ≤ off && off < 0x240))

/-! ### Debug modules (R417, R418, R420) -/

def dmHole (off : Nat) : Bool :=
  !(off < 0xb0 || (0x100 ≤ off && off < 0x1c8) || off == 0x200 || off == 0x208)

def clusterHalted (s : State) (cl : Nat) : Bool := s.dbg.halted.contains cl

/-- The thread that DTSEL selects. -/
def dtThread (s : State) (cl : Nat) : Option Thread :=
  let sel := ctlGet s (dmAddr cl 0x200)
  (threads s).find? (fun t => t.status ≠ .vacant ∧ t.core = cl * 4 + sel.bits 9 8 ∧ t.slot = sel.bits 7 0)

def dtItem (s : State) (cl : Nat) : Nat := (ctlGet s (dmAddr cl 0x200)).bits 27 16

/-- The selected item, none where unassigned (R418). No result of this model is ever pending between steps. -/
def dtValue (s : State) (t : Thread) (item : Nat) : Option Word :=
  if item < 16 then some (qReg t.a item).val
  else if item < 0x3c then some (nReg t.a (item - 16)).val
  else if item = 0x3c then some t.a.pc
  else if item = 0x3d then some 0
  else if 0x400 ≤ item ∧ csrAssigned (item - 0x400) then some (csrRead s t (item - 0x400))
  else none

/-- The selected item of a thread set. -/
def dtSet (s : State) (t : Thread) (item : Nat) (v : Word) : State :=
  if item < 16 then updThread s t.uid (fun t => { t with a := { t.a with q := t.a.q.set item (Reg.of v) } })
  else if item < 0x3c then updThread s t.uid (fun t => { t with a := { t.a with n := t.a.n.set (item - 16) (Reg.of v) } })
  else if item = 0x3c then updThread s t.uid (fun t => { t with a := { t.a with pc := v &&& ~~~3#64 } })
  else if item = 0x3d then s
  else csrWrite s t (item - 0x400) v false

/-- A thread's start state with the selected item set in it. -/
def dtStart (s : State) (t : Thread) (item : Nat) (v : Word) : Arch :=
  let s1 := dtSet (updThread s t.uid (fun t => { t with a := t.chunk.start })) { t with a := t.chunk.start } item v
  ((findThread s1 t.uid).map (fun t => t.a)).getD t.chunk.start

/-- The selected item set as though at the chunk start (R418, R420): in the start state, which a squash restores, and in the thread. -/
def dtPut (s : State) (t : Thread) (item : Nat) (v : Word) : State :=
  updThread (dtSet s t item v) t.uid (fun u => { u with chunk := { u.chunk with start := dtStart s t item v } })

/-- An access to DTDATA (R418): refused, with DSTAT.ERR set, when the cluster is not halted, the slot holds no thread, or the item is
unassigned. -/
def dtdataAt (s : State) (cl : Nat) (write : Option Word) : Word × State :=
  let refused : Word × State := (0, ctlPut s (dmAddr cl 0x88) 3 3 1)
  if !clusterHalted s cl then refused
  else match dtThread s cl with
    | none => refused
    | some t =>
      match dtValue s t (dtItem s cl) with
      | none => refused
      | some v =>
        match write with
        | none => (v, tickFree s)
        | some x => (0, tickFree (dtPut s t (dtItem s cl) x))

/-- A comparator's control as stored (R417). -/
def dcmpcStored (v : Word) : Word :=
  let w := v &&& 0xfff000000000fe70#64
  let w1 := if 56 < v.bits 15 10 then w.putBits 15 10 56 else w
  if v.bits 8 7 = 3 then w1.putBits 8 7 0 else w1.putBits 8 7 (v.bits 8 7)

/-- A register of a debug module read; DCYCLE is a count of cycles and a free value. -/
def dmRead (s : State) (cl off : Nat) : Word × State :=
  if off = 0x208 then dtdataAt s cl none
  else if off = 0xa0 then (freeWord s, tickFree s)
  else if off = 0x90 ∨ off = 0x80 then (if off = 0x80 then 0 else ctlGet s (dmAddr cl off), s)
  else (ctlGet s (dmAddr cl off), s)

/-- A trace area drained to its ring in HBM while the ring has room (R418, R423). A TRSIZEa of 1 to 11 or 31, which R418 does not list, counts
as log2 of the size like any other (notes/assumptions/87.md). -/
def traceDrain (s : State) (cl area : Nat) : State :=
  let lg := (ctlGet s (dmAddr cl (0x108 + 0x20 * area))).bits 4 0
  let base := (ctlGet s (dmAddr cl (0x100 + 0x20 * area))).toNat
  let head := (ctlGet s (dmAddr cl (0x110 + 0x20 * area))).toNat
  let tail := (ctlGet s (dmAddr cl (0x118 + 0x20 * area))).toNat
  let all := (s.dbg.trace.filter (fun e => e.1 = cl ∧ e.2.1 = area)).map (fun e => e.2.2.2)
  let n := min (if lg = 0 then 0 else 2 ^ lg - (head - tail)) all.length
  let s1 := (all.take n).zipIdx.foldl (fun s e => homeWriteOrPost s (base + (head + e.2) % 2 ^ lg) [some e.1] (engineClock cl)) s
  let kept := ((all.drop n).zipIdx).map (fun e => (cl, area, e.2, e.1))
  ctlSet { s1 with dbg := { s1.dbg with trace := s1.dbg.trace.filter (fun e => !(e.1 == cl && e.2.1 == area)) ++ kept } }
    (dmAddr cl (0x110 + 0x20 * area)) (BitVec.ofNat 64 (head + n))

/-- A write of TRBASEa: TRHEADa counts from there, and the area drains to the new ring (R418). -/
def trbaseWriteAt (s : State) (cl a : Nat) (v : Word) : State :=
  traceDrain (ctlSet (ctlSet s (dmAddr cl (0x100 + 0x20 * a)) v) (dmAddr cl (0x110 + 0x20 * a)) 0) cl a

/-- A register of a debug module written. -/
def dmWrite (s : State) (cl off : Nat) (v : Word) : State :=
  let at_ := dmAddr cl off
  if off < 0x40 then ctlSet s at_ (v &&& 0x01ffffffffffffff#64)
  else if off < 0x80 then ctlSet s at_ (dcmpcStored v)
  else if off = 0x80 then
    let s1 := if v.bits 0 0 = 1 then post s (.dctlHalt cl) else s
    if v.bits 1 1 = 1 then post s1 (.dctlRel cl) else s1
  else if off = 0x88 then ctlSet s at_ (ctlGet s at_ &&& ~~~(v &&& 0xc#64))
  else if off = 0x90 then ctlSet s at_ (v &&& 3#64)
  else if off = 0x98 then
    ctlSet s at_ (if 10 ≤ v.bits 4 0 ∧ v.bits 4 0 ≤ 24 then v &&& 0x1f#64 else 0)
  else if off = 0xa0 then s
  else if off = 0xa8 then (if v = 0 then ctlSet s at_ 0 else s)
  else if off < 0x1a0 then
    let a := (off - 0x100) / 0x20
    match off % 0x20 with
    | 0x00 => trbaseWriteAt s cl a v
    | 0x08 => traceDrain (ctlSet s at_ (v &&& 0x1f#64)) cl a
    | 0x10 => s
    | _ => traceDrain (ctlSet s at_ v) cl a
  else if off < 0x1c8 then (if v = 0 then ctlSet s at_ 0 else s)
  else if off = 0x200 then ctlSet s at_ (v &&& 0xfff03ff#64)
  else (dtdataAt s cl (some v)).2

/-! ### Counters (R447, R457) -/

def cntHole (off : Nat) : Bool :=
  !(off < 0x2050 || (0x2100 ≤ off && off < 0x2240) || (0x2300 ≤ off && off < 0x2340))

/-- Whether a memory or recovery counter is one of a partition's (R447). Which routers carry a partition's traffic the spec does not say: here
those of its dies, and both I/O dies' (notes/assumptions/87.md). -/
def cntMine (s : State) (p off : Nat) : Bool :=
  if off < 0x2000 then dieInPart s p (off / 0x20 / 32)
  else if off < 0x2050 then (let r := (off - 0x2000) / 8; 8 ≤ r || dieInPart s p r)
  else if off < 0x2200 then bitAt (pdStacks s p) ((off - 0x2100) / 0x10)
  else dieInPart s p (off % 0x100 / 8)

/-- A write to a counter: zero clears, any other value is ignored (R447). -/
def counterClearAt (s : State) (addr : Nat) (v : Word) : State := if v = 0 then ctlSet s addr 0 else s

/-! ### The whole of control space (R444) -/

/-- What lies at an offset of control space. -/
inductive CtlBlock where
  | part (p off : Nat)
  | ctx (t w : Nat)
  | queue (q w : Nat)
  | vf (v off : Nat)
  | debug (cl off : Nat)
  | sil (die off : Nat)
  | link (l w : Nat)
  | counters (off : Nat)
  | hole
  deriving DecidableEq, Repr

def ctlBlock (off : Nat) : CtlBlock :=
  if off % 8 ≠ 0 then .hole
  else if off < 0x14000 then
    let o := off % 0x1000
    if o < 0x80 ∨ (0x400 ≤ o ∧ o < 0x428) ∨ (0x800 ≤ o ∧ o < 0x900) ∨ 0xc00 ≤ o then .part (off / 0x1000) o else .hole
  else if 0x40000 ≤ off ∧ off < 0x80000 then .ctx ((off - 0x40000) / 0x40) (off % 0x40 / 8)
  else if 0x100000 ≤ off ∧ off < 0x500000 then .queue ((off - 0x100000) / 0x40) (off % 0x40 / 8)
  else if 0x1000000 ≤ off ∧ off < 0x2000000 then
    if vfHole (off % 0x10000) then .hole else .vf ((off - 0x1000000) / 0x10000) (off % 0x10000)
  else if 0x2000000 ≤ off ∧ off < 0x2200000 then
    if dmHole (off % 0x1000) then .hole else .debug ((off - 0x2000000) / 0x1000) (off % 0x1000)
  else if 0x3000000 ≤ off ∧ off < 0x3800000 then
    if silHole (off % 0x100000) then .hole else .sil ((off - 0x3000000) / 0x100000) (off % 0x100000)
  else if 0x3800000 ≤ off ∧ off < 0x3801000 then
    if off % 0x100 < 0x30 then .link ((off - 0x3800000) / 0x100) (off % 0x100 / 8) else .hole
  else if 0x3900000 ≤ off ∧ off < 0x3910000 then
    if cntHole (off - 0x3900000) then .hole else .counters (off - 0x3900000)
  else .hole

/-! ### Partition descriptors (R445, R446, R448) -/

/-- Whether a descriptor with V = 1 is refused (R446). -/
def partRefused (s : State) (p : Nat) (w0 : Word) : Bool :=
  pdQuarters s p == 0 ||
    (List.range 20).any (fun q => q != p && pdValid s q &&
      (pdQuarters s p &&& pdQuarters s q != 0 || pdStacks s p &&& pdStacks s q != 0 || pdLinks s p &&& pdLinks s q != 0 ||
        pdDevnum s q != w0.bits 41 32))

/-- What creating partition `p` makes of a register that a map gives a reset value (R10): its own counters, RSDONE and route table, the debug
modules of its clusters, the Sillage of a die of which no other partition has a part, and the windows of its functions, its contexts and
their queues; fields whose map has a dash stay. None where it is at its reset value. -/
def ctlCreated (s : State) (p : Nat) (e : Nat × Word) : Option (Nat × Word) :=
  let mine (cl : Nat) : Bool := bitAt (pdQuarters s p) (cl / 16)
  match ctlBlock e.1 with
  | .part q o => if q = p ∧ 0x50 ≤ o then none else some e
  | .debug cl _ => if mine cl then none else some e
  | .sil die _ =>
    if bits (pdQuarters s p) (4 * die + 3) (4 * die) ≠ 0 ∧ (List.range 20).all (fun q => q == p || !dieInPart s q die) then none else some e
  | .vf v _ => if vfPart s v = p then none else some e
  | .ctx t w => if cdPart s t = p ∧ (w = 0 ∨ w = 2) then none else some e
  | .queue q w =>
    if cdPart s (qtCtx s q) ≠ p then some e
    else if w = 0 ∨ w = 4 then none
    else if w = 5 then (if e.2 &&& 0xffffff80#64 = 0 then none else some (e.1, e.2 &&& 0xffffff80#64))
    else some e
  | _ => some e

/-- Registers after the creation of a partition (R10), and what its debug modules hold. -/
def createReset (s : State) (p : Nat) : State :=
  let mine (cl : Nat) : Bool := bitAt (pdQuarters s p) (cl / 16)
  { s with
    sys := { s.sys with ctl := s.sys.ctl.filterMap (ctlCreated s p) }
    vw := { s.vw with spillUsed := Assoc.erase s.vw.spillUsed p }
    dbg := { s.dbg with
      halted := s.dbg.halted.filter (fun c => !mine c), traceOff := s.dbg.traceOff.filter (fun c => !mine c)
      trace := s.dbg.trace.filter (fun e => !mine e.1), sampleReq := s.dbg.sampleReq.filter (fun c => !mine (clusterOf c))
      skipped := s.dbg.skipped.filter (fun e => !mine (clusterOf e.1))
      tstate := s.dbg.tstate.filter (fun e => !mine (clusterOf e.1)) } }

/-- A write of word 0 of a descriptor with V = 0 by the physical function: with V = 1 the partition is created in stopped state, or
refused (R445, R446, R448); its registers are at their reset values (R10), and the clusters' incarnations are 0 (R95). -/
def partitionCreateAt (s : State) (p : Nat) (v : Word) : State :=
  if pdValid s p then s
  else
    let w : Word := BitVec.ofNat 64 (v.bits 41 32 * 2 ^ 32 + v.bits 8 8 * 2 ^ 8)
    if v.bits 0 0 = 1 then
      if partRefused s p w then ctlPut s (pdAddr p 0) 0 0 0
      else
        let s1 := ctlSet (createReset s p) (pdAddr p 0) (w.putBits 0 0 1)
        let new (cl : Nat) : Bool := bitAt (pdQuarters s1 p) (cl / 16)
        { s1 with
          coh := { s1.coh with inc := s1.coh.inc.filter (fun e => !new e.1) }
          sys := { s1.sys with
            loaded := s1.sys.loaded.erase p
            removed := s1.sys.removed.filter (fun x => !new (if 2048 ≤ x then x - 2048 else clusterOf x))
            redirect := s1.sys.redirect.filter (fun e => !new (clusterOf e.1)) } }
    else ctlSet s (pdAddr p 0) w

/-- Threads of a partition marked for eviction; waiting ones are evicted at once (R448, R214). -/
def markThreads (s : State) (which : Thread → Bool) : State :=
  (threads s).foldl (fun s t =>
    if t.status ≠ .vacant ∧ which t then post (updThread s t.uid (fun t => { t with marked := true })) (.threadEviction t.uid)
    else s) s

/-- PSTATE of the functions of a partition, and the manager's interrupt (R451, R446). -/
def stateInterrupt (s : State) (p : Nat) : State :=
  let s1 := (List.range 256).foldl (fun s v => if vfOfPart s p v then vfInterrupt s v 5 else s) s
  emit s1 p (.pfInterrupt 5)

/-- STATE set; load state is remembered until run state (R448). -/
def setPdState (s : State) (p st : Nat) : State :=
  let loaded := match st with
    | 1 => s.sys.loaded.erase p
    | 2 => if s.sys.loaded.contains p then s.sys.loaded else p :: s.sys.loaded
    | _ => s.sys.loaded
  ctlPut { s with sys := { s.sys with loaded := loaded } } (pdAddr p 0) 3 2 st

/-- Whether a line lies in the weight store of a die of a partition. -/
def weightLineOf (s : State) (p line : Nat) : Bool :=
  isLocal s line && (match region (paLocal line) with
    | .weight d => dieInPart s p d
    | _ => false)

/-- W-class lines dropped (R73): those that the L1s of a partition's cores hold, and those of its dies in every L1 and L2 slice. -/
def dropWLines (s : State) (p : Nat) : State :=
  { s with coh := { s.coh with
      l1 := s.coh.l1.filter (fun l => !(l.cls == .W && (inPart s p (clusterOf l.core) || weightLineOf s p l.line)))
      tags := s.coh.tags.filter (fun e => !weightLineOf s p e.1) } }

/-- Every queue enabled in a partition is scanned and its clusters look for work again (R448). -/
def rescan (s : State) (p : Nat) : State :=
  postAll (postAll s (((List.range 512).filter (fun c => inPart s p c)).map Event.rangeRequest)) ((s.sys.ctl.filterMap (fun e =>
    if 0x100000 ≤ e.1 ∧ e.1 < 0x500000 ∧ e.1 % 0x40 = 0 then
      let q := (e.1 - 0x100000) / 0x40
      if qtEn s q && cdPart s (qtCtx s q) == p then some (Event.queueTailChange q) else none
    else none)))

/-- A write of STATE (R446, R448). Leaving run state takes the steps that STATE_TRANSITION_COMPLETE ends; the other transitions take
effect at once. -/
def stateWriteAt (s : State) (p req : Nat) : State :=
  let cur := pdState s p
  if !pdValid s p ∨ cur = 3 ∨ req = 3 ∨ req = cur then s
  else if cur = 1 then
    let s1 := setPdState s p 3
    let s2 : State := { s1 with sys := { s1.sys with
      transitions := (p, if req = 2 then .toLoad else .toStopped) :: s1.sys.transitions.filter (fun t => t.1 ≠ p) } }
    post (markThreads s2 (fun t => t.part == p)) (.stateTransitionComplete p)
  else if req = 1 then rescan (stateInterrupt (setPdState (if s.sys.loaded.contains p then dropWLines s p else s) p 1) p) p
  else stateInterrupt (setPdState s p req) p

/-- A word of a partition descriptor written by the physical function or the partition's supervisor (R445). -/
def pdWrite (s : State) (p w : Nat) (v : Word) (pf : Bool) : State :=
  let free := pf && !pdValid s p
  match w with
  | 0 => if free then partitionCreateAt s p v else stateWriteAt s p (v.bits 3 2)
  | 7 =>
    let old := ctlGet s (pdAddr p 7)
    let ck := if 5 ≤ v.bits 9 0 ∧ v.bits 9 0 ≤ 1000 then v.bits 9 0 else 50
    ctlSet s (pdAddr p 7) (BitVec.ofNat 64 (ck + (if free then v.bits 25 16 else old.bits 25 16) * 2 ^ 16))
  | 8 =>
    let old := ctlGet s (pdAddr p 8)
    ctlSet s (pdAddr p 8) (BitVec.ofNat 64 (v.bits 31 0 + (if free then v.bits 63 32 else old.bits 63 32) * 2 ^ 32))
  | 9 =>
    if pdValid s p then post (ctlPut (ctlSet s (pdAddr p 9) v) (pdAddr p 10) 0 0 0) (.rsmapWrite p v (Config.successorMap v.toNat))
    else ctlSet s (pdAddr p 9) v
  | w => if free ∧ w < 7 then ctlSet s (pdAddr p w) v else s

/-! ### Rights -/

/-- What a function may do with a register: refused, reads zero and ignores writes, or reaches it. -/
inductive Right where
  | refused
  | zero
  | reach
  deriving DecidableEq, Repr

/-- The rights of R416, R428, R443-R447, R450, R476. Before boot and in recovery state nothing answers (R461). -/
def ctlRight (s : State) (fn : HostFn) (b : CtlBlock) : Right :=
  if s.sys.boot ≠ .booted then .refused
  else match fn, b with
    | _, .hole => .refused
    | .pf, _ => .reach
    | .vf v, .vf v' _ => if v = v' then .reach else .refused
    | .vf _, _ => .refused
    | .supervisor p, .part p' o =>
      if p = p' ∧ pdValid s p then .reach else if 0x400 ≤ o ∧ o < 0x428 then .zero else .refused
    | .supervisor p, .debug cl _ => if inPart s p cl then .reach else .refused
    | .supervisor p, .sil die off => if !dieInPart s p die then .refused else if silOwned s p die off then .reach else .zero
    | .supervisor p, .counters off => if cntMine s p off then .reach else .zero
    -- R457 lets a supervisor read its links' counters, which R444 does not list (notes/assumptions/25.md)
    | .supervisor p, .link l _ => if bitAt (pdLinks s p) l then .reach else .zero
    | .supervisor _, _ => .refused

/-- The value of a register reached, with the state after the read. -/
def ctlLoad (s : State) (off : Nat) (b : CtlBlock) : Word × State :=
  match b with
  | .part p o =>
    if 0xc00 ≤ o then (routeRead s p o, s)
    else if 0x800 ≤ o then (capWord s p ((o - 0x800) / 8), s)
    else if o = 0x410 then (BitVec.ofNat 64 (Assoc.getD s.vw.spillUsed p 0), s)
    else (ctlGet s off, s)
  | .queue q w => (qtRead s q w, s)
  | .vf v o => (vfRead s v o, s)
  | .debug cl o => dmRead s cl o
  | .sil die o => (silRead s die o, s)
  | _ => (ctlGet s off, s)

/-- A register reached and written. -/
def ctlStore (s : State) (pf : Bool) (off : Nat) (b : CtlBlock) (v : Word) : State :=
  match b with
  | .part p o =>
    if 0xc00 ≤ o then (if pf then routeWriteAt s p o v else s)
    else if 0x800 ≤ o then s
    else if 0x400 ≤ o then (if o = 0x410 then s else counterClearAt s off v)
    else pdWrite s p (o / 8) v pf
  | .ctx t w => cdWrite s t w v
  | .queue q w => qtWrite s q w v
  | .vf x o => vfWrite s x o v pf
  | .debug cl o => dmWrite s cl o v
  | .sil die o => silWrite s die o v
  | .link _ _ => counterClearAt s off v
  | .counters _ => counterClearAt s off v
  | .hole => s

/-- A read of control space by a function: none when refused. -/
def ctlReadAs (s : State) (fn : HostFn) (off : Nat) : Option Word × State :=
  let b := ctlBlock off
  match ctlRight s fn b with
  | .refused => (none, s)
  | .zero => (some 0, s)
  | .reach => let r := ctlLoad s off b; (some r.1, r.2)

/-- A write of control space by a function: none when refused. -/
def ctlWriteAs (s : State) (fn : HostFn) (off : Nat) (v : Word) : Option State :=
  let b := ctlBlock off
  match ctlRight s fn b with
  | .refused => none
  | .zero => some s
  | .reach => some (ctlStore s (fn == .pf) off b v)

end Sys2Proof.Machine
end

