-- ==== Sys2Proof/Machine/Real.lean ====
section
/-! DEFINITION. Real.lean: exact values of numbers, the formats of R219-R225, and rounding (R226-R232). -/

namespace Sys2Proof.Machine

/-- An exact result before rounding: a NaN, an infinity, or the number (-1)^neg × (m + δ) × 2^e with δ = 0 unless `sticky`, when
0 < δ < 1. -/
inductive Ex where
  | nan (signalling : Bool)
  | inf (neg : Bool)
  | fin (neg : Bool) (m : Nat) (e : Int) (sticky : Bool)
  deriving DecidableEq, Repr

def Ex.zero (neg : Bool) : Ex := .fin neg 0 0 false

def Ex.isNan : Ex → Bool
  | .nan _ => true
  | _ => false

def Ex.isSig : Ex → Bool
  | .nan s => s
  | _ => false

def Ex.isInf : Ex → Bool
  | .inf _ => true
  | _ => false

def Ex.isZero : Ex → Bool
  | .fin _ m _ s => m == 0 && !s
  | _ => false

/-- The sign of a number; a NaN counts as positive. -/
def Ex.neg : Ex → Bool
  | .nan _ => false
  | .inf n => n
  | .fin n _ _ _ => n

def Ex.negate : Ex → Ex
  | .nan s => .nan s
  | .inf n => .inf !n
  | .fin n m e s => .fin (!n) m e s

/-- The exact value of an integer. -/
def Ex.ofInt (i : Int) : Ex := .fin (i < 0) i.natAbs 0 false

/-- Flag bits in the layout of FPFLAGS (R236). -/
def fNV : Nat := 1
def fDZ : Nat := 2
def fOF : Nat := 4
def fUF : Nat := 8
def fNX : Nat := 16

/-- Parameters of a format: precision with the leading bit, bias, width in bits, whether it has a sign bit (R221, R224). -/
structure FInfo where
  p : Nat
  bias : Nat
  width : Nat
  signed : Bool
  deriving DecidableEq, Repr

def FF4.info : FF4 → FInfo
  | .d => { p := 53, bias := 1023, width := 64, signed := true }
  | .f => { p := 24, bias := 127, width := 32, signed := true }
  | .h => { p := 11, bias := 15, width := 16, signed := true }
  | .bf => { p := 8, bias := 127, width := 16, signed := true }

/-- Precision P of a binary8 code. -/
def B8.prec (b : B8) : Nat := b.p.val + 1

def B8.info (b : B8) : FInfo :=
  { p := B8.prec b, bias := if b.uns then 2 ^ (8 - B8.prec b) else 2 ^ (7 - B8.prec b), width := 8, signed := !b.uns }

def FFmt.info : FFmt → FInfo
  | .ieee f => FF4.info f
  | .b8 b => B8.info b

/-- Width of a format in bytes (R219). -/
def FFmt.bytes (f : FFmt) : Nat := (FFmt.info f).width / 8

/-- Exponent of the last place at the subnormal spacing. -/
def FInfo.qmin (i : FInfo) : Int := 1 - (i.bias : Int) - ((i.p : Int) - 1)

/-- Bits of the magnitude: all but the sign. -/
def FInfo.mag (i : FInfo) : Nat := if i.signed then i.width - 1 else i.width

/-- The default NaN of R221 and R225. -/
def FFmt.defaultNan : FFmt → Nat
  | .ieee .d => 0x7ff8000000000000
  | .ieee .f => 0x7fc00000
  | .ieee .h => 0x7e00
  | .ieee .bf => 0x7fc0
  | .b8 b => if b.uns then 0xff else 0x80

/-- The greatest finite magnitude code: MAXF of R225, or the largest finite of R221. -/
def FFmt.maxCode : FFmt → Nat
  | .ieee .d => 0x7fefffffffffffff
  | .ieee .f => 0x7f7fffff
  | .ieee .h => 0x7bff
  | .ieee .bf => 0x7f7f
  | .b8 b => if b.uns then (if b.fin then 0xfe else 0xfd) else (if b.fin then 0x7f else 0x7e)

/-- The code of +∞, where the format has one. -/
def FFmt.infCode : FFmt → Nat
  | .ieee .d => 0x7ff0000000000000
  | .ieee .f => 0x7f800000
  | .ieee .h => 0x7c00
  | .ieee .bf => 0x7f80
  | .b8 b => if b.uns then 0xfe else 0x7f

/-- A code with the sign set or clear. -/
def FFmt.withSign (f : FFmt) (neg : Bool) (mag : Nat) : Nat :=
  if neg && (FFmt.info f).signed then mag + 2 ^ (FFmt.info f).mag else mag

/-- The magnitude of a code read without special meanings (R221, R224): significand and exponent of its last place. -/
def FInfo.magnitude (i : FInfo) (code : Nat) : Nat × Int :=
  let t := code % 2 ^ (i.p - 1)
  let e := code / 2 ^ (i.p - 1)
  if e = 0 then (if i.p = 1 then 0 else t, i.qmin) else (2 ^ (i.p - 1) + t, i.qmin + ((e : Int) - 1))

/-- The exact value of a code (R221, R224, R225); bits above the width are ignored (R248). -/
def FFmt.decode (f : FFmt) (bits : Nat) : Ex :=
  let i := FFmt.info f
  let w := bits % 2 ^ i.width
  let neg := i.signed && bitAt w (i.width - 1)
  let mag := w % 2 ^ i.mag
  let v := i.magnitude mag
  match f with
  | .ieee _ =>
    if mag = FFmt.infCode f then .inf neg
    else if FFmt.infCode f < mag then .nan (!bitAt w (i.p - 2))
    else .fin neg v.1 v.2 false
  | .b8 b =>
    if w = FFmt.defaultNan f then .nan false
    else if !b.fin && mag = FFmt.infCode f then .inf neg
    else .fin neg v.1 v.2 false

/-- An integer format's width and sign (R219, R223). -/
def IFmt.bits : IFmt → Nat
  | .s8 => 8
  | .z8 => 8
  | .s16 => 16
  | .z16 => 16
  | .s32 => 32
  | .z32 => 32
  | .s64 => 64
  | .z64 => 64

def IFmt.isSigned : IFmt → Bool
  | .s8 => true
  | .s16 => true
  | .s32 => true
  | .s64 => true
  | _ => false

/-- The integer that the low bits of a register hold (R223). -/
def IFmt.read (f : IFmt) (bits : Nat) : Int :=
  if IFmt.isSigned f then signed (IFmt.bits f) bits else ((bits % 2 ^ IFmt.bits f : Nat) : Int)

/-! ### Rounding -/

/-- Whether a magnitude with these parts below the last place rounds away from zero: `odd` the last bit kept, `cmp` the part
dropped against one half, `exact` nothing dropped (R228). -/
def roundsUp (rm : Rm) (neg odd : Bool) (cmp : Ordering) (exact : Bool) : Bool :=
  if exact then false
  else match rm with
    | .rne => cmp == .gt || (cmp == .eq && odd)
    | .rna => cmp == .gt || cmp == .eq
    | .rtz => false
    | .rtn => neg
    | .rtp => !neg
    | .dyn => false

/-- The magnitude (m + δ) × 2^e as a multiple of 2^q: the multiple and whether it is inexact. At a precision of 1 a tie between two normal
values, whose significands are both odd, goes to the even multiple of 2^q, the greater (DESIGN CHOICE, notes/assumptions/90.md). -/
def roundAt (rm : Rm) (neg : Bool) (m : Nat) (e : Int) (sticky : Bool) (q : Int) : Nat × Bool :=
  if q ≤ e then
    let hi := m * 2 ^ (e - q).toNat
    if sticky then (if roundsUp rm neg (hi % 2 == 1) .lt false then hi + 1 else hi, true) else (hi, false)
  else
    let s := (q - e).toNat
    let hi := m / 2 ^ s
    let lo := m % 2 ^ s
    let half := 2 ^ (s - 1)
    let cmp := if lo < half then Ordering.lt else if lo = half then (if sticky then .gt else .eq) else .gt
    let exact := lo == 0 && !sticky
    (if roundsUp rm neg (hi % 2 == 1) cmp exact then hi + 1 else hi, !exact)

/-- Whether a × 2^ea > b × 2^eb. -/
def magGt (a : Nat) (ea : Int) (b : Nat) (eb : Int) : Bool :=
  if ea ≤ eb then decide (b * 2 ^ (eb - ea).toNat < a) else decide (b < a * 2 ^ (ea - eb).toNat)

/-- The last place to which a magnitude with significand m and exponent e is rounded (R229). -/
def FInfo.place (i : FInfo) (m : Nat) (e : Int) : Int :=
  max i.qmin (((m.log2 : Nat) : Int) + e - ((i.p : Int) - 1))

/-- What R229 and R230 make of a finite number before overflow is settled: the multiple, its place, inexact. -/
def FInfo.rounded (i : FInfo) (rm : Rm) (neg : Bool) (m : Nat) (e : Int) (sticky : Bool) : Nat × Int × Bool :=
  let q := i.place m e
  let r := roundAt rm neg m e sticky q
  (r.1, q, r.2)

/-- The magnitude code of a multiple of its place (subnormals and carries included). -/
def FInfo.pack (i : FInfo) (r : Nat) (q : Int) : Nat := if r = 0 then 0 else (q - i.qmin).toNat * 2 ^ (i.p - 1) + r

/-- Whether a non-zero number is tiny after rounding (R229): rounded to the precision of the format as though no exponent were
too small, its magnitude lies below the smallest normal. DEDUCED: notes/assumptions/7.md. -/
def FInfo.tiny (i : FInfo) (rm : Rm) (neg : Bool) (m : Nat) (e : Int) (sticky : Bool) : Bool :=
  let q := ((m.log2 : Nat) : Int) + e - ((i.p : Int) - 1)
  (m != 0 || sticky) && magGt (2 ^ (i.p - 1)) i.qmin (roundAt rm neg m e sticky q).1 q

/-- Flags of an in-range result: inexact, and underflow when tiny (R229). -/
def FInfo.smallFlags (i : FInfo) (rm : Rm) (neg : Bool) (m : Nat) (e : Int) (sticky inexact : Bool) : Nat :=
  if inexact then (if i.tiny rm neg m e sticky then fUF + fNX else fNX) else 0

/-- Whether overflow gives an infinity rather than the largest finite value (R229, R230). -/
def overflowsToInf (rm : Rm) (neg : Bool) : Bool :=
  match rm with
  | .rne => true
  | .rna => true
  | .rtz => false
  | .rtp => !neg
  | .rtn => neg
  | .dyn => false

/-- Rounding of R229 to an IEEE format: code and flags. -/
def roundIeee (f : FF4) (rm : Rm) (x : Ex) : Nat × Nat :=
  let fm := FFmt.ieee f
  let i := FF4.info f
  match x with
  | .nan s => (FFmt.defaultNan fm, if s then fNV else 0)
  | .inf n => (FFmt.withSign fm n (FFmt.infCode fm), 0)
  | .fin n m e s =>
    let r := i.rounded rm n m e s
    let mx := i.magnitude (FFmt.maxCode fm)
    if magGt r.1 r.2.1 mx.1 mx.2 then
      (FFmt.withSign fm n (if overflowsToInf rm n then FFmt.infCode fm else FFmt.maxCode fm), fOF + fNX)
    else (FFmt.withSign fm n (i.pack r.1 r.2.1), i.smallFlags rm n m e s r.2.2)

/-- Rounding of R230 and R231 to a binary8 format: code and flags. -/
def roundB8 (b : B8) (rm : Rm) (ov : Ovf) (x : Ex) : Nat × Nat :=
  let fm := FFmt.b8 b
  let i := B8.info b
  match x with
  | .nan s => (FFmt.defaultNan fm, if s then fNV else 0)
  | .inf n =>
    if b.uns && n then
      match ov with
      | .sat => (0, fNX)
      | .ovf => (FFmt.defaultNan fm, fNV)
    else
      match ov with
      | .sat => (FFmt.withSign fm n (FFmt.maxCode fm), fNX)
      | .ovf => if b.fin then (FFmt.defaultNan fm, fNV) else (FFmt.withSign fm n (FFmt.infCode fm), 0)
  | .fin n m e s =>
    let r := i.rounded rm n m e s
    let mx := i.magnitude (FFmt.maxCode fm)
    if r.1 = 0 then (0, i.smallFlags rm n m e s r.2.2)
    else if b.uns && n then
      match ov with
      | .sat => (0, fNX)
      | .ovf => (FFmt.defaultNan fm, fNV)
    else if magGt r.1 r.2.1 mx.1 mx.2 then
      match ov with
      | .sat => (FFmt.withSign fm n (FFmt.maxCode fm), fOF + fNX)
      | .ovf =>
        if b.fin then (FFmt.defaultNan fm, fOF + fNX)
        else (FFmt.withSign fm n (if overflowsToInf rm n then FFmt.infCode fm else FFmt.maxCode fm), fOF + fNX)
    else (FFmt.withSign fm n (i.pack r.1 r.2.1), i.smallFlags rm n m e s r.2.2)

/-- `round(x, fmt, m)` of R280: the code and the set of flags. -/
def roundTo (f : FFmt) (rm : Rm) (ov : Ovf) (x : Ex) : Nat × Nat :=
  match f with
  | .ieee g => roundIeee g rm x
  | .b8 b => roundB8 b rm ov x

/-- Conversion to an integer format (R232): the low bits and the flags. -/
def roundInt (f : IFmt) (rm : Rm) (x : Ex) : Nat × Nat :=
  let lo : Int := if IFmt.isSigned f then -((2 ^ (IFmt.bits f - 1) : Nat) : Int) else 0
  let hi : Int := if IFmt.isSigned f then ((2 ^ (IFmt.bits f - 1) : Nat) : Int) - 1 else ((2 ^ IFmt.bits f : Nat) : Int) - 1
  let low (i : Int) : Nat := (i % ((2 ^ IFmt.bits f : Nat) : Int)).toNat
  match x with
  | .nan _ => (0, fNV)
  | .inf n => (low (if n then lo else hi), fNV)
  | .fin n m e s =>
    let r := roundAt rm n m e s 0
    let v : Int := if n then -(r.1 : Int) else (r.1 : Int)
    if v < lo then (low lo, fNV) else if hi < v then (low hi, fNV) else (low v, if r.2 then fNX else 0)

/-! ### Exact arithmetic -/

/-- A result with the flags that the operation raises beyond those of its rounding. -/
structure ExF where
  x : Ex
  fl : Nat
  deriving DecidableEq, Repr

def ExF.ok (x : Ex) : ExF := { x := x, fl := 0 }
/-- An invalid operation (R233). -/
def ExF.invalid : ExF := { x := .nan false, fl := fNV }
/-- The NaN result of NaN operands: invalid when one of them signals (R233). -/
def ExF.ofNans (xs : List Ex) : ExF := { x := .nan false, fl := if xs.any Ex.isSig then fNV else 0 }

/-- The signed integer (-1)^neg × m × 2^(e - q), for q ≤ e. -/
def scaled (neg : Bool) (m : Nat) (e q : Int) : Int :=
  let v : Int := ((m * 2 ^ (e - q).toNat : Nat) : Int)
  if neg then -v else v

/-- The exact sum of two finite numbers; an exact zero of opposite signs takes the sign of R229. -/
def Ex.addFin (rm : Rm) (n1 : Bool) (m1 : Nat) (e1 : Int) (n2 : Bool) (m2 : Nat) (e2 : Int) : Ex :=
  if m1 = 0 ∧ m2 = 0 then Ex.zero (if n1 == n2 then n1 else rm == .rtn)
  else
    let q := min e1 e2
    let v := scaled n1 m1 e1 q + scaled n2 m2 e2 q
    if v = 0 then Ex.zero (rm == .rtn) else .fin (v < 0) v.natAbs q false

/-- a + b (R305). -/
def Ex.add (rm : Rm) (x y : Ex) : ExF :=
  match x, y with
  | .nan _, _ => ExF.ofNans [x, y]
  | _, .nan _ => ExF.ofNans [x, y]
  | .inf a, .inf b => if a == b then .ok (.inf a) else .invalid
  | .inf a, _ => .ok (.inf a)
  | _, .inf b => .ok (.inf b)
  | .fin a m e _, .fin b m' e' _ => .ok (Ex.addFin rm a m e b m' e')

/-- a × b (R305). -/
def Ex.mul (x y : Ex) : ExF :=
  match x, y with
  | .nan _, _ => ExF.ofNans [x, y]
  | _, .nan _ => ExF.ofNans [x, y]
  | .inf a, .inf b => .ok (.inf (a != b))
  | .inf a, .fin b m _ _ => if m = 0 then .invalid else .ok (.inf (a != b))
  | .fin a m _ _, .inf b => if m = 0 then .invalid else .ok (.inf (a != b))
  | .fin a m e _, .fin b m' e' _ => .ok (.fin (a != b) (m * m') (e + e') false)

/-- a ÷ b (R305), to more places than any format keeps. -/
def Ex.div (x y : Ex) : ExF :=
  match x, y with
  | .nan _, _ => ExF.ofNans [x, y]
  | _, .nan _ => ExF.ofNans [x, y]
  | .inf _, .inf _ => .invalid
  | .inf a, .fin b _ _ _ => .ok (.inf (a != b))
  | .fin a _ _ _, .inf b => .ok (Ex.zero (a != b))
  | .fin a m e _, .fin b m' e' _ =>
    if m' = 0 then (if m = 0 then .invalid else { x := .inf (a != b), fl := fDZ })
    else if m = 0 then .ok (Ex.zero (a != b))
    else
      let k := 64 + m'.log2
      let n := m * 2 ^ k
      .ok (.fin (a != b) (n / m') (e - e' - (k : Int)) (n % m' != 0))

/-- The integer square root by digits, most significant first; `k` digits are left. -/
def isqrtGo : Nat → Nat → Nat → Nat
  | 0, _, r => r
  | k + 1, n, r =>
    let r' := r + 2 ^ k
    isqrtGo k n (if r' * r' ≤ n then r' else r)

def isqrt (n : Nat) : Nat := isqrtGo (n.log2 / 2 + 1) n 0

/-- √a (R305). -/
def Ex.sqrt (x : Ex) : ExF :=
  match x with
  | .nan _ => ExF.ofNans [x]
  | .inf n => if n then .invalid else .ok (.inf false)
  | .fin n m e _ =>
    if m = 0 then .ok (Ex.zero n)
    else if n then .invalid
    else
      -- an even exponent with at least 64 digits below
      let k : Nat := 128 + (if e % 2 = 0 then 0 else 1)
      let v := m * 2 ^ k
      let r := isqrt v
      .ok (.fin false r ((e - (k : Int)) / 2) (r * r != v))

/-- a − b × n with n the integer nearest a ÷ b, ties to even (R305). -/
def Ex.rem (x y : Ex) : ExF :=
  match x, y with
  | .nan _, _ => ExF.ofNans [x, y]
  | _, .nan _ => ExF.ofNans [x, y]
  | .inf _, _ => .invalid
  | .fin a m e s, .inf _ => .ok (.fin a m e s)
  | .fin a m e _, .fin _ m' e' _ =>
    if m' = 0 then .invalid
    else if m = 0 then .ok (Ex.zero a)
    else
      let q := min e e'
      let u := m * 2 ^ (e - q).toNat
      let v := m' * 2 ^ (e' - q).toNat
      let n := u / v
      let r := u % v
      let up := decide (v < 2 * r) || (decide (v = 2 * r) && n % 2 == 1)
      if r = 0 then .ok (Ex.zero a)
      else if up then .ok (.fin (!a) (v - r) q false) else .ok (.fin a r q false)

/-- (±a × b) + (±c) as one exact value (R306): the product and the addend with the signs given. -/
def Ex.fma (rm : Rm) (negP negC : Bool) (x y z : Ex) : ExF :=
  let p := Ex.mul x y
  let bad := (x.isInf && y.isZero) || (x.isZero && y.isInf)
  if bad then .invalid
  else if x.isNan || y.isNan || z.isNan then ExF.ofNans [x, y, z]
  else Ex.add rm (if negP then p.x.negate else p.x) (if negC then z.negate else z)

/-- a × 2^n (R311); n beyond every format's range is cut to ±8192, which overflows or underflows alike. -/
def Ex.scalb (x : Ex) (n : Int) : ExF :=
  match x with
  | .nan _ => ExF.ofNans [x]
  | .inf s => .ok (.inf s)
  | .fin s m e t => .ok (if m = 0 then Ex.zero s else .fin s m (e + max (-8192) (min 8192 n)) t)

/-- The integral value nearest in the mode, and whether it differs (R310). -/
def Ex.rint (rm : Rm) (x : Ex) : Ex × Bool :=
  match x with
  | .nan s => (.nan s, false)
  | .inf n => (.inf n, false)
  | .fin n m e s =>
    if 0 ≤ e ∧ !s then (.fin n m e s, false)
    else
      let r := roundAt rm n m e s 0
      (.fin n r.1 0 false, r.2)

/-- Order of two numbers, neither a NaN, −0 = +0. -/
def Ex.cmp (x y : Ex) : Ordering :=
  match x, y with
  | .inf a, .inf b => if a == b then .eq else if a then .lt else .gt
  | .inf a, _ => if a then .lt else .gt
  | _, .inf b => if b then .gt else .lt
  | .fin a m e _, .fin b m' e' _ =>
    let q := min e e'
    let u := scaled a m e q
    let v := scaled b m' e' q
    if u < v then .lt else if u = v then .eq else .gt
  | _, _ => .eq

end Sys2Proof.Machine
end

