-- ==== Sys2Proof/Machine/FloatOps.lean ====
section
/-! DEFINITION. FloatOps.lean: what each floating-point operation delivers and which exceptions it raises (R226, R227, R233, R234,
R304-R317), as functions of the operand values. -/

namespace Sys2Proof.Machine

/-- A value delivered and the exceptions raised (R236 layout). -/
structure FV where
  v : Word
  fl : Nat
  deriving DecidableEq, Repr

/-- `narrow(opnd(f), fmt)` (R248, R304). -/
def fread (fm : FFmt) (w : Word) : Ex := FFmt.decode fm w.toNat

/-- Rounds an exact result once and joins its flags with those of the operation. -/
def finish (fm : FFmt) (rm : Rm) (ov : Ovf) (r : ExF) : FV :=
  let c := roundTo fm rm ov r.x
  { v := BitVec.ofNat 64 c.1, fl := r.fl ||| c.2 }

/-- A value without exceptions. -/
def FV.pure (n : Nat) : FV := { v := BitVec.ofNat 64 n, fl := 0 }

/-- The default NaN, invalid when an operand signals (R233). -/
def nanOf (fm : FFmt) (xs : List Ex) : FV :=
  { v := BitVec.ofNat 64 (FFmt.defaultNan fm), fl := if xs.any Ex.isSig then fNV else 0 }

/-- An invalid operation (R233). -/
def invalidOf (fm : FFmt) : FV := { v := BitVec.ofNat 64 (FFmt.defaultNan fm), fl := fNV }

/-- Rounding of an exact result that is already a NaN or invalid keeps only the flags of the operation. -/
def finishOr (fm : FFmt) (rm : Rm) (ov : Ovf) (r : ExF) : FV :=
  match r.x with
  | .nan _ => { v := BitVec.ofNat 64 (FFmt.defaultNan fm), fl := r.fl }
  | _ => finish fm rm ov r

def valFadd (fm : FFmt) (rm : Rm) (ov : Ovf) (a b : Word) : FV := finishOr fm rm ov (Ex.add rm (fread fm a) (fread fm b))

def valFsub (fm : FFmt) (rm : Rm) (ov : Ovf) (a b : Word) : FV :=
  finishOr fm rm ov (Ex.add rm (fread fm a) (fread fm b).negate)

def valFmul (fm : FFmt) (rm : Rm) (ov : Ovf) (a b : Word) : FV := finishOr fm rm ov (Ex.mul (fread fm a) (fread fm b))

def valFdiv (fm : FFmt) (rm : Rm) (ov : Ovf) (a b : Word) : FV := finishOr fm rm ov (Ex.div (fread fm a) (fread fm b))

def valFsqrt (fm : FFmt) (rm : Rm) (ov : Ovf) (a : Word) : FV := finishOr fm rm ov (Ex.sqrt (fread fm a))

/-- `frem`: always exact, no flag but NV (R305). A negative remainder of an unsigned binary8 format gives 0x00 (DESIGN CHOICE,
notes/assumptions/91.md). -/
def valFrem (fm : FFmt) (a b : Word) : FV :=
  let r := finishOr fm .rne .sat (Ex.rem (fread fm a) (fread fm b))
  { v := r.v, fl := r.fl &&& fNV }

/-- The fused group (R306): signs of the product and of the addend. -/
def valFused (negP negC : Bool) (fm : FFmt) (rm : Rm) (ov : Ovf) (a b c : Word) : FV :=
  finishOr fm rm ov (Ex.fma rm negP negC (fread fm a) (fread fm b) (fread fm c))

/-- Whether x comes before y with −0 before +0 (R234). -/
def minFirst (x y : Ex) : Bool :=
  match x.cmp y with
  | .lt => true
  | .gt => false
  | .eq => x.neg || !y.neg

/-- Minimum and maximum (R234): `mx` the maximum, `num` the number variant. -/
def valMinMax (mx num : Bool) (fm : FFmt) (a b : Word) : FV :=
  let x := fread fm a
  let y := fread fm b
  let w := (FFmt.info fm).width
  let pick (v : Word) : FV := { v := zext w v, fl := if x.isSig || y.isSig then fNV else 0 }
  if x.isNan && y.isNan then nanOf fm [x, y]
  else if x.isNan then (if num then pick b else nanOf fm [x, y])
  else if y.isNan then (if num then pick a else nanOf fm [x, y])
  else pick (if minFirst x y != mx then a else b)

/-- The comparison (R308). -/
def valFcmp (fm : FFmt) (c : Cmp8) (a b : Word) : FV :=
  let x := fread fm a
  let y := fread fm b
  let un := x.isNan || y.isNan
  let sig := x.isSig || y.isSig
  let o := x.cmp y
  let eq := !un && o == .eq
  let lt := !un && o == .lt
  let quiet (r : Bool) : FV := { v := Word.ofBool r, fl := if sig then fNV else 0 }
  let loud (r : Bool) : FV := { v := Word.ofBool r, fl := if un then fNV else 0 }
  match c with
  | .eq => quiet eq
  | .lt => loud lt
  | .le => loud (lt || eq)
  | .un => quiet un
  | .ne => quiet (!eq)
  | .ltq => quiet lt
  | .leq => quiet (lt || eq)
  | .eqs => loud eq

/-- Predicates of the short form among those of the long form (R308). -/
def Cmp4.toCmp8 : Cmp4 → Cmp8
  | .eq => .eq
  | .lt => .lt
  | .le => .le
  | .un => .un

/-- `fclass` (R309). -/
def valFclass (fm : FFmt) (a : Word) : FV :=
  let i := FFmt.info fm
  let mag := a.toNat % 2 ^ i.mag
  let pos := match fread fm a with
    | .nan s => if s then 8 else 9
    | .inf n => if n then 0 else 7
    | .fin n m _ _ =>
      if m = 0 then (if n then 3 else 4)
      else if mag < 2 ^ (i.p - 1) then (if n then 2 else 5) else (if n then 1 else 6)
  FV.pure (2 ^ pos)

/-- The sign operations (R309): `f` gives the new sign from those of a and b. -/
def valFsgn (f : Bool → Bool → Bool) (fm : FFmt) (a b : Word) : FV :=
  let i := FFmt.info fm
  let w := a.toNat % 2 ^ i.width
  let keep := match fm with
    | .ieee _ => false
    | .b8 _ => w == 0
  if !i.signed || (fread fm a).isNan || keep then FV.pure w
  else
    let sa := bitAt w (i.width - 1)
    let sb := bitAt b.toNat (i.width - 1)
    FV.pure (FFmt.withSign fm (f sa sb) (w % 2 ^ i.mag))

/-- `frint` (R310): the exact variant also raises NX. -/
def valFrint (exact : Bool) (fm : FFmt) (rm : Rm) (ov : Ovf) (a : Word) : FV :=
  let x := fread fm a
  if x.isInf then FV.pure (a.toNat % 2 ^ (FFmt.info fm).width)
  else
    let r := Ex.rint rm x
    let c := roundTo fm rm ov r.1
    { v := BitVec.ofNat 64 c.1, fl := c.2 ||| (if exact && r.2 then fNX else 0) }

/-- `fscalb` (R311): b is a signed 64-bit integer. -/
def valFscalb (fm : FFmt) (rm : Rm) (ov : Ovf) (a b : Word) : FV :=
  let x := fread fm a
  if x.isInf || x.isZero then FV.pure (a.toNat % 2 ^ (FFmt.info fm).width) else finishOr fm rm ov (Ex.scalb x b.toInt)

/-- `flogb` (R312). -/
def valFlogb (fm : FFmt) (a : Word) : FV :=
  match fread fm a with
  | .nan _ => { v := 0x7fffffffffffffff#64, fl := fNV }
  | .inf _ => { v := 0x7fffffffffffffff#64, fl := fNV }
  | .fin _ m e _ =>
    if m = 0 then { v := 0x8000000000000000#64, fl := fDZ }
    else { v := BitVec.ofInt 64 ((m.log2 : Int) + e), fl := 0 }

/-- The next code away from zero, where there is one (R313). -/
def awayFromZero (fm : FFmt) (mag : Nat) : Nat :=
  if mag = FFmt.infCode fm ∧ (FFmt.decode fm mag).isInf then mag
  else if mag = FFmt.maxCode fm ∧ !(FFmt.decode fm (mag + 1)).isInf then mag
  else mag + 1

/-- nextUp of a code that is no NaN, upwards when `up` (R313). -/
def nextCode (fm : FFmt) (up : Bool) (w : Nat) : Nat :=
  let i := FFmt.info fm
  let neg := i.signed && bitAt w (i.width - 1)
  let mag := w % 2 ^ i.mag
  if mag = 0 then
    (if up then 1 else if i.signed then FFmt.withSign fm true 1 else 0)
  else if neg = up then
    -- towards zero
    match fm with
    | .ieee _ => FFmt.withSign fm neg (mag - 1)
    | .b8 _ => if mag = 1 then 0 else FFmt.withSign fm neg (mag - 1)
  else FFmt.withSign fm neg (awayFromZero fm mag)

/-- `fnext` (R313). -/
def valFnext (up : Bool) (fm : FFmt) (a : Word) : FV :=
  let x := fread fm a
  if x.isNan then nanOf fm [x] else FV.pure (nextCode fm up (a.toNat % 2 ^ (FFmt.info fm).width))

/-- `fcvt` (R316). -/
def valFcvt (dst src : FFmt) (rm : Rm) (ov : Ovf) (a : Word) : FV :=
  let x := fread src a
  if dst = src then
    (if x.isSig then invalidOf dst else FV.pure (a.toNat % 2 ^ (FFmt.info src).width))
  else finish dst rm ov (.ok x)

/-- `fcvti` (R232, R316). -/
def valFcvti (dst : IFmt) (src : FFmt) (rm : Rm) (a : Word) : FV :=
  let r := roundInt dst rm (fread src a)
  { v := BitVec.ofNat 64 r.1, fl := r.2 }

/-- `icvtf` (R316). -/
def valIcvtf (dst : FFmt) (src : IFmt) (rm : Rm) (ov : Ovf) (a : Word) : FV :=
  finish dst rm ov (.ok (Ex.ofInt (IFmt.read src a.toNat)))

/-- `fpk8` (R317): b the packed doubleword, c the lane. -/
def valFpk8 (dst : B8) (src : FF4) (rm : Rm) (ov : Ovf) (a b c : Word) : FV :=
  let j := c.toNat % 8
  let r := roundB8 dst rm ov (fread (.ieee src) a)
  { v := b.putBits (8 * j + 7) (8 * j) r.1, fl := r.2 }

/-- `fupk8` (R317): b the lane. -/
def valFupk8 (dst : FF4) (src : B8) (rm : Rm) (a b : Word) : FV :=
  let j := b.toNat % 8
  finish (.ieee dst) rm .sat (.ok (FFmt.decode (.b8 src) (a.bits (8 * j + 7) (8 * j))))

/-- An element of a format page with its scale byte as an exact value (R226, R227). -/
def scaledBy (x : Ex) (s : Nat) : Ex :=
  if s = 255 then .nan false
  else match x with
    | .fin n m e t => .fin n m (e + (s : Int) - 127) t
    | y => y

/-- The exact value of an element whose format code is any of R219. -/
inductive ElFmt where
  | flt (f : FFmt)
  | int (f : IFmt)
  deriving DecidableEq, Repr

def ElFmt.bytes : ElFmt → Nat
  | .flt f => FFmt.bytes f
  | .int f => IFmt.bits f / 8

def ElFmt.decode (f : ElFmt) (bits : Nat) : Ex :=
  match f with
  | .flt g => FFmt.decode g bits
  | .int g => Ex.ofInt (IFmt.read g bits)

/-- What `ldf` delivers from an element and its scale (R227, R332): a NaN element gives the default NaN and raises no flag. -/
def valLdf (df : FF4) (f : ElFmt) (rm : Rm) (el scale : Nat) : FV :=
  finish (.ieee df) rm .sat (.ok (scaledBy (match f.decode el with | .nan _ => .nan false
                                                                   | y => y) scale))

end Sys2Proof.Machine
end

