-- ==== Sys2Proof/Machine/Xlate.lean ====
section
/-! DEFINITION. Xlate.lean: translation of virtual addresses (R15-R51): windows, walks, the checks of leaves in order, contiguity,
replica frames, permissions. -/

namespace Sys2Proof.Machine

/-- Who translates: its core, whose L1 TLB it uses (none for an engine), its cluster, partition, context tag and root, mode, virtual
function. -/
structure Who where
  core : Option Nat := none
  /-- the core whose command an engine performs: what it does counts there (R424) -/
  by_ : Option Nat := none
  cl : Nat
  part : Nat
  ctx : Nat
  root : Nat
  user : Bool
  vf : Nat
  deriving DecidableEq, Repr

/-- Why an address does not translate: a subcause of R49 with the level and PA of the entry where the walk stopped (0 for none),
or a context or granule that must come back first (R21, R79). -/
inductive XErr where
  | fault (sub level entryPa : Nat)
  | hold (w : Wait)
  deriving DecidableEq, Repr

/-- What an address reaches (R19, R22, R325). -/
inductive Target where
  /-- local or remote memory of a class -/
  | mem (cls : MemClass)
  /-- a scratchpad, through a window: its cluster -/
  | win (cl : Nat)
  | control
  deriving DecidableEq, Repr

/-- A translation: the PA, what it reaches, and the leaf's fields (R32, R38). -/
structure Xl where
  va : Nat
  pa : Nat
  tgt : Target
  leafPa : Nat
  leaf : Nat
  base : Nat
  lg : Nat
  deriving DecidableEq, Repr

/-! ### Fields of an entry (R31, R32) -/

def peV (e : Nat) : Bool := bitAt e 0
def peLeaf (e : Nat) : Bool := bitAt e 63
def peNext (e : Nat) : Nat := bits e 51 13 * 2 ^ 13
def peSframe (e : Nat) : Nat := bits e 115 76 * 2 ^ 12
def peCls (e : Nat) : MemClass :=
  match bits e 59 58 with
  | 0 => .D
  | 1 => .G
  | 2 => .U
  | _ => .W
def peFmt (e : Nat) : Nat := bits e 57 52
def peFrame (e : Nat) : Nat := bits e 51 12 * 2 ^ 12
def peBgeo (e : Nat) : Nat := bits e 11 10
def peScl (e : Nat) : Bool := bitAt e 9
def peRpl (e : Nat) : Bool := bitAt e 8
def peCont (e : Nat) : Bool := bitAt e 7
def peUs (e : Nat) : Bool := bitAt e 4
def peEx (e : Nat) : Bool := bitAt e 3
def peWr (e : Nat) : Bool := bitAt e 2
def peRd (e : Nat) : Bool := bitAt e 1

/-- A format code of R219 as an element format; none where undefined or 0. -/
def elFmt (code : Nat) : Option ElFmt :=
  match FFmt.ofCode code with
  | some f => some (.flt f)
  | none => (IFmt.ofCode code).map .int

/-- A format that may carry block scales (R220). -/
def scalable (code : Nat) : Bool := code == 3 || code == 4 || (0x20 ≤ code && code ≤ 0x3b)

/-- Log2 of the page size of a leaf at a level (R17). -/
def levelShift (lvl : Nat) : Nat := 12 + 9 * (lvl - 1)

/-- Whether a frame agrees with a class (R33 condition 6). -/
def clsPlaceOk (s : State) (p : Nat) (cls : MemClass) (wr : Bool) (frame : Nat) : Bool :=
  match cls, region (paLocal frame) with
  | .W, .weight d => dieInPart s p d && isLocal s frame && !wr
  | .W, _ => false
  | .D, .hbm _ => isLocal s frame
  | .D, .control => isLocal s frame
  | _, .hbm _ => true
  | _, .control => true
  | _, _ => false

/-- The first condition of R33 that a valid leaf at a level meets, as its subcause of R49. -/
def leafError (s : State) (p lvl e : Nat) : Option Nat :=
  let sz := levelShift lvl
  if bits e 127 116 ≠ 0 ∨ bits e 62 60 ≠ 0 ∨ peBgeo e = 3 ∨ 4 ≤ lvl then some 0x04
  else if peFrame e % 2 ^ sz ≠ 0 ∨ (peRpl e ∧ peSframe e % 2 ^ sz ≠ 0) then some 0x05
  else if (peScl e ∧ peRpl e) ∨ (peRpl e ∧ (peCls e = .D ∨ peCls e = .U)) then some 0x06
  else if (peFmt e ≠ 0 ∧ (elFmt (peFmt e)).isNone) ∨ (peFmt e = 0 ∧ (peScl e ∨ peBgeo e ≠ 0)) ∨ (peBgeo e ≠ 0 ∧ !peScl e) ∨
      (peScl e ∧ peBgeo e = 0) ∨ (peBgeo e ≠ 0 ∧ !scalable (peFmt e)) then some 0x06
  else if !peRd e ∧ peWr e then some 0x06
  else if !clsPlaceOk s p (peCls e) (peWr e) (peFrame e) then some 0x06
  else if isHole s p (peFrame e) ∨ ((peScl e ∨ peRpl e) ∧ isHole s p (peSframe e)) then some 0x05
  else none

/-- Whether a PA lies in the local HBM that the partition has (R24, R28, R69). -/
def nodeOk (s : State) (p pa : Nat) : Bool :=
  isLocal s pa && (match region (paLocal pa) with | .hbm _ => !isHole s p pa | _ => false)

/-- A walk's end: the leaf's PA, the leaf and its level, with the nodes read on the way by level; the fault (R50); or the line that its home
holds (R85). -/
inductive WalkEnd where
  | leaf (pa e lvl : Nat) (nodes : List (Nat × Nat))
  | fault (sub lvl pa : Nat)
  | held (line : Nat)
  deriving DecidableEq, Repr

/-- Whether a walker can read a line at its home now (R29, R85, R86): the home answers from its own data, or the line is reserved for this
walk. -/
def walkReads (s : State) (mine : Held → Bool) (line : Nat) : Bool :=
  reservedFor s line mine || (!lineBusy s line && sliceRoom s line && (dirOf s line).st != .O)

/-- The PA of the entry of a node at a level that maps an address. -/
def entryPa (lvl node va : Nat) : Nat := node + 16 * bits va (levelShift lvl + 8) (levelShift lvl)

/-- The lines that a walk reads from the node of a level downwards. -/
def walkLines (s : State) (w : Who) (va : Nat) : Nat → Nat → List Nat
  | 0, _ => []
  | lvl + 1, node =>
    let e := entryAt s (entryPa (lvl + 1) node va)
    if !nodeOk s w.part node then []
    else lineOf (entryPa (lvl + 1) node va) :: (if peV e && !peLeaf e then walkLines s w va lvl (peNext e) else [])

/-- A walk's own request at a home. -/
def Who.walks (w : Who) (va : Nat) : Held → Bool := Held.isWalk w.cl w.ctx va

/-- The walk from the node of a level downwards (R27-R33, R50); entries are read at their homes (R29). `seen` is the nodes read before. -/
def walk (s : State) (w : Who) (va : Nat) : Nat → Nat → List (Nat × Nat) → WalkEnd
  | 0, _, _ => .fault 0x04 1 0
  | lvl + 1, node, seen =>
    let pa := entryPa (lvl + 1) node va
    if !nodeOk s w.part node then .fault 0x05 0 0
    else if !walkReads s (w.walks va) (lineOf pa) then .held (lineOf pa)
    else
      let e := entryAt s pa
      if !peV e then .fault 0x01 (lvl + 1) pa
      else if peLeaf e then
        match leafError s w.part (lvl + 1) e with
        | some sub => .fault sub (lvl + 1) pa
        | none => .leaf pa e (lvl + 1) seen
      else if bits e 127 64 ≠ 0 ∨ bits e 62 52 ≠ 0 ∨ bits e 12 1 ≠ 0 ∨ lvl = 0 then .fault 0x04 (lvl + 1) pa
      else if !nodeOk s w.part (peNext e) then .fault 0x05 (lvl + 1) pa
      else walk s w va lvl (peNext e) ((lvl, peNext e) :: seen)

/-- The frame a replica translation selects (R45). -/
def replicaFrame (s : State) (p e : Nat) : Nat :=
  let f := peFrame e
  let g := peSframe e
  if !peRpl e then f
  else if isLocal s f then f
  else if isLocal s g then g
  else
    let far (x : Nat) : Nat := routeHops s p (paDev x) + (if routeLive s p (paDev x) then 0 else 16)
    if far g < far f then g else f

/-- Whether sixteen leaves of a node from an entry form a contiguous group (R36). -/
def contGroup (s : State) (leafPa : Nat) : Bool :=
  let first := leafPa / 256 * 256
  let e0 := plainEntry (entryAt s first)
  (List.range 16).all (fun i =>
    let e := plainEntry (entryAt s (first + 16 * i))
    -- the page-number bits that count up, put to those of entry 0
    let e' := putBits e 15 12 0
    let e'' := if peRpl e then putBits e' 79 76 0 else e'
    peCont e && peV e && peLeaf e && bits e 15 12 == i && (!peRpl e || bits e 79 76 == i) &&
      e'' == (if peRpl e0 then putBits (putBits e0 15 12 0) 79 76 0 else putBits e0 15 12 0))

/-- Permission and replica checks at a leaf (R46, R49, R50); an engine's write to a W-class page that is no replica is not checked for WR
(R159). -/
def permError (e : Nat) (user engine : Bool) (kind : AccKind) : Option Nat :=
  let readBad := !peRd e || (user && !peUs e)
  let wr := !peWr e && !(engine && peCls e == .W && !peRpl e)
  let writeBad : Option Nat := if wr || (user && !peUs e) then some 0x07 else if peRpl e then some 0x08 else none
  match kind with
  | .read => if readBad then some 0x07 else none
  | .sync => if readBad then some 0x07 else none
  | .fetch => if readBad then some 0x07 else none
  | .exec => if !peEx e || (user && !peUs e) then some 0x07 else none
  | .write => writeBad
  | .rmw => if readBad then some 0x07 else writeBad

/-- The allocation of a context on a cluster (R63). -/
def allocOf (s : State) (cl ctx : Nat) : Option Alloc := s.wk.allocs.find? (fun a => a.cl = cl ∧ a.ctx = ctx)

/-- A byte of a context's scratchpad on a cluster: its physical offset, once its granule is present (R63, R79). -/
def scratchAt (s : State) (cl ctx off : Nat) : Except XErr Nat :=
  match allocOf s cl ctx with
  | none => .error (.fault 0x07 0 0)
  | some a =>
    if a.size * 0x4000 ≤ off then .error (.fault 0x07 0 0)
    else if !a.resident then .error (.hold (.context cl ctx))
    else match Assoc.get a.present (off / 0x4000) with
      | some g => .ok (scratchPa cl (g * 0x4000 + off % 0x4000))
      | none => .error (.hold (.granule cl ctx (off / 0x4000)))

/-- A window address: cluster and offset (R19), none for a hole. -/
def windowOf (cl va : Nat) : Option (Nat × Nat) :=
  let o := va - 0x1fe000000000000
  let w := va - 0x1ff000000000000
  if va < 0x1ff000000000000 then (if o < scratchBytes then some (cl, o) else none)
  else if w < 0x40000000 ∧ w % 0x200000 < scratchBytes then some (w / 0x200000, w % 0x200000)
  else none

/-- Whether a VA lies in the window region (R18). -/
def isWindow (va : Nat) : Bool := va / 2 ^ 49 == 0xff

def localPa (s : State) (p : Nat) : Nat := ownDev s * 2 ^ 42 + p

/-- Translation of a window access (R18-R21). -/
def xlateWindow (s : State) (w : Who) (va : Nat) : Except XErr Xl :=
  match windowOf w.cl va with
  | none => .error (.fault 0x02 0 0)
  | some (cl, off) =>
    if cl ≠ w.cl ∧ !inPart s w.part cl then .error (.fault 0x07 0 0)
    else match scratchAt s cl w.ctx off with
      | .error e => .error e
      | .ok p => .ok { va := va, pa := localPa s p, tgt := .win cl, leafPa := 0, leaf := 0, base := va / 4096 * 4096, lg := 12 }

/-- Whether a VA is canonical for the partition's walks (R15, R16). -/
def canonical (s : State) (p va : Nat) : Bool := va < 2 ^ 57 && (pdWalk5 s p || va < 2 ^ 48 || isWindow va)

/-- The translation that the cluster's L2 TLB holds (R26, R38). -/
def tlbFind (s : State) (w : Who) (va : Nat) : Option Tlb :=
  s.mem.tlb.find? (fun t => t.cl = w.cl ∧ t.ctx = w.ctx ∧ t.base = va / 2 ^ t.lg * 2 ^ t.lg)

/-- The translation that the core's L1 TLB holds (R26, R38). -/
def l1TlbFind (s : State) (w : Who) (va : Nat) : Option Tlb :=
  (s.mem.l1tlb.find? (fun e => some e.1 = w.core ∧ e.2.ctx = w.ctx ∧ e.2.base = va / 2 ^ e.2.lg * 2 ^ e.2.lg)).map (fun e => e.2)

/-- An entry put into a table of `room` entries of its owner: a full one loses an entry of the device's choice (R38). -/
def tablePut {α : Type} [DecidableEq α] (l : List α) (mine : α → Bool) (room pick : Nat) (x : α) : List α :=
  let ms := l.filter mine
  if ms.length < room then x :: l
  else match ms[pick % max 1 ms.length]? with
    | some v => x :: l.erase v
    | none => x :: l

/-- A translation put into the L1 TLB of the core that uses it (R38, R40). -/
def fillL1Tlb (s : State) (w : Who) (t : Tlb) : State :=
  match w.core with
  | none => s
  | some c =>
    { s with mem := { s.mem with l1tlb := tablePut s.mem.l1tlb (fun e => e.1 == c) 128 (freeWord s).toNat (c, t) }, free := s.free + 1 }

/-- The walk caches of the cluster's die with the nodes that a walk has read (R38). -/
def fillWalks (s : State) (w : Who) (va : Nat) (nodes : List (Nat × Nat)) : State :=
  let es : List WalkEnt := nodes.map (fun n => { die := dieOf w.cl, ctx := w.ctx, lvl := n.1, base := va / 2 ^ (12 + 9 * n.1), node := n.2 })
  { s with mem := { s.mem with wcache := (es ++ s.mem.wcache).eraseDups } }

/-- Where a walk starts: at the lowest node that the walk caches hold for the address, else at the root (R38). -/
def walkStart (s : State) (w : Who) (va : Nat) : Nat × Nat :=
  let at? (lvl : Nat) : Option (Nat × Nat) :=
    (s.mem.wcache.find? (fun e => e.die = dieOf w.cl ∧ e.ctx = w.ctx ∧ e.lvl = lvl ∧ e.base = va / 2 ^ (12 + 9 * lvl))).map (fun e => (lvl, e.node))
  ([1, 2, 3, 4].findSome? at?).getD (if pdWalk5 s w.part then 5 else 4, w.root)

/-- The context and page of a cluster's walk that a home holds. -/
def Held.walkPage (cl : Nat) : Held → Option (Nat × Nat)
  | .walk c _ ctx va _ _ _ => if c = cl then some (ctx, va / 4096) else none
  | _ => none

/-- The pending walks of a cluster (R40), on their way, waiting for a walker or held at a home: its walk requests in use. -/
def walksOf (s : State) (cl : Nat) : List (Nat × Nat) :=
  s.agenda.filterMap (fun e => match Event.inner e with | .pageWalk c _ ctx va _ _ _ => if c = cl then some (ctx, va / 4096) else none | _ => none) ++
    s.coh.dir.flatMap (fun d => d.unanswered.filterMap (Held.walkPage cl))

/-- A walk of the cluster for the same page and context is pending, or all 64 walk requests are (R40): the miss is held. -/
def walkPending (s : State) (w : Who) (va : Nat) : Bool :=
  (walksOf s w.cl).contains (w.ctx, va / 4096) || decide (64 ≤ (walksOf s w.cl).length)

/-- A translation installed after a walk reached a well-formed leaf: AC is set (R37, R38), a contiguous group maps 64 KiB (R36). -/
def install (s : State) (w : Who) (va pa e lvl : Nat) : State × Tlb :=
  let s1 := setEntryBit s pa 5
  let grp := lvl == 1 && peCont e && contGroup s pa
  let s2 := if lvl == 1 && peCont e && !grp then ctlCount s1 (pcHint w.part) 1 else s1
  let lg := if grp then 16 else levelShift lvl
  let frame := replicaFrame s w.part e
  let t : Tlb :=
    { cl := w.cl, ctx := w.ctx, base := va / 2 ^ lg * 2 ^ lg, lg := lg, leafPa := pa, leaf := e, frame := frame / 2 ^ lg * 2 ^ lg }
  ({ s2 with mem := { s2.mem with tlb := tablePut s2.mem.tlb (fun x => x.cl == w.cl) 4096 (freeWord s2).toNat t }, free := s2.free + 1 }, t)

/-- What bars an access at a well-formed leaf whose frame is selected (R46, R50, R450). -/
def leafBars (s : State) (w : Who) (engine : Bool) (kind : AccKind) (leaf frame : Nat) : Option Nat :=
  match permError leaf w.user engine kind with
  | some sub => some sub
  | none => if !isLocal s frame ∧ !vfFab s w.vf then some 0x07 else none

/-- What a translation and an access kind give (R46, R50, R450). -/
def xlateFinish (s : State) (w : Who) (va : Nat) (engine : Bool) (kind : AccKind) (t : Tlb) : Except XErr Xl :=
  match leafBars s w engine kind t.leaf t.frame with
  | some sub => .error (.fault sub ((t.lg - 12) / 9 + 1) t.leafPa)
  | none =>
    let pa := t.frame + va % 2 ^ t.lg
    .ok { va := va, pa := pa,
          tgt := (if isLocal s pa ∧ region (paLocal pa) = .control then .control else .mem (peCls t.leaf)),
          leafPa := t.leafPa, leaf := t.leaf, base := t.base, lg := t.lg }

/-- What a held translation gives. One that faults leaves the TLBs and the walk caches, so that the access after a handler's repair walks
afresh (R39). -/
def xlateHeld (s : State) (w : Who) (va : Nat) (engine : Bool) (kind : AccKind) (t : Tlb) : Except XErr Xl × State :=
  match xlateFinish s w va engine kind t with
  | .error e => (.error e, dropWalks (dropTlb s (fun x => x.ctx == t.ctx && x.leafPa == t.leafPa)) w.ctx va)
  | .ok x => (.ok x, s)

/-- An event of R424 counted on the core that translates, or whose command the engine performs. -/
def countWho (s : State) (w : Who) (code n : Nat) : State := (w.core.or w.by_).elim s (fun c => perfCount s c w.ctx w.vf code n)

/-- The core for which a walk is made; an engine's names the core of its command from 4,096 up. -/
def Who.walker (w : Who) : Option Nat := w.core.or (w.by_.map (fun c => 4096 + c))

/-- A walk has read its lines: each takes the context's tag (R64, R65), and the misses of both TLBs and the lines are counted (R424). -/
def walked (s : State) (w : Who) (va : Nat) : State :=
  let ls := walkLines s w va (walkStart s w va).1 (walkStart s w va).2
  ls.foldl (fun s l => retag s l w.ctx) (countWho (countWho (if w.core.isSome then countWho s w 0x15 1 else s) w 0x16 1) w 0x17 ls.length)

/-- The walk of a miss, with its cluster's incarnation (R95). -/
def walkEvent (s : State) (w : Who) (va : Nat) (kind : AccKind) : Event := .pageWalk w.cl w.walker w.ctx va kind w.user (incOf s w.cl)

/-- A walk that its home cannot answer at once is held there, in order of arrival (R85); a full slice makes room first. -/
def holdWalk (s : State) (w : Who) (va : Nat) (kind : AccKind) (line : Nat) : State :=
  if !sliceRoom s line then post (makeRoom s line) (walkEvent s w va kind)
  else arriveAt s line (.walk w.cl w.walker w.ctx va kind w.user (incOf s w.cl))

/-- The result of a translation with the state after it. -/
abbrev XRes := Except XErr Xl × State

/-- `xlate(va, kind)` of R280 for any agent; `engine` exempts W-class writes from WR (R159). -/
def xlateAs (s : State) (w : Who) (va : Nat) (engine : Bool) (kind : AccKind) : XRes :=
  if !canonical s w.part va then (.error (.fault 0x03 0 0), s)
  else if isWindow va then (xlateWindow s w va, s)
  else match l1TlbFind s w va, tlbFind s w va with
    | some t, _ => xlateHeld s w va engine kind t
    | none, some t => xlateHeld (fillL1Tlb (if w.core.isSome then countWho s w 0x15 1 else s) w t) w va engine kind t
    | none, none =>
      if walkPending s w va then (.error (.hold (.walk va)), s)
      else if !walkerFree s w.cl then (.error (.hold (.walk va)), post s (.awaitEntry (8192 + w.cl) (walkEvent s w va kind)))
      else match walk s w va (walkStart s w va).1 (walkStart s w va).2 [] with
      | .fault sub lvl pa => (.error (.fault sub lvl pa), dropWalks (walked s w va) w.ctx va)
      | .held line => (.error (.hold (.walk va)), holdWalk s w va kind line)
      | .leaf pa e lvl nodes =>
        -- a walk that reaches a well-formed leaf is checked before it installs, and a fault leaves no trace (R39, R50)
        match leafBars s w engine kind e (replicaFrame s w.part e) with
        | some sub => (.error (.fault sub lvl pa), dropWalks (walked s w va) w.ctx va)
        | none =>
          let r := install (fillWalks (walked s w va) w va nodes) w va pa e lvl
          xlateHeld (fillL1Tlb r.1 w r.2) w va engine kind r.2

/-- The context under which a thread translates (R25). -/
def whoOf (t : Thread) : Who :=
  { core := some t.core, cl := clusterOf t.core, part := t.part, ctx := t.xlctx.bits 63 52, root := t.xlctx.bits 51 13 * 2 ^ 13, user := !t.a.sup,
    vf := t.vf }

end Sys2Proof.Machine
end

