-- ==== Sys2Proof/Machine/Access.lean ====
section
/-! DEFINITION. Access.lean: the accesses of the front thread to memory (R104, R107, R108, R115, R118, R140-R147, R280, R324, R325):
reads and writes by class, in the chunk or as singletons. -/

namespace Sys2Proof.Machine

/-- Why an instruction is not performed now. -/
inductive Stop where
  /-- it raises a trap (R390) -/
  | trap (t : Trap)
  /-- it waits; performed again when its condition may hold (R210, R407) -/
  | wait (w : Wait)
  /-- the chunk ends before it, and it is performed as a singleton (R103, R104) -/
  | cut
  /-- the chunk ends before it for want of room in the L1 or the window store buffer (R102, R106) -/
  | overflow
  deriving DecidableEq, Repr

/-- What the front thread's instruction does: a new state and a value, or a stop with the state reached. -/
abbrev M := EStateM Stop State

/-- A trap with its information words; TINFO3 is the instruction's words (R401). -/
def trapOf (s : State) (cause sub : Nat) (i0 i1 i2 : Word) : Trap :=
  { cause := cause, sub := sub, usub := 0, i0 := i0, i1 := i1, i2 := i2, i3 := BitVec.ofNat 64 s.th.words }

def trapM {α : Type} (cause sub : Nat) (i0 i1 i2 : Word) : M α := do
  let s ← get
  throw (.trap (trapOf s cause sub i0 i1 i2))

/-- Misuse (R399): TINFO0 is the operand value that failed the check. -/
def misuse {α : Type} (sub : Nat) (v : Word) : M α := trapM 0x0d sub v 0 0

/-- View-external (R147, R401): TINFO0 is the VA for subcause 1. -/
def external {α : Type} (sub : Nat) (va : Word) : M α := trapM 0x08 sub va 0 0

def kindCode : AccKind → Nat
  | .read => 0
  | .write => 1
  | .rmw => 2
  | .exec => 3
  | .sync => 4
  | .fetch => 5

/-- An access descriptor (R400). -/
def accDesc (kind : AccKind) (lsize level : Nat) : Word := BitVec.ofNat 64 (kindCode kind + lsize * 2 ^ 3 + level * 2 ^ 8)

/-- `check_align` of R280 (R324): the alignment trap. -/
def checkAlign (va : Word) (kind : AccKind) (lsize : Nat) : M Unit :=
  if va.toNat % 2 ^ lsize ≠ 0 then trapM 0x06 0x01 va (accDesc kind lsize 0) 0 else pure ()

/-- The instruction is one of R103 or its access one of R104: it is performed between chunks. -/
def needSingle : M Unit := do
  let s ← get
  if s.th.boundary then pure () else throw .cut

/-- Size code of a translation in an event (R429). -/
def sizeCode (lg : Nat) : Word := if lg = 12 then 0 else if lg = 16 then 1 else if lg = 21 then 2 else 3

/-- A translation used by the front thread is kept for `tlbinv` (R43); one that its L1 TLB did not hold is an L1 TLB miss (R429): its cycles,
the entries read and whether the walk was shared are free values. -/
def noteXlate (s s' : State) (va : Word) (x : Xl) : State :=
  let s1 : State := { s' with th := { s'.th with chunk := { s'.th.chunk with used := (ctxOf s'.th, x.base, x.lg) :: s'.th.chunk.used } } }
  if (l1TlbFind s (whoOf s.th) va.toNat).isNone ∧ !isWindow va.toNat then
    silOfThread s1 s1.th 3 [va, sizeCode x.lg, freeNext s1 2, freeNext s1 3, (freeNext s1 4 &&& 1)]
  else s1

/-- A translation under the permissions of `kind`, reported as an access of kind `rep` (R49, R400); translations used are kept for
`tlbinv` (R43). -/
def xlateRep (va : Word) (kind rep : AccKind) (lsize : Nat) : M Xl := do
  let s ← get
  match xlateAs s (whoOf s.th) va.toNat false kind with
  | (.ok x, s') =>
    set (noteXlate s s' va x)
    pure x
  | (.error (.fault sub lvl pa), s') =>
    set s'
    trapM 0x07 sub va (accDesc rep lsize lvl) (BitVec.ofNat 64 pa)
  | (.error (.hold w), s') =>
    set s'
    throw (.wait w)

/-- `xlate(va, kind)` of R280. -/
def xlate (va : Word) (kind : AccKind) (lsize : Nat) : M Xl := xlateRep va kind kind lsize

/-- A translation trap that the target, not the walk, raises (R444, R455). -/
def permissionM {α : Type} (va : Word) (kind : AccKind) (lsize : Nat) : M α := trapM 0x07 0x07 va (accDesc kind lsize 0) 0

/-! ### Lines in the L1 -/

/-- An L1 line request served at its home (R65, R424): counters and the L2 tag. -/
def lineRequest (s : State) (line : Nat) : State :=
  let ctx := ctxOf s.th
  let code := if Assoc.get s.coh.tags line = some ctx then 0x12 else 0x13
  retag (perfTh (perfTh s s.th 0x14 1) s.th code 1) line ctx

/-- One copy per line is kept: a copy of another class goes home before the line is filled in this one (R89). -/
def clearOther (s : State) (line : Nat) (cls : MemClass) : State :=
  match l1Get s s.th.core line with
  | some l =>
    if l.cls = cls then s
    else if l.cls = .G then l1Drop (gWriteBack s l fullMask s.th.cause) s.th.core line
    else l1Replace s l
  | none => s

/-- A copy of another class keeps the line while a running chunk has written its bytes, or has read it where it is owned (R56, R89, R118): an
own chunk ends first, that of another thread is waited for. -/
def needClass (line : Nat) (cls : MemClass) : M Unit := do
  let s ← get
  match l1Get s s.th.core line with
  | none => pure ()
  | some l =>
    if l.cls = cls ∨ !l1Bound s l then pure ()
    else if 0 < s.th.chunk.count then throw .overflow
    else throw (.wait .room)

/-- A line-request entry of the core, or one that serves any agent, is free (R67, R68). -/
def needEntry : M Unit := do
  let s ← get
  if entryFree s (clusterOf s.th.core) s.th.core then pure () else throw (.wait .lineEntry)

/-- A read miss of class D served by the home (R86): the reader becomes a sharer, LC takes the line stamp. -/
def dFill (s : State) (line : Nat) : State :=
  let core := s.th.core
  let s1 := lineRequest s line
  let s2 := setDir s1 { (dirOf s1 line).addSharer (clusterOf core) with st := .S }
  let l : L1Line := { core := core, line := line, cls := .D, ctx := 0, va := 0, data := cellsRead s2.mem.cells line 64,
                      valid := fullMask, dirty := 0, last := (0, 0) }
  bumpLc (l1Insert s2 l) core (stampOf s2 line)

/-- A read miss that its home cannot answer at once is sent to it (R85, R86); a full slice makes room first. -/
def askRead (s : State) (line : Nat) (cls : MemClass) : State :=
  let core := s.th.core
  if !sliceRoom s line then makeRoom s line
  else if readAsked s core line cls then s
  else post (lineRequest s line) (.readMiss core line cls (incOf s (clusterOf core)))

/-- A singleton access that its home cannot perform at once is sent to it (R104, R115). -/
def askTurn (s : State) (pa : Nat) (op : HomeOp) : State :=
  let core := s.th.core
  if !sliceRoom s (lineOf pa) then makeRoom s (lineOf pa)
  else if turnAsked s s.th.uid (lineOf pa) then s
  else post s (.singletonAccess pa op core s.th.uid (incOf s (clusterOf core)))

/-- Whether a write of guarded bytes of a core is held at a line's home (R116). -/
def ownHeld (s : State) (core line : Nat) : Bool :=
  (dirOf s line).queue.any (fun h => match h with | .write _ a _ => a == coreAgent core | _ => false)

/-- The home of a line can perform the thread's singleton access now: its turn has come, or no other agent need answer (R85, R86). -/
def needTurn (pa : Nat) (op : HomeOp) : M Unit := do
  let s ← get
  let line := lineOf pa
  if turnOf s s.th.uid line then pure ()
  else
    needEntry
    if (if opWrites op then canHomeWrite s line && !lineHeld s line else homeReads s line && !ownHeld s s.th.core line) then pure ()
    else
      set (askTurn s pa op)
      throw (.wait (.memory line))

/-- The line is free for the next request once the access has been performed (R85). -/
def turnDone (line : Nat) : M Unit := modify (fun s => endTurn s s.th.uid line)

/-- A singleton that would read a poisoned line is not performed: the partition rolls back (R70, R71). -/
def poisonStop (line : Nat) : M Unit := do
  let s ← get
  if s.mem.poisoned.contains line then
    set (postOnce s (.rollback s.th.part [] []))
    throw (.wait (.memory line))
  else pure ()

/-- As `poisonStop`, of an area's lines. -/
def poisonStops (pas : List Nat) : M Unit := do
  let s ← get
  match pas.find? (fun p => s.mem.poisoned.contains (lineOf p)) with
  | some p => poisonStop (lineOf p)
  | none => pure ()

def hasLine (s : State) (line : Nat) (cls : MemClass) : Bool :=
  match l1Get s s.th.core line with
  | some l => l.cls == cls
  | none => false

/-- The L1 holds the line in class D; a line whose home must first be answered, or holds requests, is asked for and waited for (R85,
R86). -/
def needD (line : Nat) : M Unit := do
  let s ← get
  if hasLine s line .D then pure ()
  else
    needClass line .D
    needEntry
    modify (fun s => clearOther s line .D)
    let s ← get
    if homeReads s line then set (dFill s line)
    else
      set (askRead s line .D)
      throw (.wait (.memory line))

/-- The byte that a view's chain holds at an address (R144). -/
def chainByte (s : State) (pa : Nat) : List Nat → Option Byte
  | [] => none
  | tag :: rest =>
    match versionOf s tag (lineOf pa) with
    | some v => if bitAt v.mask (pa % 64) then some (v.data.getD (pa % 64) 0) else chainByte s pa rest
    | none => chainByte s pa rest

/-- A D-class byte as the running chunk sees it (R107, R144). -/
def dByte (s : State) (pa : Nat) : Byte :=
  match Assoc.get s.th.chunk.writes pa with
  | some b => b
  | none => match chainByte s pa s.th.chain with
    | some b => b
    | none => match l1Get s s.th.core (lineOf pa) with
      | some l => if l.cls = .D then l.data.getD (pa % 64) 0 else homeByte s pa
      | none => homeByte s pa

/-- A G-class byte as the running chunk sees it (R89, R107). -/
def gByte (s : State) (pa : Nat) : Byte :=
  match Assoc.get s.th.chunk.gwrites pa with
  | some b => b
  | none => match l1Get s s.th.core (lineOf pa) with
    | some l => l.data.getD (pa % 64) 0
    | none => 0

def updChunk (f : Chunk → Chunk) : M Unit := modify (fun s => { s with th := { s.th with chunk := f s.th.chunk } })

/-- A chunk that reads a poisoned line of another class than D is marked (R70, R71). -/
def notePoison (line : Nat) : M Unit := modify (fun s =>
  if s.mem.poisoned.contains line then { s with th := { s.th with chunk := { s.th.chunk with poison := true } } } else s)

/-- As `notePoison`, of an area's lines. -/
def notePoisons (pas : List Nat) : M Unit := modify (fun s =>
  if pas.any (fun p => s.mem.poisoned.contains (lineOf p)) then { s with th := { s.th with chunk := { s.th.chunk with poison := true } } } else s)

/-- A line of class D enters the read signature (R107). -/
def addRead (line : Nat) : M Unit :=
  updChunk (fun c => if c.reads.contains line then c else { c with reads := line :: c.reads })

def readD (pa n : Nat) : M (List Byte) := do
  needD (lineOf pa)
  addRead (lineOf pa)
  modify (fun s => unspill s s.th.chain (lineOf pa))
  let s ← get
  pure ((List.range n).map (fun i => dByte s (pa + i)))

/-- A G line's copy in the L1, made empty where there is none: its first fill records the VA (R89). -/
def gReserve (s : State) (line va : Nat) : State :=
  match l1Get s s.th.core line with
  | some _ => s
  | none => l1Insert s { core := s.th.core, line := line, cls := .G, ctx := ctxOf s.th, va := va / 64 * 64, data := List.replicate 64 0,
                         valid := 0, dirty := 0, last := (0, 0) }

/-- Bytes of a G line fetched where they are not valid (R89); LC takes the line stamp. -/
def gFill (s : State) (line va : Nat) : State :=
  let s1 := gReserve (lineRequest s line) line va
  giveData s1 s1.th.core line .G

/-- Whether the bytes of an access are valid in the core's G copy, or written by the chunk. -/
def gHas (s : State) (pa n : Nat) : Bool :=
  (List.range n).all (fun i =>
    (Assoc.get s.th.chunk.gwrites (pa + i)).isSome ||
      (match l1Get s s.th.core (lineOf pa) with
        | some l => l.cls == .G && bitAt l.valid ((pa + i) % 64)
        | none => false))

def readG (pa n va : Nat) : M (List Byte) := do
  let s ← get
  let line := lineOf pa
  if gHas s pa n then pure ()
  else
    needClass line .G
    needEntry
    modify (fun s => clearOther s line .G)
    let s ← get
    if !isLocal s pa ∨ homeReads s line then set (gFill s line va)
    else
      set (askRead (gReserve s line va) line .G)
      throw (.wait (.memory line))
  notePoison line
  let s ← get
  pure ((List.range n).map (fun i => gByte s (pa + i)))

/-- Whether a read of a weight-store line must wait for the refresh window of its bank (R74, R75): one that its slice holds does not reach
the bank. -/
def windowWaits (s : State) (line : Nat) : Bool :=
  match region (paLocal line) with
  | .weight d => s.sys.wsOpen.contains (d, weightBank (paLocal line)) && (Assoc.get s.coh.tags line).isNone
  | _ => false

/-- A W-class line in the L1 (R72): kept until `inv` or a load state. -/
def readW (pa n : Nat) : M (List Byte) := do
  let s ← get
  let line := lineOf pa
  if hasLine s line .W then pure ()
  else
    needClass line .W
    needEntry
    modify (fun s => clearOther s line .W)
    let s ← get
    if windowWaits s line ∨ lineHeld s line then
      set (makeRoom (if windowWaits s line ∧ s.th.waited = 0 then perfTh s s.th 0x19 1 else s) line)
      throw (.wait (.memory line))
    else
      let s1 := lineRequest s line
      set (bumpLc (l1Insert s1 { core := s.th.core, line := line, cls := .W, ctx := 0, va := 0, data := cellsRead s1.mem.cells line 64,
                                 valid := fullMask, dirty := 0, last := (0, 0) }) s.th.core (stampOf s1 line))
  notePoison line
  let s ← get
  match l1Get s s.th.core line with
  | some l => pure ((List.range n).map (fun i => l.data.getD ((pa + i) % 64) 0))
  | none => pure (cellsRead s.mem.cells pa n)

/-- In replay, the value that the log holds for the next input of the chunk (R441). -/
def replayedVal (s : State) : Option Word :=
  (chunkValues s s.th.part s.th.origin s.th.seq)[s.th.chunk.passed + s.th.chunk.logged.length]?

/-- A value that does not follow from the commit order is recorded (R105, R438); in replay the logged one takes its place. -/
def logValue (v : Word) : M Word := do
  let s ← get
  let w := (replayedVal s).getD v
  updChunk (fun c => { c with logged := w :: c.logged })
  pure w

/-! ### Room (R102) -/

/-- Lines that a chunk holds speculative. -/
def specLines (c : Chunk) : List Nat := ((c.writes ++ c.gwrites).map (fun w => lineOf w.1)).eraseDups
/-- Lines in the window store buffer. -/
def bufLines (c : Chunk) : List Nat := (c.wstores.map (fun w => lineOf w.1)).eraseDups

/-- Whether a line may become speculative: 1,536 a core, four of them kept for each of the 256 slots (R102). -/
def specRoom (s : State) (line : Nat) : Bool :=
  let own := specLines s.th.chunk
  own.contains line || decide (own.length < 4) ||
    decide (((threads s).filter (fun t => t.core = s.th.core)).foldl (fun n t => n + ((specLines t.chunk).length - 4)) 1024 < 1536)

/-- Whether the window store buffer of 64 entries takes a line (R102). -/
def bufRoom (s : State) (line : Nat) : Bool :=
  (bufLines s.th.chunk).contains line ||
    decide (((threads s).filter (fun t => t.core = s.th.core)).foldl (fun n t => n + (bufLines t.chunk).length) 0 < 64)

/-- The chunk ends for want of room, or waits when it has retired nothing (R102). -/
def needRoom (ok : Bool) : M Unit := do
  let s ← get
  if ok then pure () else if s.th.chunk.count = 0 then throw (.wait .room) else throw .overflow

/-! ### Views (R140-R143) -/

/-- Whether the front thread runs in a view. -/
def inView (s : State) : Bool := !s.th.chain.isEmpty

/-- A spill record for a line that the innermost view has neither written nor reserved (R143): from the cluster's grant, drawn from
the partition's counter; none left is spill full. -/
def reserveLine (s : State) (line : Nat) : Option State :=
  match s.th.chain with
  | [] => some s
  | tag :: _ =>
    if (versionOf s tag line).isSome ∨ s.vw.reserved.contains (tag, line) then some s
    else
      let cl := clusterOf s.th.core
      let p := s.th.part
      let left := Assoc.getD s.vw.grants cl 0
      let used := Assoc.getD s.vw.spillUsed p 0
      let draw := if left = 0 then min 256 (pdSpillRecords s p - used) else 0
      if left + draw = 0 then none
      else some { s with vw := { s.vw with
        reserved := (tag, line) :: s.vw.reserved
        grants := Assoc.set s.vw.grants cl (left + draw - 1)
        spillUsed := Assoc.set s.vw.spillUsed p (used + draw) } }

def reserve (va : Word) (line : Nat) : M Unit := do
  let s ← get
  match s.th.chain with
  | [] => pure ()
  | tag :: _ =>
    if (versionOf s tag line).isSome ∨ s.th.chunk.asks.contains line then pure ()
    else
      -- the outcome of a reservation is recorded with the chunk (R139), that of one which a squashed attempt took again; in replay it is the
      -- logged one (R441)
      needRoom (specRoom s line)
      let v ← logValue (if (reserveLine s line).isSome then 1 else 0)
      if v = 0 then trapM 0x09 0x03 va 0 0
      else
        modify (fun s => (reserveLine s line).getD { s with vw := { s.vw with reserved := (tag, line) :: s.vw.reserved } })
        updChunk (fun c => { c with asks := line :: c.asks })

/-! ### Stores in the chunk -/

/-- A store's translation is checked again at the commit point, where DT is set (R37). -/
def markDirty (x : Xl) : M Unit := do
  let s ← get
  updChunk (fun c => if c.dirty.any (fun d => d.2.2.1 == x.leafPa) then c
    else { c with dirty := (x.base, ctxOf s.th, x.leafPa, x.leaf) :: c.dirty })

/-- Bytes put in front of a chunk's list, the last byte first. -/
def addBytes (pa : Nat) (data : List Byte) (ws : List Host.Cell) : List Host.Cell :=
  (data.zipIdx.map (fun e => (pa + e.2, e.1))).reverse ++ ws

def writeD (x : Xl) (data : List Byte) : M Unit := do
  let line := lineOf x.pa
  let s ← get
  needRoom (specRoom s line)
  reserve (BitVec.ofNat 64 x.va) line
  needD line
  markDirty x
  updChunk (fun c => { c with writes := addBytes x.pa data c.writes })

def writeG (x : Xl) (data : List Byte) : M Unit := do
  let s ← get
  needRoom (specRoom s (lineOf x.pa))
  needClass (lineOf x.pa) .G
  modify (fun s => gReserve (clearOther s (lineOf x.pa) .G) (lineOf x.pa) x.va)
  markDirty x
  updChunk (fun c => { c with gwrites := addBytes x.pa data c.gwrites })

/-! ### Singletons (R104, R115) -/

/-- The stamp of a singleton access: max(LC, line stamp) + 1, which the reply returns. -/
def singleStamp (line : Nat) : M Nat := do
  let s ← get
  let st := max (lcOf s s.th.core) (stampOf s line) + 1
  set (bumpClock (setLc s s.th.core st) (homeOf line) st)
  pure st

/-- The counters of a U-class access at a home slice (R424). -/
def uCount (line : Nat) : M Unit := modify (fun s =>
  let ctx := ctxOf s.th
  retag (perfTh s s.th (if Assoc.get s.coh.tags line = some ctx then 0x10 else 0x11) 1) line ctx)

/-- A singleton whose target is another device's (R429). -/
def noteFar (dev : Nat) : M Unit := updChunk (fun c => { c with far := some dev })

/-- A remote request of the thread: the route must be live (R458) and the target's owner must perform it (R455). -/
def remoteM (va : Word) (pa : Nat) (kind : AccKind) (lsize code : Nat) : M Unit := do
  needEntry
  let s ← get
  if !routeLive s s.th.part (paDev pa) then throw (.wait (.route (paDev pa)))
  else
    let s1 := perfTh s s.th code 1
    set (fabricCount (ctlCount s1 (vfAddr s.th.vf (if code = 0x20 then 0x110 else 0x118)) 1) s.th.part s.th.vf
      (2 ^ lsize) (if kind = .rmw then 2 ^ lsize else 0))
    if Config.remoteGrants pa (jobOf s s.th) then pure () else permissionM va kind lsize

/-- Bytes recorded as words of the order log (R438); in replay the logged ones take their place (R441). -/
def logWords : Nat → List Byte → M (List Byte)
  | 0, _ => pure []
  | k + 1, bs => do
    let w ← logValue (BitVec.ofNat 64 (leNat (bs.take 8)))
    let rest ← logWords k (bs.drop 8)
    pure (leBytes 8 w.toNat ++ rest)

def logBytes (bs : List Byte) : M (List Byte) := do
  let ws ← logWords ((bs.length + 7) / 8) bs
  pure (ws.take bs.length)

/-- Bytes that an access to another device's memory reads: values from outside the partition, which the log records (R438). In replay they come
from the log and the access is not made (R441); a replay partition has no others (R442). An access that changes memory there waits for the
log's acknowledgement (R439). -/
def outside (x : Xl) (kind : AccKind) (n : Nat) (m : M (List Byte)) : M (List Byte) := do
  noteFar (paDev x.pa)
  let s ← get
  if (replayedVal s).isSome ∧ Config.remoteGrants x.pa (jobOf s s.th) then logBytes (List.replicate n 0)
  else if replayPart s s.th.part then throw (.wait .acked)
  else if kind = .rmw ∧ !ackedTo s s.th.part (logPos s s.th.part) then throw (.wait .acked)
  else
    remoteM (BitVec.ofNat 64 x.va) x.pa kind n.log2 0x20
    let bs ← m
    logBytes bs

/-- Bytes read at a home as a singleton. -/
def readHome (x : Xl) (n : Nat) : M (List Byte) := do
  let line := lineOf x.pa
  let s ← get
  let bytes : M (List Byte) := do
    let s ← get
    pure (cellsRead s.mem.cells x.pa n)
  if isLocal s x.pa then
    needTurn x.pa (.read n)
    poisonStop line
    uCount line
    let _ ← singleStamp line
    turnDone line
    bytes
  else
    let b ← outside x .read n bytes
    let _ ← singleStamp line
    pure b

/-- Bytes written at a local home as a singleton (R86, R115). -/
def writeHome (x : Xl) (data : List Byte) : M Unit := do
  let line := lineOf x.pa
  needTurn x.pa (.write (data.map some))
  uCount line
  let st ← singleStamp line
  modify (fun s => wakeWatchers (homeWriteAt s x.pa (data.map some) st) line)
  markDirty x
  turnDone line

/-- A singleton access that no home performs in this step takes the next stamp of its core (R110, R117). -/
def tickLc : M Unit := modify (fun s => setLc s s.th.core (lcOf s s.th.core + 1))

/-- A remote store: it leaves the cluster now and is performed later, in order for its device (R104, R115, R120). -/
def postRemote (x : Xl) (data : List Byte) : M Unit := do
  needEntry
  noteFar (paDev x.pa)
  let s ← get
  if !routeLive s s.th.part (paDev x.pa) then throw (.wait (.route (paDev x.pa)))
  else
    let s1 := fabricCount (ctlCount (perfTh s s.th 0x21 1) (vfAddr s.th.vf 0x118) 1) s.th.part s.th.vf 0 data.length
    let p : Posted := { part := s.th.part, upTo := logPos s s.th.part, lnum := s.th.lnum, index := s.th.index, va := x.va,
                        uid := s.th.uid, dev := paDev x.pa, pa := x.pa, data := data.map some, core := s.th.core, lc := lcOf s s.th.core,
                        inc := incOf s (clusterOf s.th.core), back := false, pc := s.th.a.pc, desc := accDesc .write data.length.log2 0 }
    set (match takeSkip s1 s.th.part (.store x.pa (data.map some)) with
      | some s2 => s2
      | none => postOut s1 p)
    tickLc
    markDirty x

/-- A remote G store: committed dirty bytes of the L1 copy (R82, R455); it is held while no route to the device is live (R458). -/
def writeRemoteG (x : Xl) (data : List Byte) : M Unit := do
  noteFar (paDev x.pa)
  let s ← get
  if routeLive s s.th.part (paDev x.pa) then pure () else throw (.wait (.route (paDev x.pa)))
  writeG x data
  modify (fun s => ctlCount (perfTh s s.th 0x21 1) (vfAddr s.th.vf 0x118) 1)
  modify (fun s =>
    let s1 := s.th.chunk.gwrites.foldr (fun w s => commitG s.th s w) s
    { s1 with th := { s1.th with chunk := { s1.th.chunk with gwrites := [] } } })
  tickLc

/-- Bytes of a bank as the thread sees them: its own buffered bytes, else the bank's (R108). -/
def winByte (s : State) (pa : Nat) : Byte :=
  match Assoc.get s.th.chunk.wstores pa with
  | some b => b
  | none => cellGet s.mem.cells pa

/-- A word of control space read by a thread: it carries the rights of the partition's supervisor (R444). -/
def readControl (x : Xl) (n : Nat) : M Word := do
  let s ← get
  if n ≠ 8 then permissionM (BitVec.ofNat 64 x.va) .read n.log2
  else match ctlReadAs s (.supervisor s.th.part) (paLocal x.pa - controlBase) with
    | (some v, s') =>
      set s'
      let _ ← singleStamp (lineOf x.pa)
      logValue v
    | (none, _) => permissionM (BitVec.ofNat 64 x.va) .read n.log2

def writeControl (x : Xl) (n : Nat) (v : Word) : M Unit := do
  let s ← get
  if n ≠ 8 then permissionM (BitVec.ofNat 64 x.va) .write n.log2
  else match ctlWriteAs s (.supervisor s.th.part) (paLocal x.pa - controlBase) v with
    | some s' =>
      set s'
      let _ ← singleStamp (lineOf x.pa)
    | none => permissionM (BitVec.ofNat 64 x.va) .write n.log2

/-- `mem_read` of R280 after translation: the bytes, and whether the access was a singleton. -/
def readAt (x : Xl) (n : Nat) : M (List Byte × Bool) := do
  let s ← get
  match x.tgt with
  | .control =>
    needSingle
    let v ← readControl x n
    pure (leBytes 8 v.toNat, true)
  | .win cl =>
    if cl = clusterOf s.th.core then
      notePoison (lineOf x.pa)
      pure ((List.range n).map (fun i => winByte s (x.pa + i)), false)
    else
      needSingle
      needEntry
      poisonStop (lineOf x.pa)
      let _ ← singleStamp (lineOf x.pa)
      let s ← get
      pure (cellsRead s.mem.cells x.pa n, true)
  | .mem cls =>
    if cls = .U then
      needSingle
      let b ← readHome x n
      pure (b, true)
    else if !isLocal s x.pa then
      needSingle
      noteFar (paDev x.pa)
      let b ← (if gHas s x.pa n ∧ (replayedVal s).isNone then do logBytes (← readG x.pa n x.va)
        else do
          needClass (lineOf x.pa) .G
          outside x .read n (readG x.pa n x.va))
      let _ ← singleStamp (lineOf x.pa)
      pure (b, true)
    else match cls with
      | .D => return (← readD x.pa n, false)
      | .G => return (← readG x.pa n x.va, false)
      | _ => return (← readW x.pa n, false)

/-- What a store's target must be in a rival (R147, R325), and the spill record it needs there (R143). -/
def viewStore (x : Xl) : M Unit := do
  let s ← get
  if !inView s then pure ()
  else if (match x.tgt with | .mem .D => isLocal s x.pa | _ => false) then reserve (BitVec.ofNat 64 x.va) (lineOf x.pa)
  else external 0x01 (BitVec.ofNat 64 x.va)

/-- `mem_write` of R280 after translation: whether the access was a singleton. -/
def writeAt (x : Xl) (n : Nat) (v : Word) : M Bool := do
  let s ← get
  let data := leBytes n v.toNat
  viewStore x
  match x.tgt with
  | .control =>
    needSingle
    writeControl x n v
    pure true
  | .win cl =>
    if cl = clusterOf s.th.core then
      needRoom (bufRoom s (lineOf x.pa))
      updChunk (fun c => { c with wstores := addBytes x.pa data c.wstores })
      pure false
    else
      needSingle
      needEntry
      let st ← singleStamp (lineOf x.pa)
      modify (fun s => writeBank s x.pa (data.map some) st)
      pure true
  | .mem cls =>
    if cls = .U then
      needSingle
      if isLocal s x.pa then writeHome x data else postRemote x data
      pure true
    else if !isLocal s x.pa then
      needSingle
      writeRemoteG x data
      pure true
    else match cls with
      | .D => do writeD x data; pure false
      | _ => do writeG x data; pure false

/-- A value read: alignment, translation, access (R329). -/
def memRead (va : Word) (lsize : Nat) : M (Word × Bool) := do
  checkAlign va .read lsize
  let x ← xlate va .read lsize
  let r ← readAt x (2 ^ lsize)
  pure (BitVec.ofNat 64 (leNat r.1), r.2)

/-- A value written (R329). -/
def memWriteM (va : Word) (lsize : Nat) (v : Word) : M Bool := do
  checkAlign va .write lsize
  let x ← xlate va .write lsize
  writeAt x (2 ^ lsize) v

end Sys2Proof.Machine
end

