-- ==== Sys2Proof/Machine/AluOps.lean ====
section
/-! DEFINITION. AluOps.lean: what each integer and address operation delivers (R286-R295), as functions of the operand values. -/

namespace Sys2Proof.Machine

def valAdd (a b : Word) : Word := a + b
def valSub (a b : Word) : Word := a - b
def valNeg (a : Word) : Word := 0 - a
def valMul (a b : Word) : Word := a * b
/-- Bits [127:64] of the signed product (R286). -/
def valMulhS (a b : Word) : Word := BitVec.ofInt 64 (a.toInt * b.toInt / 2 ^ 64)
/-- Bits [127:64] of the unsigned product (R286). -/
def valMulhZ (a b : Word) : Word := BitVec.ofNat 64 (a.toNat * b.toNat / 2 ^ 64)
def valMinS (a b : Word) : Word := if b.toInt < a.toInt then b else a
def valMinZ (a b : Word) : Word := if b.toNat < a.toNat then b else a
def valMaxS (a b : Word) : Word := if a.toInt < b.toInt then b else a
def valMaxZ (a b : Word) : Word := if a.toNat < b.toNat then b else a
def valAbs (a : Word) : Word := if 0 ≤ a.toInt then a else 0 - a

/-- R287. -/
def valDivZ (a b : Word) : Word := if b = 0 then 0xffffffffffffffff#64 else BitVec.ofNat 64 (a.toNat / b.toNat)
def valRemZ (a b : Word) : Word := if b = 0 then a else BitVec.ofNat 64 (a.toNat % b.toNat)
def valDivS (a b : Word) : Word := if b = 0 then 0xffffffffffffffff#64 else BitVec.ofInt 64 (a.toInt.tdiv b.toInt)
def valRemS (a b : Word) : Word := if b = 0 then a else BitVec.ofInt 64 (a.toInt.tmod b.toInt)

/-- R288. -/
def valAnd (a b : Word) : Word := a &&& b
def valOr (a b : Word) : Word := a ||| b
def valXor (a b : Word) : Word := a ^^^ b
def valAndn (a b : Word) : Word := a &&& ~~~b
def valOrn (a b : Word) : Word := a ||| ~~~b

/-- The shift count b[5:0] (R289). -/
def shiftCount (b : Word) : Nat := b.toNat % 64
def valShl (a b : Word) : Word := a <<< shiftCount b
def valShr (a b : Word) : Word := a >>> shiftCount b
def valSar (a b : Word) : Word := a.sshiftRight (shiftCount b)
def valRotl (a b : Word) : Word := a.rotateLeft (shiftCount b)

/-- Bits of a register, bit 0 first. -/
def bitList (a : Word) : List Bool := (List.range 64).map (fun i => bitAt a.toNat i)
/-- The number whose bits are given, bit 0 first. -/
def ofBitList : List Bool → Nat
  | [] => 0
  | b :: bs => b.toNat + 2 * ofBitList bs

/-- R290. -/
def valClz (a : Word) : Word := BitVec.ofNat 64 (if a = 0 then 64 else 63 - a.toNat.log2)
def valCtz (a : Word) : Word := BitVec.ofNat 64 ((bitList a).takeWhile (fun b => !b)).length
def valPopc (a : Word) : Word := BitVec.ofNat 64 ((bitList a).filter id).length
def valBrev (a : Word) : Word := BitVec.ofNat 64 (ofBitList (bitList a).reverse)
def valBswap (a : Word) : Word := BitVec.ofNat 64 (leNat (leBytes 8 a.toNat).reverse)
def valSext8 (a : Word) : Word := sext 8 a
def valSext16 (a : Word) : Word := sext 16 a
def valSext32 (a : Word) : Word := sext 32 a
def valZext8 (a : Word) : Word := zext 8 a
def valZext16 (a : Word) : Word := zext 16 a
def valZext32 (a : Word) : Word := zext 32 a

/-- R291. -/
def valCmpEq (a b : Word) : Word := Word.ofBool (a == b)
def valCmpNe (a b : Word) : Word := Word.ofBool (a != b)
def valCmpLtS (a b : Word) : Word := Word.ofBool (decide (a.toInt < b.toInt))
def valCmpLtZ (a b : Word) : Word := Word.ofBool (decide (a.toNat < b.toNat))
def valCmpLeS (a b : Word) : Word := Word.ofBool (decide (a.toInt ≤ b.toInt))
def valCmpLeZ (a b : Word) : Word := Word.ofBool (decide (a.toNat ≤ b.toNat))

/-- `sel` with the condition c = q0 (R292). -/
def valSel (c a b : Word) : Word := if c = 0 then b else a

/-- One bit step of CRC-32C (R293). -/
def crcBit (c : Nat) : Nat := if c % 2 = 1 then (c / 2) ^^^ 0x82f63b78 else c / 2
/-- One byte of CRC-32C (R293). -/
def crcByte (c x : Nat) : Nat := Nat.repeat crcBit 8 (c ^^^ x)
/-- `crc.w` over w/8 bytes (R293). -/
def valCrc (bytes : Nat) (a b : Word) : Word :=
  BitVec.ofNat 64 ((leBytes bytes b.toNat).foldl (fun c x => crcByte c x.toNat) (a.toNat % 2 ^ 32))

/-- Position and effective width of the bit field that b names (R294). -/
def fieldPos (b : Word) : Nat := b.bits 5 0
def fieldWidth (b : Word) : Nat := min (b.bits 11 6 + 1) (64 - fieldPos b)
def valBfxZ (a b : Word) : Word := zext (fieldWidth b) (a >>> fieldPos b)
def valBfxS (a b : Word) : Word := sext (fieldWidth b) (a >>> fieldPos b)
/-- `bfi` into c = q0 (R294). -/
def valBfi (c a b : Word) : Word := c.putBits (fieldPos b + fieldWidth b - 1) (fieldPos b) a.toNat

/-- R295: the immediate is already extended. -/
def valLih (a imm : Word) : Word := (imm <<< 32) ||| zext 32 a

end Sys2Proof.Machine
end

