-- ==== Sys2Proof/Machine/Operands.lean ====
section
/-! DEFINITION. Operands.lean: operand forms (R268, R269), soft registers and the evaluation of recipes (R258-R264), the checks before
an instruction takes effect (R251, R258, R274, R396, R397), and how a performed instruction passes (R102, R106, R117, R274, R402). -/

namespace Sys2Proof.Machine

/-! ### Rounding codes and sizes -/

/-- `mode(code)` of R280 (R228, R235). -/
def rmOf (a : Arch) (rm : Rm) : Rm := if rm = .dyn then (Rm.ofCode (a.fpctl.bits 2 0)).getD .rne else rm

/-- The rounding of a short form (R276). -/
def rmOfShort : Rm4 → Rm
  | .dyn => .dyn
  | .rne => .rne
  | .rtz => .rtz
  | .rna => .rna

/-- log2 of the access size, and the extension (R323). -/
def szLog : MemSz → Nat
  | .z8 => 0
  | .s8 => 0
  | .z16 => 1
  | .s16 => 1
  | .z32 => 2
  | .s32 => 2
  | .d64 => 3

def szExtend (sz : MemSz) (v : Word) : Word :=
  match sz with
  | .s8 => sext 8 v
  | .s16 => sext 16 v
  | .s32 => sext 32 v
  | _ => v

/-- The byte offset of a short load or store: OFF in units of the access size (R327). -/
def shortOff (off : BitVec 7) (sz : MemSz) : Word := off.signExtend 64 <<< szLog sz

/-! ### Recipes -/

/-- The value of an instruction that a recipe may hold and that reads no memory (R260), from its operands and its pc; none for any
other. Floating-point instructions give their default results (R263). -/
def recipeVal (ar : Arch) (i : Instr) (rd : Opnd → Word) (rk : OpndK → IWord → Word) (pc : Word) : Option Word :=
  match i with
  | .add _ a b => some (valAdd (rd a) (rd b))
  | .sub _ a b => some (valSub (rd a) (rd b))
  | .mul _ a b => some (valMul (rd a) (rd b))
  | .mulhS _ a b => some (valMulhS (rd a) (rd b))
  | .mulhZ _ a b => some (valMulhZ (rd a) (rd b))
  | .minS _ a b => some (valMinS (rd a) (rd b))
  | .minZ _ a b => some (valMinZ (rd a) (rd b))
  | .maxS _ a b => some (valMaxS (rd a) (rd b))
  | .maxZ _ a b => some (valMaxZ (rd a) (rd b))
  | .and _ a b => some (valAnd (rd a) (rd b))
  | .or _ a b => some (valOr (rd a) (rd b))
  | .xor _ a b => some (valXor (rd a) (rd b))
  | .andn _ a b => some (valAndn (rd a) (rd b))
  | .orn _ a b => some (valOrn (rd a) (rd b))
  | .shl _ a b => some (valShl (rd a) (rd b))
  | .shr _ a b => some (valShr (rd a) (rd b))
  | .sar _ a b => some (valSar (rd a) (rd b))
  | .rotl _ a b => some (valRotl (rd a) (rd b))
  | .cmpEq _ a b => some (valCmpEq (rd a) (rd b))
  | .cmpNe _ a b => some (valCmpNe (rd a) (rd b))
  | .cmpLtS _ a b => some (valCmpLtS (rd a) (rd b))
  | .cmpLtZ _ a b => some (valCmpLtZ (rd a) (rd b))
  | .cmpLeS _ a b => some (valCmpLeS (rd a) (rd b))
  | .cmpLeZ _ a b => some (valCmpLeZ (rd a) (rd b))
  | .crc8 _ a b => some (valCrc 1 (rd a) (rd b))
  | .crc16 _ a b => some (valCrc 2 (rd a) (rd b))
  | .crc32 _ a b => some (valCrc 4 (rd a) (rd b))
  | .crc64 _ a b => some (valCrc 8 (rd a) (rd b))
  | .bfxS _ a b => some (valBfxS (rd a) (rd b))
  | .bfxZ _ a b => some (valBfxZ (rd a) (rd b))
  | .neg _ a => some (valNeg (rd a))
  | .abs _ a => some (valAbs (rd a))
  | .clz _ a => some (valClz (rd a))
  | .ctz _ a => some (valCtz (rd a))
  | .popc _ a => some (valPopc (rd a))
  | .brev _ a => some (valBrev (rd a))
  | .bswap _ a => some (valBswap (rd a))
  | .sext8 _ a => some (valSext8 (rd a))
  | .sext16 _ a => some (valSext16 (rd a))
  | .sext32 _ a => some (valSext32 (rd a))
  | .zext8 _ a => some (valZext8 (rd a))
  | .zext16 _ a => some (valZext16 (rd a))
  | .zext32 _ a => some (valZext32 (rd a))
  | .sel _ a b => some (valSel (rd (.q 0)) (rd a) (rd b))
  | .bfi _ a b => some (valBfi (rd (.q 0)) (rd a) (rd b))
  | .addi _ a imm => some (valAdd (rd a) (imm.signExtend 64))
  | .addiLong _ a k => some (valAdd (rk a k) (k.signExtend 64))
  | .shli _ a imm => some (valShl (rd a) (imm.signExtend 64))
  | .shliLong _ a k => some (valShl (rk a k) (k.signExtend 64))
  | .shri _ a imm => some (valShr (rd a) (imm.signExtend 64))
  | .shriLong _ a k => some (valShr (rk a k) (k.signExtend 64))
  | .sari _ a imm => some (valSar (rd a) (imm.signExtend 64))
  | .sariLong _ a k => some (valSar (rk a k) (k.signExtend 64))
  | .lih _ a imm => some (valLih (rd a) (imm.signExtend 64))
  | .lihLong _ a k => some (valLih (rk a k) (k.signExtend 64))
  | .li _ imm => some (imm.signExtend 64)
  | .lea _ imm => some (pc + (imm.signExtend 64 <<< 2))
  | .liLong _ k => some (k.signExtend 64)
  | .leaLong _ k => some (pc + (k.signExtend 64 <<< 2))
  | .fadd _ a b fm r => some (valFadd (.ieee fm) (rmOf ar (rmOfShort r)) .sat (rd a) (rd b)).v
  | .faddLong _ a b fm rm ov => some (valFadd fm (rmOf ar rm) ov (rd a) (rd b)).v
  | .fsub _ a b fm r => some (valFsub (.ieee fm) (rmOf ar (rmOfShort r)) .sat (rd a) (rd b)).v
  | .fsubLong _ a b fm rm ov => some (valFsub fm (rmOf ar rm) ov (rd a) (rd b)).v
  | .fmul _ a b fm r => some (valFmul (.ieee fm) (rmOf ar (rmOfShort r)) .sat (rd a) (rd b)).v
  | .fmulLong _ a b fm rm ov => some (valFmul fm (rmOf ar rm) ov (rd a) (rd b)).v
  | .fdiv _ a b fm r => some (valFdiv (.ieee fm) (rmOf ar (rmOfShort r)) .sat (rd a) (rd b)).v
  | .fdivLong _ a b fm rm ov => some (valFdiv fm (rmOf ar rm) ov (rd a) (rd b)).v
  | .fscalb _ a b fm r => some (valFscalb (.ieee fm) (rmOf ar (rmOfShort r)) .sat (rd a) (rd b)).v
  | .fscalbLong _ a b fm rm ov => some (valFscalb fm (rmOf ar rm) ov (rd a) (rd b)).v
  | .fsqrt _ a fm r => some (valFsqrt (.ieee fm) (rmOf ar (rmOfShort r)) .sat (rd a)).v
  | .fsqrtLong _ a fm rm ov => some (valFsqrt fm (rmOf ar rm) ov (rd a)).v
  | .frint _ a fm r => some (valFrint false (.ieee fm) (rmOf ar (rmOfShort r)) .sat (rd a)).v
  | .frintLong _ a fm rm ov => some (valFrint false fm (rmOf ar rm) ov (rd a)).v
  | .frintX _ a fm rm ov => some (valFrint true fm (rmOf ar rm) ov (rd a)).v
  | .frem _ a b fm => some (valFrem (.ieee fm) (rd a) (rd b)).v
  | .fremLong _ a b fm => some (valFrem fm (rd a) (rd b)).v
  | .fmin _ a b fm => some (valMinMax false false (.ieee fm) (rd a) (rd b)).v
  | .fminLong _ a b fm => some (valMinMax false false fm (rd a) (rd b)).v
  | .fmax _ a b fm => some (valMinMax true false (.ieee fm) (rd a) (rd b)).v
  | .fmaxLong _ a b fm => some (valMinMax true false fm (rd a) (rd b)).v
  | .fminn _ a b fm => some (valMinMax false true (.ieee fm) (rd a) (rd b)).v
  | .fminnLong _ a b fm => some (valMinMax false true fm (rd a) (rd b)).v
  | .fmaxn _ a b fm => some (valMinMax true true (.ieee fm) (rd a) (rd b)).v
  | .fmaxnLong _ a b fm => some (valMinMax true true fm (rd a) (rd b)).v
  | .fsgnJ _ a b fm => some (valFsgn (fun _ y => y) (.ieee fm) (rd a) (rd b)).v
  | .fsgnJLong _ a b fm => some (valFsgn (fun _ y => y) fm (rd a) (rd b)).v
  | .fsgnN _ a b fm => some (valFsgn (fun _ y => !y) (.ieee fm) (rd a) (rd b)).v
  | .fsgnNLong _ a b fm => some (valFsgn (fun _ y => !y) fm (rd a) (rd b)).v
  | .fsgnX _ a b fm => some (valFsgn xor (.ieee fm) (rd a) (rd b)).v
  | .fsgnXLong _ a b fm => some (valFsgn xor fm (rd a) (rd b)).v
  | .fclass _ a fm => some (valFclass (.ieee fm) (rd a)).v
  | .fclassLong _ a fm => some (valFclass fm (rd a)).v
  | .flogb _ a fm => some (valFlogb (.ieee fm) (rd a)).v
  | .flogbLong _ a fm => some (valFlogb fm (rd a)).v
  | .fnextUp _ a fm => some (valFnext true (.ieee fm) (rd a)).v
  | .fnextUpLong _ a fm => some (valFnext true fm (rd a)).v
  | .fnextDn _ a fm => some (valFnext false (.ieee fm) (rd a)).v
  | .fnextDnLong _ a fm => some (valFnext false fm (rd a)).v
  | .fcmp _ a b fm c => some (valFcmp (.ieee fm) (Cmp4.toCmp8 c) (rd a) (rd b)).v
  | .fcmpLong _ a b fm c => some (valFcmp fm c (rd a) (rd b)).v
  | .fma _ a b c fm rm ov => some (valFused false false fm (rmOf ar rm) ov (rd a) (rd b) (rd c)).v
  | .fms _ a b c fm rm ov => some (valFused false true fm (rmOf ar rm) ov (rd a) (rd b) (rd c)).v
  | .fnma _ a b c fm rm ov => some (valFused true true fm (rmOf ar rm) ov (rd a) (rd b) (rd c)).v
  | .fnms _ a b c fm rm ov => some (valFused true false fm (rmOf ar rm) ov (rd a) (rd b) (rd c)).v
  | .fcvt _ a dst src rm ov => some (valFcvt dst src (rmOf ar rm) ov (rd a)).v
  | .fcvti _ a dst src rm => some (valFcvti dst src (rmOf ar rm) (rd a)).v
  | .icvtf _ a dst src rm ov => some (valIcvtf dst src (rmOf ar rm) ov (rd a)).v
  | .fpk8 _ a b c dst src rm ov => some (valFpk8 dst src (rmOf ar rm) ov (rd a) (rd b) (rd c)).v
  | .fupk8 _ a b dst src rm => some (valFupk8 dst src (rmOf ar rm) (rd a) (rd b)).v
  | _ => none

/-- A recipe-replay trap (R264, R401): index, VA of the load, descriptor with the operand field that named the soft register. -/
def recipeTrap {α : Type} (sub usub idx k : Nat) (va : Word) (lsize lvl : Nat) : M α := do
  let s ← get
  throw (.trap { trapOf s 0x0a sub (BitVec.ofNat 64 idx) va (accDesc .read lsize lvl + BitVec.ofNat 64 ((16 + k) * 2 ^ 11)) with usub := usub })

/-- A recipe load's translation and its class limits (R261). -/
def recipeXlate (idx k : Nat) (va : Word) (lsize : Nat) : M Xl := do
  let s ← get
  match xlateAs s (whoOf s.th) va.toNat false .read with
  | (.ok x, s') =>
    set (noteXlate s s' va x)
    match x.tgt with
    | .mem .W => pure x
    | .mem .D => if peWr x.leaf then recipeTrap 0x02 0 idx k va lsize ((x.lg - 12) / 9 + 1) else pure x
    | .win _ => recipeTrap 0x02 0 idx k va lsize 0
    | _ => recipeTrap 0x02 0 idx k va lsize ((x.lg - 12) / 9 + 1)
  | (.error (.fault sub lvl _), s') =>
    set s'
    recipeTrap 0x01 sub idx k va lsize lvl
  | (.error (.hold w), s') =>
    set s'
    throw (.wait w)

/-- PA of the scale byte of an element (R34): one byte for 16 or 32 elements of the page, at the scale frame. -/
def scalePa (x : Xl) (bytes : Nat) : Nat :=
  let blk := if peBgeo x.leaf = 1 then 16 else 32
  let off := x.va % 2 ^ x.lg
  peSframe x.leaf + off / bytes / blk

/-- An element of a format page and its scale byte, 127 where the page has none (R34, R332); whether the access was a singleton. -/
def readElement (x : Xl) (bytes : Nat) : M (Nat × Nat × Bool) := do
  let el ← readAt x bytes
  if peBgeo x.leaf = 0 then pure (leNat el.1, 127, el.2)
  else
    let sc ← readAt { x with pa := scalePa x bytes } 1
    pure (leNat el.1, leNat sc.1, el.2)

/-- One instruction of a recipe (R260, R261): `res` are the results before it, newest first. -/
def recipeStep (idx k : Nat) (i : Instr) (pc : Word) (res : List Word) : M Word := do
  let s ← get
  let rd (o : Opnd) : Word := match o with
    | .q j => res.getD j.val 0
    | o => opnd s o
  match i with
  | .ld _ a off sz =>
    let va := rd a + shortOff off sz
    if va.toNat % 2 ^ szLog sz ≠ 0 then recipeTrap 0x03 0 idx k va (szLog sz) 0
    else
      let x ← recipeXlate idx k va (szLog sz)
      let r ← readAt x (2 ^ szLog sz)
      pure (szExtend sz (BitVec.ofNat 64 (leNat r.1)))
  | .ldf _ a off df =>
    let va := rd a + off.signExtend 64
    let x ← recipeXlate idx k va 0
    match elFmt (peFmt x.leaf) with
    | none => recipeTrap 0x04 0 idx k va 0 ((x.lg - 12) / 9 + 1)
    | some f =>
      if va.toNat % f.bytes ≠ 0 then recipeTrap 0x03 0 idx k va f.bytes.log2 0
      else
        let e ← readElement x f.bytes
        pure (valLdf df f (rmOf s.th.a .dyn) e.1 e.2.1).v
  | i =>
    match recipeVal s.th.a i rd (fun o c => match o with | .r o => rd o | .k => c.signExtend 64) pc with
    | some v => pure v
    | none => pure 0

/-- The instructions of a recipe from its recorded words: each with its address and the words after it. -/
def recipeRun (idx k : Nat) : Nat → Nat → List Nat → List Word → M Word
  | 0, _, _, res => pure (res.headD 0)
  | fuel + 1, pc, ws, res =>
    match ws with
    | [] => pure (res.headD 0)
    | _ => match decode ws with
      | .error _ => pure (res.headD 0)
      | .ok (i, len) => do
        let v ← recipeStep idx k i (BitVec.ofNat 64 pc) res
        recipeRun idx k fuel (pc + 4 * len) (ws.drop len) (v :: res)

/-- The recipe image entry of an index in the thread's launch (R259). -/
def recipeOf (s : State) (idx : Nat) : Option Recipe :=
  match s.wk.launches.find? (fun l => l.lnum = s.th.lnum) with
  | none => none
  | some l => l.recipes.find? (fun r => r.idx = idx)

/-- The value of soft register k at the running instruction (R258, R261). -/
def evalSoft (k : Nat) : M Unit := do
  let s ← get
  match Assoc.get s.th.a.binds k with
  | none => pure ()
  | some idx =>
    match recipeOf s idx with
    | none => pure ()
    | some r =>
      set (perfTh s s.th 0x0e 1)
      let v ← recipeRun idx k 4 r.addr r.words []
      modify (fun s => { s with th := { s.th with kept := (k, v) :: s.th.kept } })

/-! ### Checks -/

/-- Illegal instruction (R278, R401). -/
def illegal {α : Type} (sub : Nat) : M α := trapM 0x05 sub 0 0 0

/-- Undeclared registers, then a soft destination (R251, R258, R278). -/
def declared (os : List Opnd) (d : Dest) : M Unit := do
  let s ← get
  let bad (o : Opnd) : Bool := match o with
    | .n k => decide (s.th.nreg ≤ k.val)
    | _ => false
  let badD := match d with
    | .reg k => decide (s.th.nreg ≤ k.val)
    | _ => false
  let softD := match d with
    | .reg k => isSoft s.th k.val
    | _ => false
  if os.any bad || badD then illegal 6
  else if softD then illegal 7
  else set { s with th := { s.th with kept := [] } }

/-- The soft operands evaluated (R261-R264), once each. -/
def softs : List Opnd → M Unit
  | [] => pure ()
  | .n k :: os => do
    let s ← get
    if isSoft s.th k.val && (Assoc.get s.th.kept k.val).isNone then evalSoft k.val else pure ()
    softs os
  | _ :: os => softs os

/-- The stall-count violation of R274 of the first operand field in order (R401): a fixed-latency producer nearer than its latency. Whether a
register that a soft operand's recipe reads can be one, the spec does not say: only fields of the instruction are checked
(notes/assumptions/69.md). -/
def stallOf (t : Thread) : List Opnd → Option (Nat × Nat × Nat)
  | [] => none
  | o :: os =>
    let r := match o with
      | .q i => some (qReg t.a i.val)
      | .n k => if isSoft t k.val then none else some (nReg t.a k.val)
      | _ => none
    match r with
    | some r => if t.a.dist - r.born < r.lat then some (o.code, t.a.dist - r.born, r.lat) else stallOf t os
    | none => stallOf t os

/-- With CHK = 1 a violation traps (R274); with CHK = 0 the operand is waited for, which only takes time. -/
def stallCheck (os : List Opnd) : M Unit := do
  let s ← get
  if !s.th.a.chk then pure ()
  else match stallOf s.th os with
    | some (f, dist, l) => trapM 0x0c 0 (BitVec.ofNat 64 f) (BitVec.ofNat 64 dist) (BitVec.ofNat 64 l)
    | none => pure ()

/-- Every check of an instruction in the order of R396: encoding, the soft operands that name an address, the checks of causes 6 to 9
that read them, the other soft operands, the stall counts. -/
def checks (addr others : List Opnd) (d : Dest) (early : M Unit) : M Unit := do
  declared (addr ++ others) d
  softs addr
  early
  softs others
  stallCheck (addr ++ others)

/-- Operands of LK long forms (R269). -/
def regsOf : List OpndK → List Opnd
  | [] => []
  | .r o :: os => o :: regsOf os
  | .k :: os => regsOf os

/-! ### Passing -/

/-- How a performed instruction passes. -/
inductive Ret where
  /-- in the chunk, to the next word -/
  | seq
  /-- in the chunk, to a target -/
  | jump (pc : Word)
  /-- as a singleton of R103: its stamp is LC + 1 -/
  | single
  /-- as a singleton access of R104, whose stamp LC already holds (R115) -/
  | access
  /-- as a singleton that continues elsewhere -/
  | singleJump (pc : Word)
  /-- the thread is no longer at this instruction -/
  | gone
  deriving DecidableEq, Repr

/-- The program counter after the instruction. -/
def nextPc (s : State) : Word := s.th.a.pc + BitVec.ofNat 64 (lenOfWords s.th.words)

/-- An instruction retired to `pc`: distance, suppress-once bit, counters (R274, R402, R424). -/
def advance (s : State) (pc : Word) : State :=
  let s1 := perfTh s s.th 2 1
  let s0 := if s.th.a.level = 0 then perfTh s1 s.th 1 1 else s1
  -- a wait that ends changes the core's trace state (R423)
  let s2 := if s.th.waited = 0 then s0 else postOnce s0 (.traceStateChange s.th.core)
  { s2 with th := { s2.th with
      a := { s2.th.a with pc := pc, dist := s2.th.a.dist + 1 + stallOfWords s2.th.words, suppress := false }
      status := .running, kept := [], longMiss := false, waited := 0
      answer := if s2.th.answered.isSome then none else s2.th.answer } }

/-- An instruction counted in its chunk, its earlier sub-chunks included (R102, R106): the 512th ends it. -/
def countIn (s : State) : State :=
  let s1 := { s with th := { s.th with boundary := false, chunk := { s.th.chunk with count := s.th.chunk.count + 1 } } }
  if 512 ≤ s1.th.chunk.before + s1.th.chunk.count then endChunk s1 else s1

/-- The target of a singleton as its event names it (R429): bit 63 and the number of another device. -/
def Chunk.target (c : Chunk) : Word :=
  match c.far with
  | some dev => BitVec.ofNat 64 (2 ^ 63 + dev % 1024)
  | none => 0

/-- A singleton passes (R103, R106, R117): a commit event with its stamp, recorded with its inputs; the next chunk starts. -/
def passSingle (s : State) (st : Nat) : State :=
  let t := s.th
  let stamp := replayStamp s t true st
  let s1 := t.chunk.dirty.foldl (fun s d => setEntryBit s d.2.2.1 6) (setLc s t.core (max (lcOf s t.core) stamp))
  let sc := perfTh s1 t 9 1
  let s2 := silOfThread sc t 1 [2, BitVec.ofNat 64 stamp, 1, freeWord2 sc, t.chunk.target]
  let s3 := if t.marked || t.leave then postOnce s2 (.threadEviction t.uid) else s2
  let a := { t.a with lastStamp := stamp }
  logCommit { s3 with
    th := { t with a := a, chunk := Chunk.fresh a, boundary := false, seq := t.seq + 1
                   status := match heldForChoice s t.uid with
                     | some f => .waiting (.choice f)
                     | none => t.status } }
    { part := t.part, identity := t.origin, seq := t.seq, stamp := stamp, core := t.core, values := t.chunk.logged.reverse } true

/-- The state after a performed instruction. -/
def retire (s : State) : Ret → State
  | .seq => countIn (advance s (nextPc s))
  | .jump pc => countIn (advance s pc)
  | .single => passSingle (advance s (nextPc s)) (lcOf s s.th.core + 1)
  | .access => passSingle (advance s (nextPc s)) (lcOf s s.th.core)
  | .singleJump pc => passSingle (advance s pc) (lcOf s s.th.core + 1)
  | .gone => s

/-- The thread waits at its instruction (R210). -/
def waitAt (s0 : State) (w : Wait) : State :=
  -- a singleton that waits is performed again from its start: it has recorded nothing yet
  let s : State := if s0.th.boundary then { s0 with th := { s0.th with chunk := { s0.th.chunk with logged := [] } } } else s0
  if s.th.waited ≠ 0 then { s with th := { s.th with status := .waiting w } }
  else postOnce { s with
    th := { s.th with status := .waiting w, waited := s.wk.admits }, wk := { s.wk with admits := s.wk.admits + 1 } }
    (.traceStateChange s.th.core)

/-- What a stop does, but for the end of a chunk before a singleton. -/
def stopAt (s : State) : Stop → State
  | .trap t => raise s t
  | .wait w => waitAt s w
  | .cut => endForSingle s
  | .overflow => endChunkAs s false

/-- An instruction of the front thread performed. Where its chunk must end first and reaches its commit point at once, the instruction
follows in the same step. -/
def perform (m : M Ret) (s : State) : Out :=
  match m s with
  | .ok r s1 => .next (retire s1 r)
  | .error .cut s1 =>
    let s2 := endForSingle s1
    if s2.th.boundary ∧ s2.th.status = .running ∧ replayTurn s2 s2.th then
      match m s2 with
      | .ok r s3 => .next (retire s3 r)
      | .error e s3 => .next (stopAt s3 e)
    else .next s2
  | .error e s1 => .next (stopAt s1 e)

/-! ### Shapes of instructions -/

/-- A result pushed in the chunk. -/
def deliver (d : Dest) (v : Word) (lat : Nat) : M Ret := do
  modify (fun s => pushResult s d v lat)
  pure .seq

/-- A result pushed by a singleton: in place before the next chunk starts (R273). -/
def deliverSingle (d : Dest) (v : Word) : M Ret := do
  modify (fun s => pushResult s d v 0)
  pure .single

/-- An instruction without early checks. -/
def simple (os : List Opnd) (d : Dest) (m : M Ret) (s : State) : Out :=
  perform (do checks os [] d (pure ()); m) s

/-- An instruction that delivers a value of the state (operands included) with a fixed latency. -/
def valueOp (os : List Opnd) (d : Dest) (lat : Nat) (f : State → Word) (s : State) : Out :=
  simple os d (do let s ← get; deliver d (f s) lat) s

/-- A two-operand value. -/
def bin (lat : Nat) (f : Word → Word → Word) (d : Dest) (a b : Opnd) (s : State) : Out :=
  valueOp [a, b] d lat (fun s => f (opnd s a) (opnd s b)) s

/-- A one-operand value. -/
def un (lat : Nat) (f : Word → Word) (d : Dest) (a : Opnd) (s : State) : Out :=
  valueOp [a] d lat (fun s => f (opnd s a)) s

/-- A value of a register and an immediate (R295). -/
def imm (f : Word → Word → Word) (d : Dest) (a : Opnd) (i : BitVec 10) (s : State) : Out :=
  valueOp [a] d 1 (fun s => f (opnd s a) (i.signExtend 64)) s

/-- A value of an operand and K (R277). -/
def immLong (f : Word → Word → Word) (d : Dest) (a : OpndK) (k : IWord) (s : State) : Out :=
  valueOp (regsOf [a]) d 1 (fun s => f (opndK s a k) (k.signExtend 64)) s

/-- A singleton of R103: the chunk ends before it. -/
def singleOp (addr others : List Opnd) (d : Dest) (early : M Unit) (m : M Ret) (s : State) : Out :=
  perform (do checks addr others d early; needSingle; m) s

/-- In a view, an operation that would be seen outside (R147). -/
def notInView (sub : Nat) : M Unit := do
  let s ← get
  if inView s then external sub 0 else pure ()

end Sys2Proof.Machine
end

