-- ==== Sys2Proof/Machine/Alu.lean ====
section
/-! DEFINITION. Alu.lean: the integer and address instructions (R286-R295, R277). -/

namespace Sys2Proof.Machine

/-- ADD (R286). -/
def execAdd (d : Dest) (a b : Opnd) (s : State) : Out := bin 1 valAdd d a b s

/-- SUB (R286). -/
def execSub (d : Dest) (a b : Opnd) (s : State) : Out := bin 1 valSub d a b s

/-- MUL (R286). -/
def execMul (d : Dest) (a b : Opnd) (s : State) : Out := bin 3 valMul d a b s

/-- MULH_S (R286). -/
def execMulhS (d : Dest) (a b : Opnd) (s : State) : Out := bin 3 valMulhS d a b s

/-- MULH_Z (R286). -/
def execMulhZ (d : Dest) (a b : Opnd) (s : State) : Out := bin 3 valMulhZ d a b s

/-- MIN_S (R286). -/
def execMinS (d : Dest) (a b : Opnd) (s : State) : Out := bin 1 valMinS d a b s

/-- MIN_Z (R286). -/
def execMinZ (d : Dest) (a b : Opnd) (s : State) : Out := bin 1 valMinZ d a b s

/-- MAX_S (R286). -/
def execMaxS (d : Dest) (a b : Opnd) (s : State) : Out := bin 1 valMaxS d a b s

/-- MAX_Z (R286). -/
def execMaxZ (d : Dest) (a b : Opnd) (s : State) : Out := bin 1 valMaxZ d a b s

/-- AND (R288). -/
def execAnd (d : Dest) (a b : Opnd) (s : State) : Out := bin 1 valAnd d a b s

/-- OR (R288). -/
def execOr (d : Dest) (a b : Opnd) (s : State) : Out := bin 1 valOr d a b s

/-- XOR (R288). -/
def execXor (d : Dest) (a b : Opnd) (s : State) : Out := bin 1 valXor d a b s

/-- ANDN (R288). -/
def execAndn (d : Dest) (a b : Opnd) (s : State) : Out := bin 1 valAndn d a b s

/-- ORN (R288). -/
def execOrn (d : Dest) (a b : Opnd) (s : State) : Out := bin 1 valOrn d a b s

/-- SHL (R289). -/
def execShl (d : Dest) (a b : Opnd) (s : State) : Out := bin 1 valShl d a b s

/-- SHR (R289). -/
def execShr (d : Dest) (a b : Opnd) (s : State) : Out := bin 1 valShr d a b s

/-- SAR (R289). -/
def execSar (d : Dest) (a b : Opnd) (s : State) : Out := bin 1 valSar d a b s

/-- ROTL (R289). -/
def execRotl (d : Dest) (a b : Opnd) (s : State) : Out := bin 1 valRotl d a b s

/-- CMP_EQ (R291). -/
def execCmpEq (d : Dest) (a b : Opnd) (s : State) : Out := bin 1 valCmpEq d a b s

/-- CMP_NE (R291). -/
def execCmpNe (d : Dest) (a b : Opnd) (s : State) : Out := bin 1 valCmpNe d a b s

/-- CMP_LT_S (R291). -/
def execCmpLtS (d : Dest) (a b : Opnd) (s : State) : Out := bin 1 valCmpLtS d a b s

/-- CMP_LT_Z (R291). -/
def execCmpLtZ (d : Dest) (a b : Opnd) (s : State) : Out := bin 1 valCmpLtZ d a b s

/-- CMP_LE_S (R291). -/
def execCmpLeS (d : Dest) (a b : Opnd) (s : State) : Out := bin 1 valCmpLeS d a b s

/-- CMP_LE_Z (R291). -/
def execCmpLeZ (d : Dest) (a b : Opnd) (s : State) : Out := bin 1 valCmpLeZ d a b s

/-- CRC_8 (R293). -/
def execCrc8 (d : Dest) (a b : Opnd) (s : State) : Out := bin 3 (valCrc 1) d a b s

/-- CRC_16 (R293). -/
def execCrc16 (d : Dest) (a b : Opnd) (s : State) : Out := bin 3 (valCrc 2) d a b s

/-- CRC_32 (R293). -/
def execCrc32 (d : Dest) (a b : Opnd) (s : State) : Out := bin 3 (valCrc 4) d a b s

/-- CRC_64 (R293). -/
def execCrc64 (d : Dest) (a b : Opnd) (s : State) : Out := bin 3 (valCrc 8) d a b s

/-- BFX_S (R294). -/
def execBfxS (d : Dest) (a b : Opnd) (s : State) : Out := bin 1 valBfxS d a b s

/-- BFX_Z (R294). -/
def execBfxZ (d : Dest) (a b : Opnd) (s : State) : Out := bin 1 valBfxZ d a b s

/-- NEG (R286). -/
def execNeg (d : Dest) (a : Opnd) (s : State) : Out := un 1 valNeg d a s

/-- ABS (R286). -/
def execAbs (d : Dest) (a : Opnd) (s : State) : Out := un 1 valAbs d a s

/-- CLZ (R290). -/
def execClz (d : Dest) (a : Opnd) (s : State) : Out := un 1 valClz d a s

/-- CTZ (R290). -/
def execCtz (d : Dest) (a : Opnd) (s : State) : Out := un 1 valCtz d a s

/-- POPC (R290). -/
def execPopc (d : Dest) (a : Opnd) (s : State) : Out := un 1 valPopc d a s

/-- BREV (R290). -/
def execBrev (d : Dest) (a : Opnd) (s : State) : Out := un 1 valBrev d a s

/-- BSWAP (R290). -/
def execBswap (d : Dest) (a : Opnd) (s : State) : Out := un 1 valBswap d a s

/-- SEXT_8 (R290). -/
def execSext8 (d : Dest) (a : Opnd) (s : State) : Out := un 1 valSext8 d a s

/-- SEXT_16 (R290). -/
def execSext16 (d : Dest) (a : Opnd) (s : State) : Out := un 1 valSext16 d a s

/-- SEXT_32 (R290). -/
def execSext32 (d : Dest) (a : Opnd) (s : State) : Out := un 1 valSext32 d a s

/-- ZEXT_8 (R290). -/
def execZext8 (d : Dest) (a : Opnd) (s : State) : Out := un 1 valZext8 d a s

/-- ZEXT_16 (R290). -/
def execZext16 (d : Dest) (a : Opnd) (s : State) : Out := un 1 valZext16 d a s

/-- ZEXT_32 (R290). -/
def execZext32 (d : Dest) (a : Opnd) (s : State) : Out := un 1 valZext32 d a s

/-- DIV_S (R287). -/
def execDivS (d : Dest) (a b : Opnd) (s : State) : Out := bin 0 valDivS d a b s

/-- DIV_Z (R287). -/
def execDivZ (d : Dest) (a b : Opnd) (s : State) : Out := bin 0 valDivZ d a b s

/-- REM_S (R287). -/
def execRemS (d : Dest) (a b : Opnd) (s : State) : Out := bin 0 valRemS d a b s

/-- REM_Z (R287). -/
def execRemZ (d : Dest) (a b : Opnd) (s : State) : Out := bin 0 valRemZ d a b s

/-- SEL (R292). -/
def execSel (d : Dest) (a b : Opnd) (s : State) : Out :=
  valueOp [.q 0, a, b] d 1 (fun s => valSel (opnd s (.q 0)) (opnd s a) (opnd s b)) s

/-- BFI (R294). -/
def execBfi (d : Dest) (a b : Opnd) (s : State) : Out :=
  valueOp [.q 0, a, b] d 1 (fun s => valBfi (opnd s (.q 0)) (opnd s a) (opnd s b)) s

/-- ADDI (R295). -/
def execAddi (d : Dest) (a : Opnd) (i : BitVec 10) (s : State) : Out := imm valAdd d a i s

/-- ADDI_LONG (R277). -/
def execAddiLong (d : Dest) (a : OpndK) (k : IWord) (s : State) : Out := immLong valAdd d a k s

/-- SHLI (R295). -/
def execShli (d : Dest) (a : Opnd) (i : BitVec 10) (s : State) : Out := imm valShl d a i s

/-- SHLI_LONG (R277). -/
def execShliLong (d : Dest) (a : OpndK) (k : IWord) (s : State) : Out := immLong valShl d a k s

/-- SHRI (R295). -/
def execShri (d : Dest) (a : Opnd) (i : BitVec 10) (s : State) : Out := imm valShr d a i s

/-- SHRI_LONG (R277). -/
def execShriLong (d : Dest) (a : OpndK) (k : IWord) (s : State) : Out := immLong valShr d a k s

/-- SARI (R295). -/
def execSari (d : Dest) (a : Opnd) (i : BitVec 10) (s : State) : Out := imm valSar d a i s

/-- SARI_LONG (R277). -/
def execSariLong (d : Dest) (a : OpndK) (k : IWord) (s : State) : Out := immLong valSar d a k s

/-- LIH (R295). -/
def execLih (d : Dest) (a : Opnd) (i : BitVec 10) (s : State) : Out := imm valLih d a i s

/-- LIH_LONG (R277). -/
def execLihLong (d : Dest) (a : OpndK) (k : IWord) (s : State) : Out := immLong valLih d a k s

/-- LI (R295). -/
def execLi (d : Dest) (i : BitVec 10) (s : State) : Out := valueOp [] d 1 (fun _ => i.signExtend 64) s

/-- LI_LONG (R277). -/
def execLiLong (d : Dest) (k : IWord) (s : State) : Out := valueOp [] d 1 (fun _ => k.signExtend 64) s

/-- LEA (R295). -/
def execLea (d : Dest) (i : BitVec 10) (s : State) : Out :=
  valueOp [] d 1 (fun s => s.th.a.pc + (i.signExtend 64 <<< 2)) s

/-- LEA_LONG (R277). -/
def execLeaLong (d : Dest) (k : IWord) (s : State) : Out :=
  valueOp [] d 1 (fun s => s.th.a.pc + (k.signExtend 64 <<< 2)) s

end Sys2Proof.Machine
end

