-- ==== Sys2Proof/Machine/Flags.lean ====
section
/-! DEFINITION. Flags.lean: FPFLAGS and enabled exceptions (R235-R237, `fp_finish` of R280). -/

namespace Sys2Proof.Machine

/-- The exceptions that FPCTL enables, in the layout of FPFLAGS (R235, R236). -/
def enabledFlags (a : Arch) : Nat := a.fpctl.bits 12 8

/-- FPFLAGS with exceptions raised (R236). -/
def orFlags (a : Arch) (fl : Nat) : Arch := { a with fpflags := a.fpflags ||| BitVec.ofNat 64 (fl % 32) }

/-- An enabled exception traps with every exception raised and the value that would have been delivered (R237, R401). -/
def fpEnabled (r : FV) : M Unit := do
  let s ← get
  if r.fl &&& enabledFlags s.th.a ≠ 0 then trapM 0x0b 0 (BitVec.ofNat 64 r.fl) r.v 0 else pure ()

/-- `fp_finish` of R280: an enabled exception traps; else the flags are set and the result is pushed. -/
def fpFinish (d : Dest) (r : FV) (lat : Nat) : M Ret := do
  fpEnabled r
  modify (fun s => updArch s (fun a => orFlags a r.fl))
  deliver d r.v lat

/-- A floating-point instruction from the values of its operands. One that violates a stall count is not performed, so that it raises no
enabled exception (R274, R397). -/
def fpOp (os : List Opnd) (d : Dest) (lat : Nat) (f : State → FV) (s : State) : Out :=
  perform (do
    checks [] os d (pure ())
    let s ← get
    fpFinish d (f s) lat) s

/-- A two-operand operation that rounds. -/
def fp2r (f : FFmt → Rm → Ovf → Word → Word → FV) (lat : Nat) (d : Dest) (a b : Opnd) (fm : FFmt) (rm : Rm) (ov : Ovf) (s : State) :
    Out :=
  fpOp [a, b] d lat (fun s => f fm (rmOf s.th.a rm) ov (opnd s a) (opnd s b)) s

/-- A one-operand operation that rounds. -/
def fp1r (f : FFmt → Rm → Ovf → Word → FV) (lat : Nat) (d : Dest) (a : Opnd) (fm : FFmt) (rm : Rm) (ov : Ovf) (s : State) : Out :=
  fpOp [a] d lat (fun s => f fm (rmOf s.th.a rm) ov (opnd s a)) s

/-- A two-operand operation that does not round. -/
def fp2 (f : FFmt → Word → Word → FV) (lat : Nat) (d : Dest) (a b : Opnd) (fm : FFmt) (s : State) : Out :=
  fpOp [a, b] d lat (fun s => f fm (opnd s a) (opnd s b)) s

/-- A one-operand operation that does not round. -/
def fp1 (f : FFmt → Word → FV) (lat : Nat) (d : Dest) (a : Opnd) (fm : FFmt) (s : State) : Out :=
  fpOp [a] d lat (fun s => f fm (opnd s a)) s

/-- A fused operation (R306). -/
def fused (negP negC : Bool) (d : Dest) (a b c : Opnd) (fm : FFmt) (rm : Rm) (ov : Ovf) (s : State) : Out :=
  fpOp [a, b, c] d 4 (fun s => valFused negP negC fm (rmOf s.th.a rm) ov (opnd s a) (opnd s b) (opnd s c)) s

end Sys2Proof.Machine
end

