-- ==== Sys2Proof/Machine/Memory.lean ====
section
/-! DEFINITION. Memory.lean: loads, stores, decoding loads, cache hints, atomics, fences, monitors and refresh queries (R323-R337,
R340-R343), with the orders of R122 and the ticket of R126. -/

namespace Sys2Proof.Machine

/-- How an access passes: in the chunk, or as a singleton access (R104). -/
def accessRet (single : Bool) : Ret := if single then .access else .seq

/-! ### Loads and stores -/

/-- A load (R329) from an address of the state. -/
def loadOp (os : List Opnd) (d : Dest) (va : State → Word) (sz : MemSz) (s : State) : Out :=
  perform (do
    checks os [] d (do
      let s ← get
      checkAlign (va s) .read (szLog sz)
      let _ ← xlate (va s) .read (szLog sz))
    let s ← get
    let r ← memRead (va s) (szLog sz)
    modify (fun s => pushResult s d (szExtend sz r.1) 0)
    pure (accessRet r.2)) s

/-- LD (R327, R329). -/
def execLd (d : Dest) (a : Opnd) (off : BitVec 7) (sz : MemSz) (s : State) : Out :=
  loadOp [a] d (fun s => opnd s a + shortOff off sz) sz s

/-- LD_LONG (R328, R329). -/
def execLdLong (d : Dest) (a : OpndK) (sz : MemSz) (k : IWord) (s : State) : Out :=
  loadOp (regsOf [a]) d (fun s => opndK s a k + k.signExtend 64) sz s

/-- A store (R329) of an operand of the state. -/
def storeOp (addr val : List Opnd) (va v : State → Word) (sz : MemSz) (s : State) : Out :=
  perform (do
    checks addr val .drop (do
      let s ← get
      checkAlign (va s) .write (szLog sz)
      let x ← xlate (va s) .write (szLog sz)
      viewStore x)
    let s ← get
    let single ← memWriteM (va s) (szLog sz) (v s)
    pure (accessRet single)) s

/-- ST (R327, R329). -/
def execSt (v a : Opnd) (off : BitVec 7) (sz : MemSz) (s : State) : Out :=
  storeOp [a] [v] (fun s => opnd s a + shortOff off sz) (fun s => opnd s v) sz s

/-- ST_LONG (R328, R329). -/
def execStLong (v a : OpndK) (sz : MemSz) (k : IWord) (s : State) : Out :=
  storeOp (regsOf [a]) (regsOf [v]) (fun s => opndK s a k + k.signExtend 64) (fun s => opndK s v k) sz s

/-- The element format of a translation, none for a page without one and outside memory (R332). -/
def elementOf (x : Xl) : Option ElFmt :=
  match x.tgt with
  | .mem _ => elFmt (peFmt x.leaf)
  | _ => none

/-- A decoding load (R332): translated first, then aligned to the width of the page's format. -/
def decodeLoad (os : List Opnd) (d : Dest) (va : State → Word) (rm : Rm) (df : FF4) (s : State) : Out :=
  perform (do
    checks os [] d (do
      let s ← get
      let x ← xlate (va s) .read 0
      match elementOf x with
      | some f => checkAlign (va s) .read f.bytes.log2
      | none => pure ())
    let s ← get
    let x ← xlate (va s) .read 0
    match elementOf x with
    | none => misuse 0x08 (va s)
    | some f =>
      let e ← readElement x f.bytes
      let _ ← fpFinish d (valLdf df f (rmOf s.th.a rm) e.1 e.2.1) 0
      pure (accessRet e.2.2)) s

/-- LDF (R330, R332). -/
def execLdf (d : Dest) (a : Opnd) (off : BitVec 8) (df : FF4) (s : State) : Out :=
  decodeLoad [a] d (fun s => opnd s a + off.signExtend 64) .dyn df s

/-- LDF_LONG (R331, R332). -/
def execLdfLong (d : Dest) (a : OpndK) (rm : Rm) (df : FF4) (k : IWord) (s : State) : Out :=
  decodeLoad (regsOf [a]) d (fun s => opndK s a k + k.signExtend 64) rm df s

/-! ### Prefetch, write-back, invalidate (R333) -/

/-- PF (R333): it may be ignored, and never faults for its address. -/
def execPf (a : Opnd) (s : State) : Out :=
  perform (do
    declared [a] .drop
    stallCheck [a]
    pure .seq) s

/-- An operation on the line of an address, translated as a read. -/
def lineOp (a : Opnd) (m : Xl → M Unit) (s : State) : Out :=
  perform (do
    checks [a] [] .drop (do
      let s ← get
      let _ ← xlate (opnd s a) .read 0)
    let s ← get
    let x ← xlate (opnd s a) .read 0
    m x
    pure .seq) s

/-- WB (R333). -/
def execWb (a : Opnd) (s : State) : Out :=
  lineOp a (fun x =>
    if x.tgt = .mem .D ∨ x.tgt = .mem .G then
      updChunk (fun c => { c with wbs := c.wbs ++ [lineOf x.pa] })
    else pure ()) s

/-- Bytes of a line that the running chunk has written. -/
def chunkMask (s : State) (line : Nat) : Nat := maskOf (fun i => (Assoc.get s.th.chunk.gwrites (line + i)).isSome)

/-- A G line's bytes under a mask made invalid, dirty ones first written back under mask (R92, R333). -/
def invalidateG (s : State) (line mask : Nat) : State :=
  match l1Get s s.th.core line with
  | none => s
  | some l =>
    if l.cls ≠ .G then s
    else
      let s1 := gWriteBack s l mask s.th.cause
      match l1Get s1 s.th.core line with
      | some l' => l1Put s1 { l' with valid := l'.valid &&& (fullMask ^^^ mask) }
      | none => s1

/-- INV (R333). -/
def execInv (a : Opnd) (s : State) : Out :=
  lineOp a (fun x =>
    if x.tgt = .mem .G then modify (fun s => invalidateG s (lineOf x.pa) (fullMask ^^^ chunkMask s (lineOf x.pa)))
    else if x.tgt = .mem .W then modify (fun s => if hasLine s (lineOf x.pa) .W then l1Drop s s.th.core (lineOf x.pa) else s)
    else pure ()) s

/-! ### Orders (R122, R126) -/

def releases : Ord → Bool
  | .rel => true
  | .ar => true
  | .sc => true
  | _ => false

def acquires : Ord → Bool
  | .acq => true
  | .ar => true
  | .sc => true
  | _ => false

/-- Whether an operation takes a ticket of the global sequencer (R126, R337). -/
def ticketed (ord : Ord) (scope : Scope) : Bool := ord == .sc && (scope == .dom || scope == .sys)

/-- The thread's posted stores have been performed (R122). -/
def postedDone : M Unit := do
  let s ← get
  if s.coh.posted.any (fun p => p.uid = s.th.uid) then throw (.wait .posted) else pure ()

/-- Every write-back of guarded bytes of the core has been acknowledged by its home (R91, R122). -/
def writesDone : M Unit := do
  let s ← get
  if coreWritesPending s s.th.core then throw (.wait .posted) else pure ()

/-- The release of R122. -/
def releaseM : M Unit := do
  postedDone
  modify (fun s => releaseG s s.th.core (ctxOf s.th) s.th.cause)
  writesDone

/-- The acquire of R122. -/
def acquireM : M Unit := modify (fun s => acquireG s s.th.core (ctxOf s.th))

/-- A ticket (R126): the request goes to the sequencer, and the operation is performed when its ticket's turn has come. The log records the
ticket (R438), and a replay takes it from there (R441). -/
def ticketM : M Word := do
  let s ← get
  if (replayedVal s).isSome || s.th.answered.isSome then logValue (s.th.answered.getD 0)
  else if s.sys.ticketQueue.contains s.th.uid then throw (.wait .ticket)
  else
    set (post { s with sys := { s.sys with ticketQueue := s.sys.ticketQueue ++ [s.th.uid] } } (.sequencerTicket s.th.uid))
    throw (.wait .ticket)

/-- A home has performed an operation with a ticket (R127). -/
def markPerformed (s : State) (home ticket : Nat) : State :=
  { s with sys := { s.sys with performed := Assoc.set s.sys.performed home (max ticket (Assoc.getD s.sys.performed home 0)) } }

/-! ### Operations at a home or bank (R104, R115, R124) -/

/-- A read-modify-write of `n` bytes at its line's home, `op` as the home receives it; the old value. Nothing is written where `f` gives none.
An access takes the context's tag (R65). -/
def atOwnHome (x : Xl) (n : Nat) (op : HomeOp) (f : Nat → Option Nat) : M Nat := do
  let line := lineOf x.pa
  needTurn x.pa op
  poisonStop line
  if x.tgt = .mem .U then uCount line else modify (fun s => retag s line (ctxOf s.th))
  let st ← singleStamp line
  let s ← get
  let old := leNat (cellsRead s.mem.cells x.pa n)
  match f old with
  | none => pure ()
  | some v =>
    set (wakeWatchers (homeWriteAt s x.pa ((leBytes n v).map some) st) line)
    markDirty x
  turnDone line
  pure old

/-- The same at another device: what it reads is recorded, and in replay nothing is changed there (R438, R441). -/
def atOtherHome (x : Xl) (n : Nat) (f : Nat → Option Nat) : M Nat := do
  let line := lineOf x.pa
  let bs ← outside x .rmw n (do
    let st ← singleStamp line
    let s ← get
    match f (leNat (cellsRead s.mem.cells x.pa n)) with
    | none => pure ()
    | some v => set (wakeWatchers (setStamp (memWrite s x.pa (leBytes n v)) line st) line)
    pure (cellsRead s.mem.cells x.pa n))
  match f (leNat bs) with
  | none => pure ()
  | some _ => markDirty x
  pure (leNat bs)

/-- A read-modify-write at the home of a line, as a singleton. -/
def atHome (x : Xl) (n : Nat) (op : HomeOp) (f : Nat → Option Nat) : M Nat := do
  let s ← get
  if isLocal s x.pa then atOwnHome x n op f else atOtherHome x n f

/-- The same at a scratchpad bank. -/
def atBank (x : Xl) (n : Nat) (f : Nat → Option Nat) : M Nat := do
  poisonStop (lineOf x.pa)
  let st ← singleStamp (lineOf x.pa)
  let s ← get
  let old := leNat (cellsRead s.mem.cells x.pa n)
  match f old with
  | none => pure ()
  | some v => set (writeBank s x.pa ((leBytes n v).map some) st)
  pure old

/-- The same on local D-class memory, in the chunk. -/
def inChunk (x : Xl) (n : Nat) (f : Nat → Option Nat) : M Nat := do
  let b ← readD x.pa n
  let old := leNat b
  match f old with
  | none => pure ()
  | some v => writeD x (leBytes n v)
  pure old

/-! ### Atomics (R334-R336) -/

def amoBits (w : AmoW) : Nat := if w = .s32 ∨ w = .z32 then 32 else 64
def amoSigned (w : AmoW) : Bool := w == .s32 || w == .s64
/-- The value delivered, extended as FMT says. -/
def amoExtend (w : AmoW) (old : Nat) : Word := if w = .s32 then sext 32 (BitVec.ofNat 64 old) else BitVec.ofNat 64 old

/-- f(old, x) of R335, its low w bits. -/
def amoNew (w : AmoW) (op : AmoOp) (old x : Nat) : Nat :=
  let n := amoBits w
  let b := x % 2 ^ n
  let less : Bool := if amoSigned w then decide (Sys2Proof.signed n b < Sys2Proof.signed n old) else decide (b < old)
  match op with
  | .swap => b
  | .add => (old + b) % 2 ^ n
  | .and => old &&& b
  | .or => old ||| b
  | .xor => old ^^^ b
  | .min => if less then b else old
  | .max => if less then old else b

/-- What `cas` writes (R335). -/
def casNew (w : AmoW) (cmp new old : Nat) : Option Nat :=
  if old = cmp % 2 ^ amoBits w then some (new % 2 ^ amoBits w) else none

/-- Translation of an atomic (R50, R336): as a read and then as a write. A W-class target fails its write check here, a replica page's too
(notes/assumptions/30.md). -/
def xlateAtomic (va : Word) (lsize : Nat) : M Xl := xlate va .rmw lsize

/-- Whether an address is the SYNCWORD of an arbiter object, by what stands in the line at its home (R90, R148). -/
def isArbiter (s : State) (x : Xl) : Bool :=
  x.tgt == .mem .U && decide (x.pa % 64 < 8) && bitAt (homeByte s (lineOf x.pa + 8)).toNat 7

/-- What an atomic's target must be in a rival (R147, R148, R336). -/
def viewAtomic (x : Xl) (ord : Ord) (scope : Scope) : M Unit := do
  let s ← get
  if !inView s then pure ()
  else if ticketed ord scope then external 0x05 0
  else if (x.tgt = .mem .D ∧ isLocal s x.pa) ∨ isArbiter s x then pure ()
  else external 0x01 (BitVec.ofNat 64 x.va)

/-- An atomic after its checks (R124, R336). -/
def atomicM (d : Dest) (va : Word) (w : AmoW) (ord : Ord) (scope : Scope) (op : HomeOp) (f : Nat → Option Nat) : M Ret := do
  let n := amoBits w / 8
  let x ← xlateAtomic va n.log2
  let s ← get
  if x.tgt = .control ∨ x.tgt = .mem .W then misuse 0x0a va
  else if x.tgt = .mem .D ∧ isLocal s x.pa ∧ !ticketed ord scope then
    if releases ord then
      postedDone
      updChunk (fun c => { c with rel := true, acq := c.acq || ord == .sc })
    else pure ()
    let old ← inChunk x n f
    if acquires ord ∧ ord ≠ .sc then acquireM else pure ()
    deliver d (amoExtend w old) 0
  else
    needSingle
    if releases ord then releaseM else pure ()
    let ticket ← (if ticketed ord scope then ticketM else pure 0)
    if x.tgt = .mem .G then
      modify (fun s => invalidateG s (lineOf x.pa) (maskOf (fun i => decide (x.pa % 64 ≤ i ∧ i < x.pa % 64 + n))))
      modify (fun s => match l1Get s s.th.core (lineOf x.pa) with
        | some l => if l.cls = .G then gWriteBack s l fullMask s.th.cause else s
        | none => s)
      -- another device receives the write-back before the atomic (R124)
      let s ← get
      if s.coh.posted.any (fun p => p.back && p.core == s.th.core && p.pa == lineOf x.pa) then throw (.wait .posted) else pure ()
    else pure ()
    let old ← (match x.tgt with
      | .win _ => atBank x n f
      | _ => atHome x n op f)
    if ticketed ord scope then modify (fun s => markPerformed s (homeOf x.pa) ticket.toNat) else pure ()
    if acquires ord then acquireM else pure ()
    modify (fun s => pushResult s d (amoExtend w old) 0)
    pure .access

/-- An atomic from its operands (R336). -/
def atomicOp (d : Dest) (a : Opnd) (vals : List Opnd) (w : AmoW) (ord : Ord) (scope : Scope) (op : State → HomeOp)
    (f : State → Nat → Option Nat) (s : State) : Out :=
  perform (do
    checks [a] vals d (do
      let s ← get
      checkAlign (opnd s a) .rmw (amoBits w / 8).log2
      let x ← xlateAtomic (opnd s a) (amoBits w / 8).log2
      viewAtomic x ord scope)
    let s ← get
    atomicM d (opnd s a) w ord scope (op s) (f s)) s

/-- AMO (R334-R336). -/
def execAmo (d : Dest) (a b : Opnd) (w : AmoW) (ord : Ord) (scope : Scope) (op : AmoOp) (s : State) : Out :=
  atomicOp d a [b] w ord scope (fun s => .amo w op (opnd s b)) (fun s old => some (amoNew w op old (opnd s b).toNat)) s

/-- CAS (R334-R336). -/
def execCas (d : Dest) (a b c : Opnd) (w : AmoW) (ord : Ord) (scope : Scope) (s : State) : Out :=
  atomicOp d a [b, c] w ord scope (fun s => .cas w (opnd s b) (opnd s c)) (fun s old => casNew w (opnd s b).toNat (opnd s c).toNat old) s

/-- FENCE (R337): with `.rlx` it only ends the chunk. -/
def execFence (ord : Ord) (scope : Scope) (s : State) : Out :=
  singleOp [] [] .drop (if ticketed ord scope then notInView 0x05 else pure ()) (do
    if releases ord then releaseM else pure ()
    let _ ← (if ticketed ord scope then ticketM else pure 0)
    if acquires ord then acquireM else pure ()
    pure .single) s

/-! ### Monitors (R341, R342) -/

/-- The watch that stands for a thread: the one armed in its running chunk, else the one before (R341). -/
def watchOf (s : State) (uid : Nat) : Option Watch :=
  match s.coh.watches.find? (fun w => w.uid = uid ∧ w.fresh) with
  | some w => some w
  | none => s.coh.watches.find? (fun w => w.uid = uid)

/-- The oldest watch of a home slice that holds 8,192 is triggered to make room (R342). -/
def discardWatch (s : State) (line : Nat) : State :=
  let mine (w : Watch) : Bool := homeOf w.line == homeOf line && !w.forced
  if (s.coh.watches.filter mine).length < 8192 then s
  else match s.coh.watches.find? mine with
    | none => s
    | some w =>
      let s1 := ctlCount s (slCounter line 0x18) 1
      { s1 with coh := { s1.coh with watches := s1.coh.watches.map (fun v => if v = w then { v with forced := true } else v) } }

/-- The watch of a thread arrives at a line's home (R341). -/
def armWatch (s : State) (uid line : Nat) : State :=
  let s1 := discardWatch s line
  let kept := s1.coh.watches.filter (fun w => !(w.uid == uid && w.fresh))
  let w : Watch := { line := line, uid := uid, ref := stampOf s1 line, forced := false, fresh := true }
  { s1 with coh := { s1.coh with watches := kept ++ [w] } }

/-- A watch is triggered by a stamp above its reference (R341). -/
def triggered (s : State) (w : Watch) : Bool := w.forced || decide (w.ref < stampOf s w.line)

/-- A triggered watch that a `mwait` takes: it stays armed with the line's stamp (R342). -/
def rearm (s : State) (w : Watch) : State :=
  let ws := s.coh.watches.map (fun v => if v = w then { v with ref := stampOf s w.line, forced := false } else v)
  { s with coh := { s.coh with watches := ws } }

/-- MONITOR (R341). -/
def execMonitor (a : Opnd) (s : State) : Out :=
  perform (do
    checks [a] [] .drop (do
      let s ← get
      let _ ← xlateRep (opnd s a) .read .sync 0)
    let s ← get
    let x ← xlateRep (opnd s a) .read .sync 0
    match x.tgt with
    | .win _ => misuse 0x09 (opnd s a)
    | .control => misuse 0x09 (opnd s a)
    | .mem .W => misuse 0x09 (opnd s a)
    | .mem _ =>
      modify (fun s => updArch (armWatch s s.th.uid (lineOf x.pa)) (fun a => { a with monitor := some (lineOf x.pa) }))
      pure .seq) s

/-- The limit of a thread's `mwait` that has returned is no longer counted (R342). -/
def dropLimit (s : State) : State := { s with agenda := s.agenda.filter (fun e => e != .mwaitLimitExpiry s.th.uid) }

/-- MWAIT (R342). -/
def execMwait (d : Dest) (a : Opnd) (s : State) : Out :=
  singleOp [] [a] d (pure ()) (do
    let s ← get
    match s.th.a.monitor, watchOf s s.th.uid with
    | some _, some w =>
      if triggered s w || replayedVal s == some 1 then
        set (rearm (bumpLc (dropLimit s) s.th.core (stampOf s w.line)) w)
        let v ← logValue 1
        deliverSingle d v
      else if s.th.answered.isSome || replayedVal s == some 0 then
        set (dropLimit s)
        let v ← logValue 0
        deliverSingle d v
      else
        let limit : Event := .mwaitLimitExpiry s.th.uid
        let s1 := if opnd s a = 0 ∨ s.agenda.contains limit then s else post s limit
        set (depositToken s1 (.watch w.line))
        throw (.wait (.mwait w.line))
    | _, _ => deliverSingle d 2) s

/-- The count of `wsref` (R74, R76): 0 while the bank's window is open; else the windows still to come before it, 1,000 units apart, less the
time since the last opening, of which only the part (its window, or the time after it) is known. Before the die's epoch has shown
itself, a count below one period. -/
def wsrefCount (s : State) (die bank free : Nat) : Nat :=
  if s.sys.wsOpen.contains (die, bank) then 0
  else match Assoc.get s.sys.wsLast die with
    | none => free % 64000
    | some b =>
      let gap := (bank + 64 - b) % 64
      let since := if s.sys.wsOpen.contains (die, b) then free % 513 else 512 + free % 489
      (if gap = 0 then 64 else gap) * 1000 - since

/-- WSREF (R343): the count of R76. -/
def execWsref (d : Dest) (a : Opnd) (s : State) : Out :=
  perform (do
    checks [a] [] d (do
      let s ← get
      let _ ← xlate (opnd s a) .read 0)
    let s ← get
    let x ← xlate (opnd s a) .read 0
    if x.tgt = .mem .W then
      let p := paLocal x.pa
      modify tickFree
      let v ← logValue (BitVec.ofNat 64 (wsrefCount s ((p - weightBase) / 0x40000000) (weightBank p) (freeWord s).toNat))
      deliver d v 0
    else
      let v ← logValue 0xffffffffffffffff#64
      deliver d v 0) s

end Sys2Proof.Machine
end

