-- ==== Sys2Proof/Machine/DebugOps.lean ====
section
/-! DEFINITION. DebugOps.lean: halts and releases of a cluster (R419-R421), comparators (R402, R417) and core trace (R422, R423). -/

namespace Sys2Proof.Machine

/-! ### Halts (R419, R420) -/

/-- What a thread is when it has been halted: a wait is kept, but for that of a commit. -/
def Status.haltedAs : Status → Status
  | .running => .halted none
  | .waiting .commit => .halted none
  | .waiting w => .halted (some w)
  | st => st

/-- Whether a thread runs a chunk in which an instruction has retired. -/
def midChunk (t : Thread) : Bool := !t.boundary && t.chunk.phase == .running && decide (0 < t.chunk.before + t.chunk.count)

/-- The front thread stopped by a halt (R102, R419): a running chunk ends after its last retired instruction and proceeds to its commit point,
also where its next instruction waits for an access; any other wait is kept. A line reserved for its access is free. -/
def haltFront (s0 : State) : State :=
  let s := dropTurns s0 s0.th.uid
  match s.th.status with
  | .running =>
    let s1 := if midChunk s.th then endChunk s else s
    { s1 with th := { s1.th with status := s1.th.status.haltedAs } }
  | .waiting _ =>
    let s1 := if midChunk s.th then endChunk { s with th := { s.th with status := .running, waited := 0 } } else s
    { s1 with th := { s1.th with status := s1.th.status.haltedAs } }
  | _ => s

/-- The front thread released: it waits as before, or runs on. -/
def releaseFront (s : State) : State :=
  match s.th.status with
  | .halted (some w) => { s with th := { s.th with status := .waiting w } }
  | .halted none =>
    let s1 := if s.th.pendTrap.isSome then post s (.trapDelivery s.th.uid) else s
    { s1 with th := { s.th with status := if s.th.chunk.phase = .running ∧ s.th.pendTrap = none then .running else .waiting .commit } }
  | _ => s

/-- Threads of a cluster. -/
def threadsOf (s : State) (cl : Nat) : List Thread := (threads s).filter (fun t => t.status ≠ .vacant ∧ clusterOf t.core = cl)

/-- A debug halt of a cluster (R419): cause as DSTAT.HCAUSE, and the comparator. A halt raised in the module is placed on the
cross-trigger bus when DRIVE is set (R421). -/
def haltCluster (s : State) (cl hcause cmp : Nat) : State :=
  if clusterHalted s cl then s
  else
    let off := dmAddr cl 0x88
    let old := ctlGet s off
    let st := (((old.putBits 11 8 cmp).putBits 7 4 hcause).putBits 1 0 1)
    let s1 := ctlSet { s with dbg := { s.dbg with halted := cl :: s.dbg.halted } } off (if hcause = 4 then st.putBits 2 2 1 else st)
    let s2 := postAll ((threadsOf s cl).foldl (fun s t => onThread s t.uid haltFront) s1)
      (((threadsOf s cl).map (fun t => t.core)).eraseDups.map Event.traceStateChange)
    if (ctlGet s (dmAddr cl 0x90)).bits 1 1 = 1 ∧ hcause ≠ 4 then
      postAll s2 (((List.range 512).filter (fun c => c ≠ cl)).map (fun c => Event.crossTriggerHalt c))
    else s2

/-- The cluster released (R420). -/
def releaseCluster (s : State) (cl : Nat) : State :=
  if !clusterHalted s cl then s
  else
    let s1 := ctlPut { s with dbg := { s.dbg with halted := s.dbg.halted.filter (fun c => c ≠ cl) } } (dmAddr cl 0x88) 1 0 0
    postAll ((threadsOf s cl).foldl (fun s t => onThread s t.uid releaseFront) s1)
      (((threadsOf s cl).map (fun t => t.core)).eraseDups.map Event.traceStateChange)

/-! ### Comparators (R402, R417) -/

def dcmpa (s : State) (cl n : Nat) : Nat := (ctlGet s (dmAddr cl (8 * n))).bits 56 0
def dcmpc (s : State) (cl n : Nat) : Word := ctlGet s (dmAddr cl (0x40 + 8 * n))

/-- Whether a comparator's masked range holds a byte of an access, under its context tag. -/
def cmpHits (s : State) (cl n ctx va size : Nat) : Bool :=
  let c := dcmpc s cl n
  let m := c.bits 15 10
  let base := dcmpa s cl n / 2 ^ m
  (c.bits 9 9 == 0 || c.bits 63 52 == ctx) && va % 2 ^ 57 / 2 ^ m ≤ base && decide (base ≤ (va % 2 ^ 57 + size - 1) / 2 ^ m)

/-- The first instruction comparator with an action that matches the pc. -/
def breakAt (s : State) (act : Nat) : Option Nat :=
  let cl := clusterOf s.th.core
  (List.range 4).find? (fun n =>
    (dcmpc s cl n).bits 8 7 == act && (dcmpc s cl n).bits 4 4 == 1 && cmpHits s cl n (ctxOf s.th) s.th.a.pc.toNat 1)

/-- The first data comparator with an action that matches an access: VA, bytes, kind. -/
def watchAt (s : State) (act : Nat) (acc : Word × Nat × AccKind) : Option Nat :=
  let cl := clusterOf s.th.core
  let rd := acc.2.2 == .read || acc.2.2 == .rmw || acc.2.2 == .sync
  let wr := acc.2.2 == .write || acc.2.2 == .rmw
  ([4, 5, 6, 7]).find? (fun n =>
    let c := dcmpc s cl n
    c.bits 8 7 == act && ((c.bits 6 6 == 1 && rd) || (c.bits 5 5 == 1 && wr)) && cmpHits s cl n (ctxOf s.th) acc.1.toNat acc.2.1)

/-! ### Core trace (R422, R423) -/

/-- The instruction latched for a thread. -/
def latched (t : Thread) : Option Instr :=
  match decodeWords (t.words % 2 ^ 32) (t.words / 2 ^ 32 % 2 ^ 32) with
  | .ok i => some i
  | .error _ => none

/-- Whether the words latched for a thread are a load's. -/
def atLoad (t : Thread) : Bool :=
  match latched t with
  | some (.ld ..) => true
  | some (.ldLong ..) => true
  | some (.ldf ..) => true
  | some (.ldfLong ..) => true
  | _ => false

/-- Whether they are a `syncacq`'s. -/
def atSyncacq (t : Thread) : Bool :=
  match latched t with
  | some (.syncacqLk ..) => true
  | some (.syncacqGe ..) => true
  | some (.syncacqTry ..) => true
  | _ => false

/-- Waits of the state "waiting on memory" (R422): of a load's miss, of a `syncacq` wherever it waits, on `mwait`, on a held window (R21),
on an engine, a tag or a ring. -/
def memWait (t : Thread) : Bool :=
  match t.status with
  | .waiting (.memory _) => atLoad t || atSyncacq t
  | .waiting .lineEntry => atLoad t || atSyncacq t
  | .waiting (.walk _) => atLoad t || atSyncacq t
  | .waiting (.route _) => atLoad t || atSyncacq t
  | .waiting (.mwait _) => true
  | .waiting (.sync _) => true
  | .waiting (.context _ _) => true
  | .waiting (.granule _ _ _) => true
  | .waiting (.tag _) => true
  | .waiting (.ring _) => true
  | .waiting (.fifo _) => true
  | .waiting .freeTag => true
  | .waiting (.subJoin _) => true
  | .waiting .mma => true
  | _ => false

/-- The trace state of a core (R422). -/
def traceState (s : State) (core : Nat) : Nat :=
  let ts := if clusterHalted s (clusterOf core) then [] else (threads s).filter (fun t => t.status ≠ .vacant ∧ t.core = core)
  let msg (t : Thread) : Bool := match t.status with
    | .waiting (.recv _) => true
    | .waiting (.sendRoom _ _) => true
    | _ => false
  if ts.any (fun t => t.status = .running) then 0
  else if ts.any memWait then 2
  else if ts.any msg then 1
  else 3

/-- Bytes of a trace area (R423). -/
def areaSize (area : Nat) : Nat := if area = 4 then 16384 else 12288

/-- A record put into an area of a cluster's trace buffer: what stands there is drained to its ring in HBM while the ring has room; the record
is kept while the area has room, else dropped and counted (R418, R423). -/
def traceRecord (s0 : State) (cl area : Nat) (bytes : List Byte) : State :=
  let s := traceDrain s0 cl area
  let held := s.dbg.trace.filter (fun e => e.1 = cl ∧ e.2.1 = area)
  if areaSize area < held.length + bytes.length then ctlCount s (dmAddr cl (0x1a0 + 8 * area)) 1
  else
    traceDrain { s with dbg := { s.dbg with
      trace := s.dbg.trace ++ bytes.zipIdx.map (fun e => (cl, area, held.length + e.2, e.1)) } } cl area

end Sys2Proof.Machine
end

