-- ==== Sys2Proof/Machine/Work.lean ====
section
/-! DEFINITION. Work.lean: continuation records, deques, resume lists and range slots, admission, scratchpad allocation, eviction
(R63, R77-R79, R192-R214, R406-R410). -/

namespace Sys2Proof.Machine

/-! ### Launches (R188, R204) -/

def launchOf (s : State) (lnum : Nat) : Option Launch := s.wk.launches.find? (fun l => l.lnum = lnum)
def updLaunch (s : State) (lnum : Nat) (f : Launch → Launch) : State :=
  { s with wk := { s.wk with launches := s.wk.launches.map (fun l => if l.lnum = lnum then f l else l) } }

/-- Fields of a launch record (R188). -/
def Launch.nreg (l : Launch) : Nat := bits l.record 63 58
def Launch.nsoft (l : Launch) : Nat := bits l.record 57 52
def Launch.chk (l : Launch) : Bool := bitAt l.record 51
def Launch.scrg (l : Launch) : Nat := bits l.record 70 64
def Launch.ibase (l : Launch) : Nat := bits l.record 191 144
def Launch.icount (l : Launch) : Nat := bits l.record 143 96
def Launch.kpc (l : Launch) : Nat := bits l.record 255 192
def Launch.hndlr (l : Launch) : Nat := bits l.record 383 320
def Launch.cblk (l : Launch) : Nat := bits l.record 447 384
def Launch.args (l : Launch) : Nat := bits l.record 511 448

/-- Members of a group (R204). -/
def Group.size (g : Group) : Nat := if g.kind = 0 then g.count else (g.bitmap.filter id).length

/-- Member number of an index, if it is a member (R204). -/
def Group.member (g : Group) (i : Nat) : Option Nat :=
  if i < g.base then none
  else if g.kind = 0 then
    (if (i - g.base) % g.stride = 0 ∧ (i - g.base) / g.stride < g.count then some ((i - g.base) / g.stride) else none)
  else if g.bitmap.getD (i - g.base) false then some ((g.bitmap.take (i - g.base)).filter id).length
  else none

/-- Groups of a launch that hold an index, with the member number, in ascending group number. -/
def groupsOf (l : Launch) (i : Nat) : List (Nat × Nat) :=
  l.groups.zipIdx.filterMap (fun e => (e.1.member i).map (fun m => (e.2, if e.1.size ≤ 4 then m else 0)))

/-- GRPSLOTS of the first four (R205). -/
def grpslotsOf (gs : List (Nat × Nat)) : Word :=
  BitVec.ofNat 64 ((gs.take 4).zipIdx.foldl (fun w e => w + (2 ^ 15 + e.1.2 * 2 ^ 8 + e.1.1) * 2 ^ (16 * e.2)) 0)

/-! ### Cluster work (R198) -/

def clWork (s : State) (cl : Nat) : ClWork := Assoc.getD s.wk.cl cl ClWork.empty
def setClWork (s : State) (cl : Nat) (w : ClWork) : State := { s with wk := { s.wk with cl := Assoc.set s.wk.cl cl w } }
def updClWork (s : State) (cl : Nat) (f : ClWork → ClWork) : State := setClWork s cl (f (clWork s cl))

/-- Resident threads of a core. -/
def onCore (s : State) (core : Nat) : List Thread := (threads s).filter (fun t => t.core = core ∧ t.status ≠ .vacant)

/-- The lowest free thread slot of a core; one that a resize has removed has none (R412). -/
def freeSlot (s : State) (core : Nat) : Option Nat :=
  if s.sys.removed.contains core then none
  else (List.range 256).find? (fun i => (onCore s core).all (fun t => t.slot != i))

/-- The cores that may take a record. -/
def coresFor (cl : Nat) (r : Rec) : List Nat :=
  match r.boundCore with
  | some c => [c]
  | none => coresOf cl

/-- A record for which no core that may take it has a free slot. -/
def slotless (s : State) (cl : Nat) (r : Rec) : Bool := (coresFor cl r).all (fun c => (freeSlot s c).isNone)

/-- Whether work of a cluster waits for a slot, a record that is bound to a full core among it. -/
def slotWanted (s : State) (cl : Nat) : Bool :=
  let w := clWork s cl
  (w.resume ++ w.deque).any (slotless s cl) || (!w.ranges.isEmpty && (coresOf cl).all (fun c => (freeSlot s c).isNone))

/-- The cores of a cluster with a free slot look for work; where work waits for a slot, so is that looked at (R213). -/
def offer (s : State) (cl : Nat) : State :=
  (coresOf cl).foldl (fun s c =>
    match freeSlot s c with
    | some i => postOnce s (.recordAdmission c i)
    | none => s) (if slotWanted s cl then postOnce s (.slotWaitMark cl) else s)

/-- Clusters of a partition. -/
def clustersOf (s : State) (p : Nat) : List Nat := (List.range 512).filter (fun c => inPart s p c)

/-- A cluster that has neither records nor indices. -/
def idle (s : State) (cl : Nat) : Bool :=
  (clWork s cl).deque.isEmpty && (clWork s cl).resume.isEmpty && (clWork s cl).ranges.isEmpty

/-- Whether the deque of a cluster takes a record (R198). -/
def dequeRoom (s : State) (cl : Nat) : Bool := decide ((clWork s cl).deque.length + (clWork s cl).reserved.length < 65536)

/-- A record on top of a cluster's deque (R198); an idle cluster of the partition then looks for work. -/
def pushDeque (s : State) (cl part : Nat) (r : Rec) : State :=
  let s1 := offer (updClWork s cl (fun w => { w with deque := r :: w.deque })) cl
  match (clustersOf s part).find? (fun c => c ≠ cl ∧ idle s c) with
  | some c => postOnce s1 (.rangeRequest c)
  | none => s1

/-- A record at the end of a cluster's resume list (R198, R212). -/
def pushResume (s : State) (cl : Nat) (r : Rec) : State :=
  offer (updClWork s cl (fun w => { w with resume := w.resume ++ [r] })) cl

/-- A record at the bottom of a cluster's deque (R347). The spec gives `yield` no wait for a full deque: the record goes there past the limit
of R198 (notes/assumptions/76.md). -/
def pushBottom (s : State) (cl : Nat) (r : Rec) : State :=
  offer (updClWork s cl (fun w => { w with deque := w.deque ++ [r] })) cl

/-! ### Eviction (R211, R212) -/

/-- A list in ascending order of a key, equal keys in their order. -/
def insertBy {α : Type} (key : α → Nat) (x : α) : List α → List α
  | [] => [x]
  | y :: ys => if key x ≤ key y then x :: y :: ys else y :: insertBy key x ys

def sortBy {α : Type} (key : α → Nat) : List α → List α
  | [] => []
  | x :: xs => insertBy key x (sortBy key xs)

/-- Whether a block is in use: by an evicted thread (one that is being made counts), or by a saved tile. -/
def ownerLives (s : State) : BlockOwner → Bool
  | .thread uid => s.wk.saved.any (fun t => t.uid == uid) || decide (s.wk.nextUid ≤ uid)
  | .tile cl crew acc => s.eng.tiles.any (fun t => t.cl == cl && t.crew == crew && t.acc == acc && t.block)

/-- The blocks of a partition's thread save area in use (R212, R411). -/
def blocksOf (s : State) (p : Nat) : List SaveBlock := s.wk.blocks.filter (fun b => b.part = p ∧ ownerLives s b.owner)

/-- The lowest offset at which a partition's save area has room for some bytes; the spec does not say which (notes/assumptions/27.md). -/
def areaRoom (s : State) (p len : Nat) : Option Nat :=
  let bs := blocksOf s p
  (sortBy id (0 :: bs.map (fun b => b.off + b.len))).find? (fun o =>
    decide (o + len ≤ pdSaveSize s p) && bs.all (fun b => decide (o + len ≤ b.off ∨ b.off + b.len ≤ o)))

/-- A block taken from a partition's save area; none where it has no room. -/
def takeBlock (s : State) (p len : Nat) (owner : BlockOwner) : Option State :=
  (areaRoom s p len).map (fun o =>
    { s with wk := { s.wk with blocks := { part := p, off := o, len := len, owner := owner } :: s.wk.blocks.filter (fun b => ownerLives s b.owner && b.owner != owner) } })

/-- Bytes of a thread's saved state: the state block, and the extension that a rival's deferral takes (R212). -/
def Thread.blockLen (t : Thread) : Nat := if t.deferral.isEmpty then 640 else 640 + 576

/-- Whether the save area has a block for a thread (R212); a miss is counted. -/
def blockFree (s : State) (t : Thread) : Bool := (areaRoom s t.part t.blockLen).isSome
def countNoBlock (s : State) (p : Nat) : State := ctlCount s (pcSavex p) 1

/-- The address of an evicted thread's state block: FRAME of its record (R212). -/
def blockAddr (s : State) (t : Thread) : Word :=
  match s.wk.blocks.find? (fun b => b.owner = .thread t.uid) with
  | some b => ctlGet s (pdAddr t.part 3) + BitVec.ofNat 64 b.off
  | none => 0

/-- The core to which an evicted thread is bound (R209, R380). -/
def bindingOf (t : Thread) (w : Option Wait) : Option Nat :=
  match w with
  | some (.recv _) => some t.core
  | _ => if t.tagCount ≠ 0 then some t.core else none

/-- The record of an evicted thread (R212). -/
def savedRec (s : State) (t : Thread) (core : Option Nat) (bound : Bool) : Rec :=
  { index := t.index, lnum := t.lnum, join := t.join, frame := blockAddr s t, code := t.a.pc, origin := t.origin, saved := some t.uid,
    boundCore := core, bound := bound || core.isSome, acquire := false, token := t.a.token }

/-- The front thread leaves its slot (R211, R212, R406): a chunk in progress is discarded to its start state without counting as a squash;
a wait is kept as its wake condition; it takes a state block. -/
def evictFront (s0 : State) (w : Option Wait) : State :=
  let t := s0.th
  let s := dropTurns s0 t.uid
  let a := t.chunk.start
  let t' := { t with
    a := a, chunk := { t.chunk.again with key := t.chunk.key }, kept := [], marked := false, leave := false, longMiss := false
    boundCore := bindingOf t w
    status := match w, t.status with | some w, _ => .waiting w | none, .parent f => .parent f | none, _ => .running }
  let s1 := perfTh s t 0xb 1
  let ctx := t.xlctx.bits 63 52
  let s2 : State := { s1 with
    th := { Thread.vacant with core := t.core, slot := t.slot }
    wk := { s1.wk with saved := s1.wk.saved ++ [t'] }
    coh := { s1.coh with watches := s1.coh.watches.filter (fun v => !(v.uid == t.uid && v.fresh))
                         reqs := s1.coh.reqs.filter (fun r => r.uid ≠ t.uid) } }
  let s3 := (takeBlock s2 t.part t.blockLen (.thread t.uid)).getD s2
  postOnce (offer s3 (clusterOf t.core)) (.contextSwitchOut t.core ctx)

/-- Where an evicted thread's record goes: its crew's cluster, else its own. -/
def homeCluster (t : Thread) : Nat :=
  match t.crew with
  | some (cl, _, _) => cl
  | none => clusterOf t.core

/-- An eviction of the front thread (R211, R212): a ready thread's record goes to the resume list at once, a waiting one's when its wake
condition holds. -/
def evict (s : State) (w : Option Wait) : State :=
  let t := s.th
  let s1 := evictFront s w
  match w with
  | none => pushResume s1 (homeCluster t) (savedRec s1 { t with a := t.chunk.start } (bindingOf t w) t.crew.isSome)
  | some _ => postOnce s1 (.wakeConditionMet t.uid)

/-! ### Scratchpad allocation (R63, R77-R79) -/

def setAlloc (s : State) (a : Alloc) : State :=
  { s with wk := { s.wk with allocs := a :: s.wk.allocs.filter (fun x => !(x.cl == a.cl && x.ctx == a.ctx)) } }

def granuleBytes : Nat := 0x4000

/-- Local PA of a context's saved granule: a scratchpad's worth of the save area for each cluster (notes/assumptions/9.md). -/
def savePa (s : State) (cl ctx off : Nat) : Nat := cdSave s ctx + cl * scratchBytes + off * granuleBytes

/-- Greatest stamp of a cluster's banks (R475). -/
def maxBankStamp (s : State) (cl : Nat) : Nat :=
  (s.coh.stamps.filter (fun e => region (paLocal e.1) = .scratch cl)).foldl (fun m e => max m e.2) 0

/-- A granule changes hands: every line stamp in it takes the greatest of the cluster (R475). -/
def stampGranule (s : State) (cl g : Nat) : State :=
  let m := maxBankStamp s cl
  if m = 0 then s
  else bumpClock ((List.range 256).foldl (fun s i => setStamp s (localPa s (scratchPa cl (g * granuleBytes)) + 64 * i) m) s)
    (homeOf (localPa s (scratchPa cl (g * granuleBytes)))) m

/-- A victim's granule written to its save area (R78); one whose restore was still due stands there as it is. -/
def saveGranule (s : State) (cl g : Nat) (v : Alloc) (off : Nat) : State :=
  if (Assoc.get v.due off).isSome then setAlloc s { v with due := Assoc.erase v.due off }
  else
  let bytes := cellsRead s.mem.cells (localPa s (scratchPa cl (g * granuleBytes))) granuleBytes
  let s1 := memWrite s (savePa s cl v.ctx off) bytes
  setAlloc s1 { v with present := v.present.filter (fun e => e.1 ≠ off), saved := off :: v.saved.filter (fun o => o ≠ off) }

/-- Physical granules that no context holds (R77 step 2). -/
def freeGranules (s : State) (cl : Nat) : List Nat :=
  (List.range 96).filter (fun g => s.wk.allocs.all (fun a => a.cl != cl || (a.present ++ a.due).all (fun e => e.2 != g)))

/-- Granules that may be claimed (R77 step 3, R201): of switched-out contexts, longest out first, in descending offset. -/
def claimable (s : State) (cl ctx : Nat) : List (Nat × Nat × Nat) :=
  (sortBy (fun a => a.outAt) (s.wk.allocs.filter (fun a => a.cl = cl ∧ a.ctx ≠ ctx ∧ !a.resident))).flatMap (fun a =>
    (sortBy (fun e => 96 - e.1) (a.present ++ a.due)).map (fun e => (a.ctx, e.1, e.2)))

/-- A granule given to an offset of a context: its restore is due where the offset was saved, else it is present as it stands. -/
def giveGranule (cl ctx : Nat) (s : State) (e : Nat × (Option (Nat × Nat)) × Nat) : State :=
  let (off, victim, g) := e
  let s1 := match victim with
    | none => s
    | some (v, o) => match allocOf s cl v with
      | some va => saveGranule s cl g va o
      | none => s
  let s2 := stampGranule s1 cl g
  match allocOf s2 cl ctx with
  | none => s2
  | some a =>
    if a.saved.contains off then post (setAlloc s2 { a with due := a.due ++ [(off, g)] }) (.granuleRestore cl ctx off)
    else setAlloc s2 { a with present := (off, g) :: a.present }

/-- The greatest SCRG among a context's launches (R63). -/
def needScrg (s : State) (ctx : Nat) : Nat := (s.wk.launches.filter (fun l => l.ctx = ctx)).foldl (fun m l => max m l.scrg) 0

/-- A context given its allocation on a cluster, of at least `scrg` granules (R63, R77, R201); none where granules are lacking. -/
def provide (s : State) (cl ctx scrg : Nat) : Option State :=
  let a := (allocOf s cl ctx).getD { cl := cl, ctx := ctx, size := 0, present := [], saved := [], due := [], asked := [], resident := false, outAt := 0 }
  let size := if a.resident then max a.size scrg else max (needScrg s ctx) scrg
  let a1 := { a with size := size, resident := true, present := a.present.filter (fun e => e.1 < size),
                     saved := a.saved.filter (fun o => o < size), due := a.due.filter (fun e => e.1 < size) }
  let s1 := setAlloc s a1
  let missing := (List.range size).filter (fun o => (a1.present ++ a1.due).all (fun e => e.1 != o))
  let got := (freeGranules s1 cl).map (fun g => ((none : Option (Nat × Nat)), g)) ++
    (claimable s1 cl ctx).map (fun c => (some (c.1, c.2.1), c.2.2))
  if got.length < missing.length then none
  else some ((missing.zip got).foldl (giveGranule cl ctx) s1)

/-! ### Admission (R198, R201, R202) -/

/-- Register pool entries that a thread keeps (R201). -/
def poolUsed (s : State) (core : Nat) : Nat := (onCore s core).foldl (fun n t => n + (t.nreg - t.nsoft)) 0

/-- Whether a partition's cores take records of a virtual function now (R450). -/
def vfTurn (s : State) (p v : Nat) : Bool :=
  match Assoc.get s.sys.curVf p with
  | some w => w == v
  | none => true

/-- Whether a record's function has its slice. -/
def recTurn (s : State) (r : Rec) : Bool := (launchOf s r.lnum).elim true (fun l => vfTurn s l.part l.vf)

/-- Pool entries that a record needs, its context and granules; none where its launch is gone. -/
def recNeeds (s : State) (r : Rec) : Option (Nat × Nat × Nat) :=
  match r.saved with
  | some uid => match s.wk.saved.find? (fun t => t.uid = uid) with
    | some t => some (t.nreg - t.nsoft, t.xlctx.bits 63 52, ((launchOf s t.lnum).map Launch.scrg).getD 0)
    | none => none
  | none => (launchOf s r.lnum).map (fun l => (l.nreg - l.nsoft, l.ctx, l.scrg))

/-- The state in which a core may take a record, its context's granules given; none where it may not (R199, R201). -/
def mayAdmit (s : State) (core : Nat) (r : Rec) : Option State :=
  if (r.boundCore.isSome ∧ r.boundCore ≠ some core) ∨ !recTurn s r then none
  else match recNeeds s r with
    | none => none
    | some (regs, ctx, scrg) => if 6144 < poolUsed s core + regs then none else provide s (clusterOf core) ctx scrg

/-- A context switched in on a core (R409). -/
def switchIn (s : State) (core ctx : Nat) : State := updCc s core ctx (fun c => { c with resident := true })

/-- A resident thread placed: in front when no thread is there. -/
def placeResident (s : State) (t : Thread) : State :=
  postOnce (if s.th.status = .vacant then { s with th := t } else { s with rest := s.rest ++ [t] }) (.traceStateChange t.core)

/-- The thread of a new record (R202, R205). -/
def newThread (s : State) (core slot : Nat) (l : Launch) (r : Rec) : Thread :=
  let gs := if r.acquire then [] else groupsOf l r.index
  let a : Arch := { Arch.zero with
    pc := r.code, n := Arch.zero.n.set 0 (Reg.of r.frame), chk := l.chk, token := r.token, grpslots := grpslotsOf gs }
  { Thread.vacant with
    uid := s.wk.nextUid, status := .running, core := core, slot := slot, part := l.part, xlctx := cdXlctx s l.ctx, ctx := l.ctx,
    vf := l.vf, lnum := l.lnum, index := r.index, origin := r.origin, join := r.join, nreg := l.nreg, nsoft := l.nsoft, a := a
    kern := { TrapBank.zero with handler := BitVec.ofNat 64 (l.hndlr / 4 * 4) }
    supv := { TrapBank.zero with handler := cdShndlr s l.ctx &&& ~~~3#64 }, chunk := Chunk.fresh a, since := s.wk.admits }

/-- A new record admitted: an acquire for one that `spawn` or `join` placed (R345); a fifth group raises its fault before the first
instruction (R205). No operand failed a check there: TINFO0 is a free value (notes/assumptions/77.md). -/
def admitNew (s : State) (core slot : Nat) (l : Launch) (r : Rec) : State :=
  let t := newThread s core slot l r
  let s1 := switchIn (placeResident { s with wk := { s.wk with nextUid := s.wk.nextUid + 1, admits := s.wk.admits + 1 } } t) core (ctxOf t)
  let s2 := perfTh (if r.acquire then acquireG s1 core (ctxOf t) else s1) t 0xc 1
  if !r.acquire && decide (4 < (groupsOf l r.index).length) then
    onThread (tickFree s2) t.uid (fun s => deliverTrap s
      { cause := 0x0d, sub := 2, usub := 0, i0 := Config.free s2.free, i1 := 0, i2 := 0, i3 := 0 } s.th.a.pc)
  else s2

/-- An evicted thread resumes (R202, R212): LC takes its last commit stamp (R110); a chosen rival performs its deferred entries first
(R151). -/
def admitSaved (s : State) (core slot : Nat) (t : Thread) : State :=
  let late := t.chain.isEmpty && !t.deferral.isEmpty
  let t' := { t with
    core := core, slot := slot, since := s.wk.admits, waited := 0, boundCore := none
    status := match t.status with | .parent f => .parent f | _ => if late then .waiting .deferred else .running }
  let s1 := placeResident { s with wk := { s.wk with
    saved := s.wk.saved.filter (fun u => u.uid ≠ t.uid), admits := s.wk.admits + 1 } } t'
  let s2 := perfTh (bumpLc (switchIn s1 core (ctxOf t)) core t.a.lastStamp) t' 0xc 1
  if late then post s2 (.deferredEntryPerform t.uid) else s2

/-- A record admitted into a slot. -/
def admitRec (s : State) (core slot : Nat) (r : Rec) : State :=
  match r.saved with
  | some uid => match s.wk.saved.find? (fun t => t.uid = uid) with
    | some t => admitSaved s core slot t
    | none => s
  | none => match launchOf s r.lnum with
    | some l => admitNew s core slot l r
    | none => s

/-- The record of the next index of a range (R196). -/
def rangeRec (l : Launch) (g : Range) : Rec :=
  { index := g.first, lnum := l.lnum, join := 0, frame := BitVec.ofNat 64 l.args, code := BitVec.ofNat 64 l.kpc,
    origin := [l.seqno, g.first], saved := none, boundCore := none, bound := false, acquire := false, token := true }

/-- Whether a cluster's cores take records: its partition runs, its debug module does not halt it, and it does not leave the
partition (R73, R412, R420). -/
def admitting (s : State) (cl : Nat) : Bool :=
  !clusterHalted s cl && !s.coh.fencedCl.contains cl &&
    (List.range 20).any (fun p => inPart s p cl && pdState s p == 1 &&
      s.sys.resizes.all (fun r => r.1 != p || (r.2.all (fun e => e.1 != 2048 + cl && e.1 / 4 != cl))))

/-- A range slot without its first index. -/
def Range.step (g : Range) : List Range := if g.count ≤ 1 then [] else [{ g with first := g.first + 1, count := g.count - 1 }]

/-- The top record of the deque (of those whose function has its slice), where it may be admitted. -/
def fromDeque (s : State) (core slot : Nat) : Option State :=
  match (clWork s (clusterOf core)).deque.find? (recTurn s) with
  | none => none
  | some r =>
    (mayAdmit s core r).map (fun s1 =>
      admitRec (updClWork s1 (clusterOf core) (fun w => { w with deque := w.deque.erase r })) core slot r)

/-- The range slot filled first (of those whose function has its slice), with its launch. -/
def firstRange (s : State) (cl : Nat) : Option (Launch × Range) :=
  (clWork s cl).ranges.findSome? (fun g => match launchOf s g.lnum with
    | some l => if vfTurn s l.part l.vf then some (l, g) else none
    | none => none)

/-- The next index of the range slot filled first, where it may be admitted. -/
def fromRange (s : State) (core slot : Nat) : Option State :=
  let cl := clusterOf core
  match firstRange s cl with
  | none => none
  | some (l, g) =>
      (mayAdmit s core (rangeRec l g)).map (fun s1 =>
        let s2 := updClWork s1 cl (fun w => { w with ranges := w.ranges.flatMap (fun x => if x = g then g.step else [x]) })
        admitRec (if g.step = [] then postOnce s2 (.rangeRequest cl) else s2) core slot (rangeRec l g))

/-- The oldest entry of the resume list that the core may take and can hold. -/
def fromResume (s : State) (core slot : Nat) : Option State :=
  match (clWork s (clusterOf core)).resume.find? (fun r => (mayAdmit s core r).isSome) with
  | none => none
  | some r =>
    (mayAdmit s core r).map (fun s1 =>
      admitRec (updClWork s1 (clusterOf core) (fun w => { w with resume := w.resume.erase r })) core slot r)

/-- What a core with a free slot admits, in the order of R198. -/
def admitOne (s : State) (core slot : Nat) : Option State :=
  if !admitting s (clusterOf core) then none
  else match fromResume s core slot with
    | some s1 => some s1
    | none => match fromDeque s core slot with
      | some s1 => some s1
      | none => fromRange s core slot

/-! ### Tiles and payloads -/

/-- An accumulator tile of a crew (R372). -/
def tileAt (s : State) (cl crew acc : Nat) : Tile :=
  (s.eng.tiles.find? (fun t => t.cl = cl ∧ t.crew = crew ∧ t.acc = acc)).getD
    { cl := cl, crew := crew, acc := acc, fmt := .f, data := [], inv := 0, ovf := 0, sat := 0, present := false, named := 0, block := false }

/-- Bytes of an element of a tile, and elements (R372). -/
def accWidth (fm : AccFmt) : Nat := match fm with | .f => 4 | .d => 8
def accCount (fm : AccFmt) : Nat := match fm with | .f => 4096 | .d => 1024

/-- Bytes of a message's payload (R353). -/
def lenBytes : MsgLen → Nat
  | .b16 => 16
  | .b32 => 32
  | .b48 => 48

end Sys2Proof.Machine
end

