-- ==== Sys2Proof/Machine/Mail.lean ====
section
/-! DEFINITION. Mail.lean: mailboxes (R150, R208, R209, R352-R355). -/

namespace Sys2Proof.Machine

/-! ### Names and payloads -/

def nameDev (v : Word) : Nat := v.bits 41 32
def nameCore (v : Word) : Nat := v.bits 26 16
/-- The core that a mailbox name reaches: a removed core's name reaches its successor (R412). -/
def mailCore (s : State) (v : Word) : Nat := Assoc.getD s.sys.redirect (nameCore v) (nameCore v)
def nameBox (v : Word) : Nat := v.bits 3 0

/-- The partition that holds a core, if any. -/
def partOfCore (s : State) (core : Nat) : Option Nat := (List.range 20).find? (fun p => inPart s p (clusterOf core))

/-- Whether a name is well formed and names a core of the sender's domain job (R352). Which cores another device gives the job is open here
(notes/assumptions/11.md). -/
def nameOk (s : State) (t : Thread) (v : Word) : Bool :=
  v.bits 63 42 == 0 && v.bits 31 27 == 0 && v.bits 15 4 == 0 &&
    (if nameDev v = ownDev s then
      (match partOfCore s (mailCore s v) with
        | some p => pdJob s p == pdJob s t.part
        | none => false)
     else Config.inDomain (nameDev v) && Config.holdsCore (nameDev v) (nameCore v) (pdJob s t.part))

/-- The context whose mailboxes a message reaches (R352): the sender's own on its partition, else the first of the target's partition
(notes/assumptions/11.md). -/
def mailCtx (s : State) (t : Thread) (core : Nat) : Nat :=
  match partOfCore s core with
  | some p => if p = t.part then ctxOf t else ((List.range 4096).find? (fun c => cdValid s c && cdPart s c == p)).getD (ctxOf t)
  | none => ctxOf t

/-- Whether a payload of `n` bytes lies as R353 asks. -/
def payloadOk (s : State) (t : Thread) (va : Word) (n : Nat) : Bool :=
  let cl := clusterOf t.core
  let o := va.toNat - 0x1fe000000000000
  decide (0x1fe000000000000 ≤ va.toNat) && va.toNat % 16 == 0 &&
    (match allocOf s cl (ctxOf t) with
      | some a => decide (o + n ≤ a.size * granuleBytes)
      | none => false)

/-- PAs of the 16-byte pieces of a payload, once their granules are present. -/
def payloadPas (va : Word) : Nat → M (List Nat)
  | 0 => pure []
  | n + 1 => do
    let s ← get
    match scratchAt s (clusterOf s.th.core) (ctxOf s.th) (va.toNat - 0x1fe000000000000) with
    | .ok p =>
      poisonStop (lineOf (localPa s p))
      let rest ← payloadPas (va + 16) n
      pure (localPa s p :: rest)
    | .error (.hold w) => throw (.wait w)
    | .error (.fault ..) => misuse 0x10 va

/-! ### send -/

/-- Messages on their way to a mailbox or in it (R354). -/
def boxCount (s : State) (core ctx box : Nat) : Nat :=
  ((ccOf s core ctx).boxes.filter (fun m => m.box = box)).length +
    (s.coh.net.filter (fun m => m.dev = ownDev s ∧ m.core = core ∧ m.ctx = ctx ∧ m.box = box)).length

/-- Whether a message may be injected: the target mailbox holds fewer than 4 and its context is switched in (R352, R354); a route to
another device is live (R458). -/
def sendReady (s : State) (t : Thread) (name : Word) : Option Wait :=
  let core := mailCore s name
  let ctx := mailCtx s t core
  if nameDev name ≠ ownDev s then (if routeLive s t.part (nameDev name) then none else some (.route (nameDev name)))
  else if (ccOf s core ctx).resident && decide (boxCount s core ctx (nameBox name) < 4) then none
  else some (.sendRoom core (nameBox name))

/-- A thread that waits in `recv` on a mailbox of a core. -/
def waitsOn (core ctx box : Nat) (t : Thread) (w : Wait) : Bool :=
  match w with
  | .recv mask => t.core == core && ctxOf t == ctx && bitAt mask box
  | _ => false

/-- The deposits of the threads that wait for a message in a mailbox (R425). -/
def boxKey (core ctx box : Nat) : TokKey → Bool
  | .box c x mask => c == core && x == ctx && bitAt mask box
  | _ => false

/-- A message of the front thread injected whole (R133, R354); the token of R425. One for another device goes into the network too, and leaves
the package from there. -/
def inject (s : State) (name : Word) (data : List Byte) (rel : Bool) (scope : Scope) : State :=
  let t := s.th
  let cl := clusterOf t.core
  let s1 := perfTh s t 0x22 1
  let here := nameDev name == ownDev s
  let core := if here then mailCore s name else nameCore name
  let ctx := if here then mailCtx s t core else ctxOf t
  let box := nameBox name
  let m : Mesg := { cl := cl, inc := Assoc.getD s.coh.inc cl 0, srcDev := ownDev s, src := t.core, dev := nameDev name, core := core,
                    box := box, ctx := ctx, data := data, rel := rel, scope := scope, stamp := lcOf s t.core + 1, uid := t.uid,
                    upTo := logPos s t.part }
  let wakes := here && (s.rest ++ s.wk.saved).any (fun u => waitsIn u (waitsOn core ctx box u))
  let s2 := if wakes then lastArrival s1 (boxKey core ctx box) (waitsOn core ctx box) else clearToken s1
  match (if here && partOfCore s core == some t.part then none else takeSkip s2 t.part (.send (nameDev name) core box data)) with
  | some s3 => s3
  | none => post { s2 with coh := { s2.coh with net := s2.coh.net ++ [m] } } (.messageArrival 0)

/-- Whether the front thread's `.defer` forms are held (R150): its fork was taken with `.defer`. -/
def deferring (s : State) : Bool := inView s && s.th.world.bits 11 11 == 1

/-- The view rules of a `push` or `send` (R147, R150): held with room for 16, or external. -/
def viewDefer (dfr : Bool) (sub : Nat) : M Unit := do
  let s ← get
  if !inView s then pure ()
  else if dfr && deferring s then (if 16 ≤ s.th.deferral.length then external 0x06 0 else pure ())
  else external sub 0

/-- A send in any form (R353, R354). -/
def sendOp (a b : Opnd) (len : MsgLen) (rel : Bool) (scope : Scope) (dfr : Bool) (s : State) : Out :=
  singleOp [] [a, b] .drop (viewDefer dfr 0x03) (do
    let s ← get
    let name := opnd s a
    let va := opnd s b
    if !nameOk s s.th name then misuse 0x0e name
    else if !payloadOk s s.th va (lenBytes len) then misuse 0x10 va
    else
      if inView s then pure () else if rel then releaseM else postedDone
      let pas ← payloadPas va (lenBytes len / 16)
      let s ← get
      let data := pas.flatMap (fun p => cellsRead s.mem.cells p 16)
      if inView s then
        set (updTh s (fun t => { t with deferral := t.deferral ++ [.send t.a.pc name data rel scope] }))
        pure .single
      else
        match sendReady s s.th name with
        | some w => throw (.wait w)
        | none =>
          set (inject s name data rel scope)
          if nameDev name = ownDev s then pure () else noteFar (nameDev name)
          pure .single) s

/-- SEND_16 (R353, R354). -/
def execSend16 (a b : Opnd) (s : State) : Out := sendOp a b .b16 false .dom false s

/-- SEND_32 (R353, R354). -/
def execSend32 (a b : Opnd) (s : State) : Out := sendOp a b .b32 false .dom false s

/-- SEND_48 (R353, R354). -/
def execSend48 (a b : Opnd) (s : State) : Out := sendOp a b .b48 false .dom false s

/-- SEND_LONG (R353, R354). -/
def execSendLong (a b : Opnd) (len : MsgLen) (rel : Bool) (scope : Scope) (dfr : Bool) (s : State) : Out := sendOp a b len rel scope dfr s

/-! ### recv and mbpeek (R355) -/

/-- The masked mailboxes that hold a message. -/
def boxesReady (s : State) (core ctx mask : Nat) : List Nat :=
  (List.range 16).filter (fun b => bitAt mask b && (ccOf s core ctx).boxes.any (fun m => m.box = b))

/-- What `recv` delivers. -/
def recvWord (m : BoxMsg) : Word :=
  BitVec.ofNat 64 (m.dev * 2 ^ 42 + m.core * 2 ^ 31 + (m.data.length / 16 - 1) * 2 ^ 4 + m.box)

/-- The message that a `recv` takes: the oldest of the lowest mailbox with one; in replay the one that the log names (R438, R441). -/
def pickMsg (s : State) (core ctx mask : Nat) : Option BoxMsg :=
  match replayedVal s with
  | some w => (ccOf s core ctx).boxes.find? (fun m => recvWord m = w)
  | none => ((boxesReady s core ctx mask).head?).bind (fun box => (ccOf s core ctx).boxes.find? (fun m => m.box = box))

/-- A message taken out of its mailbox. -/
def takeMsg (s : State) (core ctx : Nat) (m : BoxMsg) : State := updCc s core ctx (fun c => { c with boxes := c.boxes.erase m })

/-- The 48 bytes of a message's area written at the banks. -/
def writePayload : List Nat → List Byte → M Unit
  | [], _ => pure ()
  | p :: ps, bs => do
    let st ← singleStamp (lineOf p)
    modify (fun s => writeBank s p (((bs ++ List.replicate 16 0).take 16).map some) st)
    writePayload ps (bs.drop 16)

/-- RECV (R355). -/
def execRecv (d : Dest) (a b : Opnd) (s : State) : Out :=
  singleOp [] [a, b] d (notInView 0x03) (do
    let s ← get
    let mask := (opnd s a).bits 15 0
    let va := opnd s b
    let core := s.th.core
    let ctx := ctxOf s.th
    if mask = 0 then misuse 0x0f (opnd s a)
    else if !payloadOk s s.th va 48 then misuse 0x10 va
    else
      let pas ← payloadPas va 3
      let s ← get
      match pickMsg s core ctx mask with
      | none =>
        set (depositToken s (.box core ctx mask))
        throw (.wait (.recv mask))
      | some m =>
        set (bumpLc (perfTh (takeMsg s core ctx m) s.th 0x23 1) core m.stamp)
        writePayload pas m.data
        if m.rel then acquireM else pure ()
        let v ← logValue (recvWord m)
        modify (fun s => pushResult s d v 0)
        pure .access) s

/-- MBPEEK (R355). -/
def execMbpeek (d : Dest) (a : Opnd) (s : State) : Out :=
  simple [a] d (do
    let s ← get
    let mask := (opnd s a).bits 15 0
    if mask = 0 then misuse 0x0f (opnd s a)
    else
      let v ← logValue (BitVec.ofNat 64 ((boxesReady s s.th.core (ctxOf s.th) mask).foldl (fun n b => n + 2 ^ b) 0))
      deliver d v 0) s

end Sys2Proof.Machine
end

