-- ==== Sys2Proof/Machine/Engine.lean ====
section
/-! DEFINITION. Engine.lean: commands, completion tags, layout records, subscriptions and overlays as threads use them (R129, R130, R150,
R156, R163, R178, R180, R377-R383, R403). What the engines do is in EngineRun.lean. -/

namespace Sys2Proof.Machine

/-! ### Tags (R180) -/

def tagOf (c : CoreCtx) (t : Nat) : Option TagSt := c.tags.find? (fun g => g.tag = t)
def setTagSt (c : CoreCtx) (g : TagSt) : CoreCtx := { c with tags := g :: c.tags.filter (fun x => x.tag != g.tag) }

/-- A free tag, the spec does not say which (notes/assumptions/3.md). -/
def pickTag (s : State) (c : CoreCtx) : Option Nat :=
  let free := (List.range 64).filter (fun t => (tagOf c t).isNone)
  if free.isEmpty then none else free[(freeWord s).toNat % free.length]?

/-- A tag allocated for a command of the front thread, held busy; none free is a wait (R180, R380). -/
def allocTag (op total : Nat) : M Nat := do
  let s ← get
  let core := s.th.core
  let ctx := ctxOf s.th
  match pickTag s (ccOf s core ctx) with
  | none => throw (.wait .freeTag)
  | some t =>
    let g : TagSt := { tag := t, op := op, uid := s.th.uid, total := total, delivered := 0, popped := 0, fault := none,
                       faultDelivered := false, done := false }
    set (updTh (updCc (tickFree s) core ctx (fun c => setTagSt c g)) (fun t => { t with tagCount := t.tagCount + 1 }))
    pure t

/-- The tag of an instruction that allocates one and then waits: it is held while the instruction waits (R377, R380). -/
def heldTag (op total : Nat) : M Nat := do
  let s ← get
  match s.th.answered with
  | some t => pure t.toNat
  | none =>
    let t ← allocTag op total
    modify (fun s => updTh s (fun th => { th with answer := some (th.a.pc, BitVec.ofNat 64 t) }))
    pure t

/-- Whether a thread is resident or evicted, not ended. -/
def alive (s : State) (uid : Nat) : Bool := (threads s ++ s.wk.saved).any (fun t => t.uid = uid ∧ t.status ≠ .vacant)

/-- A tag's bit set, with the fault that stopped its command, if any (R180, R183); the fault of a thread that has ended is logged
(R403). -/
def finishTag (s : State) (core ctx t lnum index : Nat) (fault : Option (Trap × Word)) : State :=
  let c := ccOf s core ctx
  match tagOf c t with
  | none => s
  | some g =>
    let gone := !alive s g.uid
    let g' := { g with done := true, fault := fault, faultDelivered := g.faultDelivered || (fault.isSome && gone) }
    let s1 := setCc s core ctx { setTagSt c g' with tagmap := c.tagmap.putBits t t 1 }
    match fault with
    | some f => if gone then logEngineFault s1 lnum f.1 f.2 core index else s1
    | none => s1

/-- The engine fault of a tag delivered once (R403), between chunks: a squash of the chunk before leaves it undelivered (R390). TINFO3's
instruction words are those of the report. -/
def engineFault {α : Type} (core ctx : Nat) (g : TagSt) : M α := do
  match g.fault with
  | some (t, w) =>
    let s ← get
    let who := (anyThread s g.uid).getD s.th
    set (updCc s core ctx (fun c => setTagSt c { g with faultDelivered := true }))
    throw (.trap { t with eng := some (w, who.core, who.index) })
  | none => throw (.wait (.tag g.tag))

/-- The acquire of a completed command: LC takes the engine's clock (R110, R125). -/
def acquireEngine : M Unit := modify (fun s => bumpLc s s.th.core (clockOf s (engineClock (clusterOf s.th.core))))

/-! ### push (R377) -/

def cwOp (w : Nat) : Nat := bits w 255 248
def cwTag (w : Nat) : Nat := bits w 247 242

/-- A layout record as a `push` copies it (R156); one never written has no context tag (R164). -/
def copyLayout (s : State) (cl idx : Nat) : LayoutCopy :=
  match s.eng.layouts.find? (fun l => l.cl = cl ∧ l.idx = idx) with
  | some l => { idx := idx, word := l.word, ctx := some l.ctx }
  | none => { idx := idx, word := 0, ctx := none }

/-- The pending step that starts a command by its operation; an unknown one is found out when it starts (R162). -/
def startEvent (cl core word : Nat) (ovld : Bool) : Event :=
  if ovld then .ovldCommand cl core
  else match cwOp word with
    | 2 => .gather cl core
    | 3 => .fill cl core
    | 4 => .readq cl core
    | 5 => .mcast cl core
    | 6 => .mark cl core
    | _ => .copy cl core

/-- The command of a word pushed by a thread. -/
def commandOf (s : State) (t : Thread) (pc : Word) (word : Nat) (ovld : Bool) : Command :=
  let cl := clusterOf t.core
  let op := cwOp word
  { id := s.eng.nextId, cl := cl, core := t.core, word := word, pc := pc, uid := t.uid, slot := t.slot, ctx := ctxOf t, part := t.part,
    lnum := t.lnum, index := t.index, user := !t.a.sup,
    src := if !ovld && (op == 1 || op == 2 || op == 5) then some (copyLayout s cl (bits word 239 233)) else none,
    dst := if !ovld && (op == 1 || op == 2 || op == 3) then some (copyLayout s cl (bits word 232 226)) else none,
    ovld := ovld, root := t.xlctx.bits 51 13 * 2 ^ 13, vf := t.vf, pos := 0, entry := none, finished := false, moved := 0, slab := none, buf := [],
    pending := false, aside := false, stamped := false, pgfmt := none, windowed := false, route := none, fault := none }

/-- A command entered into its core's FIFO (R156). -/
def enterFifo (s : State) (c : Command) : State :=
  post { perfCount s c.core c.ctx s.th.vf 0x30 1 with
    eng := { (perfCount s c.core c.ctx s.th.vf 0x30 1).eng with fifo := s.eng.fifo ++ [c], nextId := s.eng.nextId + 1 } }
    (startEvent c.cl c.core c.word c.ovld)

/-- Room in the core's FIFO of 16. -/
def needFifo : M Unit := do
  let s ← get
  if (s.eng.fifo.filter (fun c => c.core = s.th.core)).length < 16 then pure () else throw (.wait (.fifo s.th.core))

/-- Elements that a command word will deliver (R173). -/
def elemsOf (word : Nat) : Nat := if cwOp word = 4 then bits word 221 220 + 1 else 0

/-- The command word that the front thread's waiting `push` has read (R377). -/
def Thread.command (t : Thread) : Option Nat :=
  match t.cmd with
  | some (pc, w) => if pc = t.a.pc then some w else none
  | none => none

/-- The command word of a `push`: read once, and kept while the instruction waits (R377). -/
def readCommand (x : Xl) : M Nat := do
  let s ← get
  match s.th.command with
  | some w => pure w
  | none =>
    let b ← readAt x 32
    modify (fun s => updTh s (fun t => { t with cmd := some (t.a.pc, leNat b.1) }))
    pure (leNat b.1)

/-- The place of a command word, before it has been read (R377). -/
def commandPlace (va : Word) : M Xl := do
  let s ← get
  if s.th.command.isSome then pure { va := va.toNat, pa := 0, tgt := .mem .D, leafPa := 0, leaf := 0, base := 0, lg := 12 }
  else
    checkAlign va .read 5
    xlate va .read 5

/-- A `push` in either form. -/
def pushOp (d : Dest) (a : Opnd) (dfr : Bool) (s : State) : Out :=
  singleOp [a] [] d (do
      viewDefer dfr 0x02
      let s ← get
      let _ ← commandPlace (opnd s a)) (do
    let s ← get
    let x ← commandPlace (opnd s a)
    if x.tgt = .control then misuse 0x0a (opnd s a)
    else
      if inView s || s.th.command.isSome then pure () else releaseM
      let cw ← readCommand x
      let t ← heldTag (cwOp cw) (elemsOf cw)
      if inView s then
        modify (fun s => updTh s (fun th => { th with
          deferral := th.deferral ++ [.push th.a.pc t (putBits cw 247 242 t) (!th.a.sup)], cmd := none }))
        deliverSingle d (BitVec.ofNat 64 t)
      else
        needFifo
        modify (fun s => updTh (enterFifo s (commandOf s s.th s.th.a.pc (putBits cw 247 242 t) false)) (fun th => { th with cmd := none }))
        deliverSingle d (BitVec.ofNat 64 t)) s

/-- PUSH (R377). -/
def execPush (d : Dest) (a : Opnd) (s : State) : Out := pushOp d a false s

/-- PUSH_DEFER (R150, R377). -/
def execPushDefer (d : Dest) (a : Opnd) (s : State) : Out := pushOp d a true s

/-! ### pop and tags (R378, R379) -/

/-- POP (R378). -/
def execPop (d : Dest) (a : Opnd) (s : State) : Out :=
  singleOp [] [a] d (notInView 0x02) (do
    let s ← get
    let core := s.th.core
    let ctx := ctxOf s.th
    let t := (opnd s a).bits 5 0
    let c := ccOf s core ctx
    match c.elems.find? (fun e => e.1 = t), tagOf c t with
    | some e, some g =>
      set (setCc s core ctx { setTagSt c { g with popped := g.popped + 1 } with elems := c.elems.erase e })
      acquireEngine
      let v ← logValue e.2
      deliverSingle d v
    | _, some g =>
      if g.op ≠ 4 ∨ g.total ≤ g.popped then misuse 0x1c (opnd s a)
      else if g.fault.isSome then (if g.faultDelivered then misuse 0x1c (opnd s a) else engineFault core ctx g)
      else throw (.wait (.tag t))
    | _, none => misuse 0x1c (opnd s a)) s

/-- A completion that `waitt` sees, recorded (R438): `v` says whether between chunks. -/
def seeCompletion (v : Word) : M Unit := do
  let _ ← logValue v
  acquireEngine

/-- WAITT (R379): on a set bit it does not end the chunk (R103). A replay ends the chunk where the recorded run did: one that saw the bit in the
chunk has recorded it there (R438, R441). -/
def execWaitt (a : Opnd) (s : State) : Out :=
  simple [a] .drop (do
    let s ← get
    let core := s.th.core
    let ctx := ctxOf s.th
    let t := (opnd s a).bits 5 0
    match tagOf (ccOf s core ctx) t with
    | none => misuse 0x19 (opnd s a)
    | some g =>
      let done := bitAt (ccOf s core ctx).tagmap.toNat t
      if done && g.fault.isSome && !g.faultDelivered then
        needSingle
        engineFault core ctx g
      else if s.th.boundary then
        if done then
          seeCompletion 2
          pure .single
        else throw (.wait (.tag t))
      else if (replayOf s s.th.part).isSome then
        if (replayedVal s).isNone then throw .cut
        else if done then
          seeCompletion 1
          pure .seq
        else throw (.wait (.tag t))
      else if done then
        seeCompletion 1
        pure .seq
      else throw .cut) s

/-- TAGFF (R379). -/
def execTagff (d : Dest) (a : Opnd) (s : State) : Out :=
  simple [a] d (do
    let s ← get
    let both := (opnd s a &&& (ccOf s s.th.core (ctxOf s.th)).tagmap).toNat
    let t := ((List.range 64).find? (bitAt both)).getD 64
    if t < 64 then acquireEngine else pure ()
    let v ← logValue (BitVec.ofNat 64 t)
    deliver d v 0) s

/-- A tag freed, with what its command delivered and nobody popped (notes/assumptions/12.md); the thread that allocated it counts it no
more (R180, R380). -/
def freeTag (s : State) (core ctx t : Nat) : State :=
  let c := ccOf s core ctx
  let owner := ((tagOf c t).map (fun g => g.uid)).getD 0
  let less (u : Thread) : Thread := if u.uid = owner then { u with tagCount := u.tagCount - 1 } else u
  let s1 := setCc s core ctx { c with
    tagmap := c.tagmap.putBits t t 0, tags := c.tags.filter (fun g => g.tag != t), elems := c.elems.filter (fun e => e.1 != t) }
  updThread { s1 with wk := { s1.wk with saved := s1.wk.saved.map less } } owner less

/-- TAGCLR (R379). -/
def execTagclr (a : Opnd) (s : State) : Out :=
  singleOp [] [a] .drop (notInView 0x02) (do
    let s ← get
    let core := s.th.core
    let ctx := ctxOf s.th
    let t := (opnd s a).bits 5 0
    match tagOf (ccOf s core ctx) t with
    | none => misuse 0x19 (opnd s a)
    | some g =>
      if !bitAt (ccOf s core ctx).tagmap.toNat t then misuse 0x1a (opnd s a)
      else if g.fault.isSome && !g.faultDelivered then misuse 0x1b (opnd s a)
      else
        set (freeTag s core ctx t)
        pure .single) s

/-! ### Layout records (R381) -/

/-- Doublewords read from an address on, as loads. -/
def readWords : Nat → Word → M Nat
  | 0, _ => pure 0
  | n + 1, va => do
    let r ← memRead va 3
    let rest ← readWords n (va + 8)
    pure (r.1.toNat + 2 ^ 64 * rest)

def setLayout (s : State) (l : Layout) : State :=
  { s with eng := { s.eng with layouts := l :: s.eng.layouts.filter (fun x => !(x.cl == l.cl && x.idx == l.idx)) } }

/-- LREC (R381). -/
def execLrec (a b : Opnd) (s : State) : Out :=
  singleOp [a] [b] .drop (do
      let s ← get
      notInView 0x02
      checkAlign (opnd s a) .read 3
      let _ ← xlate (opnd s a) .read 3
      let _ ← xlate (opnd s a + 88) .read 3) (do
    let s ← get
    let w ← readWords 12 (opnd s a)
    modify (fun s => setLayout s { cl := clusterOf s.th.core, idx := (opnd s b).bits 6 0, word := w, ctx := ctxOf s.th })
    pure .access) s

/-! ### Subscriptions (R178, R382) -/

def subAt (s : State) (cl entry : Nat) : Option Sub := s.eng.subs.find? (fun e => e.cl = cl ∧ e.entry = entry)
def setSub (s : State) (e : Sub) : State :=
  { s with eng := { s.eng with subs := e :: s.eng.subs.filter (fun x => !(x.cl == e.cl && x.entry == e.entry)) } }
def dropSub (s : State) (cl entry : Nat) : State :=
  { s with eng := { s.eng with subs := s.eng.subs.filter (fun x => !(x.cl == cl && x.entry == entry)) } }

/-- An engine fault report (R183, R401): pc, command word, record index with its side, element offset, subcauses; and bits [191:128]. -/
def faultReport (sub usub : Nat) (pc : Word) (word : Nat) (dest : Bool) (idx off : Nat) : Trap × Word :=
  ({ cause := 0x0e, sub := sub, usub := usub, i0 := pc, i1 := BitVec.ofNat 64 (bits word 255 192), i2 := BitVec.ofNat 64 (bits word 63 0),
     i3 := BitVec.ofNat 64 (dest.toNat * 2 ^ 63 + idx % 128 * 2 ^ 56 + off % 2 ^ 56) },
   BitVec.ofNat 64 (bits word 191 128))

/-- SUB_MC (R382): registered once, it waits for the root's acknowledgement. A full table has no command word to report: the report holds 0
for it, the destination side, the record's index and offset 0 (notes/assumptions/70.md). -/
def execSubMc (d : Dest) (a b : Opnd) (s : State) : Out :=
  singleOp [] [a, b] d (notInView 0x02) (do
    let s ← get
    let cl := clusterOf s.th.core
    let idx := (opnd s b).bits 6 0
    if (opnd s a).bits 63 32 ≠ 0 then misuse 0x1d (opnd s a)
    else match s.th.answered with
      | some t =>
        match s.eng.subs.find? (fun e => e.cl = cl ∧ e.core = s.th.core ∧ e.ctx = ctxOf s.th ∧ e.tag = t.toNat) with
        | some e => if e.joined then deliverSingle d t else throw (.wait (.subJoin e.entry))
        | none => deliverSingle d t
      | none =>
        let t ← allocTag 0x10 0
        let tw : Word := BitVec.ofNat 64 t
        let s ← get
        match (List.range 32).find? (fun e => (subAt s cl e).isNone) with
        | none =>
          set (finishTag s s.th.core (ctxOf s.th) t s.th.lnum s.th.index (some (faultReport 0x10 0 s.th.a.pc 0 true idx 0)))
          deliverSingle d tw
        | some e =>
          let entry : Sub := { id := s.eng.nextId, cl := cl, entry := e, mtag := (opnd s a).bits 31 0, ctx := ctxOf s.th, part := s.th.part, core := s.th.core,
                               tag := t, layout := copyLayout s cl idx, user := !s.th.a.sup, uid := s.th.uid, pc := s.th.a.pc,
                               root := s.th.xlctx.bits 51 13 * 2 ^ 13, vf := s.th.vf, lnum := s.th.lnum, index := s.th.index,
                               joined := false }
          let s1 : State := { s with eng := { s.eng with nextId := s.eng.nextId + 1 } }
          set (updTh (post (setSub s1 entry) (.multicastJoin cl e)) (fun th => { th with answer := some (th.a.pc, tw) }))
          throw (.wait (.subJoin e))) s

/-- UNSUB (R382). -/
def execUnsub (a : Opnd) (s : State) : Out :=
  singleOp [] [a] .drop (notInView 0x02) (do
    let s ← get
    let core := s.th.core
    let ctx := ctxOf s.th
    let t := (opnd s a).bits 5 0
    match tagOf (ccOf s core ctx) t with
    | none => misuse 0x1d (opnd s a)
    | some g =>
      if g.op ≠ 0x10 then misuse 0x1d (opnd s a)
      else match s.eng.subs.find? (fun e => e.core = core ∧ e.ctx = ctx ∧ e.tag = t) with
        | none => pure .single
        | some e =>
          -- a delivery that has begun is given whole (R179)
          if s.eng.mcasts.any (fun m => m.id == e.id && decide (0 < m.pos)) then throw (.wait (.tag t)) else pure ()
          let s1 := post (dropSub s e.cl e.entry) (.multicastLeave e.cl e.mtag)
          set (finishTag s1 core ctx t s.th.lnum s.th.index none)
          pure .single) s

/-! ### Overlays (R383) -/

/-- The command of an overlay. -/
def ovldWord (tag frame n : Nat) (va : Word) : Nat :=
  0x07 * 2 ^ 248 + tag * 2 ^ 242 + frame * 2 ^ 233 + (n - 1) * 2 ^ 226 + va.toNat

/-- A frame specification out of range (R383). -/
def frameRangeBad (v : Word) : Bool :=
  v.bits 63 15 != 0 || v.bits 7 7 != 0 || v.bits 14 8 == 0 || decide (96 < v.bits 6 0 + v.bits 14 8)

/-- Frames of the executing core made invalid (R383). -/
def dropFrames (s : State) (f n : Nat) : State :=
  { s with mem := { s.mem with
    frames := s.mem.frames.filter (fun e => !(e.core == s.th.core && decide (f ≤ e.frame) && decide (e.frame < f + n))) } }

/-- OVLD (R383): the tag is allocated and the frames are invalid before it waits for room in the FIFO. -/
def execOvld (d : Dest) (a b : Opnd) (s : State) : Out :=
  singleOp [a] [b] d (do
      notInView 0x02
      let s ← get
      if (opnd s a).toNat % 1024 ≠ 0 then trapM 0x06 0x01 (opnd s a) (accDesc .exec 5 0) 0 else pure ()
      softs [b]
      let s ← get
      if !frameRangeBad (opnd s b) ∧ !s.th.a.sup ∧ (opnd s b).bits 6 0 < Assoc.getD s.mem.pinf s.th.core 0 then illegal 5 else pure ()) (do
    let s ← get
    let f := (opnd s b).bits 6 0
    let n := (opnd s b).bits 14 8
    if frameRangeBad (opnd s b) then misuse 0x1e (opnd s b)
    else
      let t ← heldTag 0x07 0
      if s.th.answered.isNone then modify (fun s => dropFrames s f n) else pure ()
      needFifo
      modify (fun s => enterFifo s (commandOf s s.th s.th.a.pc (ovldWord t f n (opnd s a)) true))
      deliverSingle d (BitVec.ofNat 64 t)) s

end Sys2Proof.Machine
end

