-- ==== Sys2Proof/Machine/Worlds.lean ====
section
/-! DEFINITION. Worlds.lean: forks, choice and abandonment (R135-R155, R384, R385). -/

namespace Sys2Proof.Machine

/-! ### Threads wherever they stand -/

/-- A thread changed where it stands. -/
def updAny (s : State) (uid : Nat) (f : Thread → Thread) : State :=
  updThread { s with wk := { s.wk with saved := s.wk.saved.map (fun t => if t.uid = uid then f t else t) } } uid f

/-- Records of an evicted thread taken out of every list. -/
def dropRecords (s : State) (uid : Nat) : State :=
  let keep (r : Rec) : Bool := r.saved != some uid
  { s with wk := { s.wk with cl := s.wk.cl.map (fun e =>
      (e.1, { e.2 with deque := e.2.deque.filter keep, resume := e.2.resume.filter keep })) } }

/-- A thread that ends without retiring (R153 step 4, R414): its chunk is discarded, its slot, pool entries and state block freed, its
watches, waiter places and requests removed. A singleton that a home has received is performed there. -/
def removeThread (s : State) (uid : Nat) : State :=
  match anyThread s uid with
  | none => s
  | some t =>
    let held := s.coh.pinHolder.any (fun h => h.2 = uid)
    let s1 := dropRecords (releaseLines (dropSlots s uid) uid) uid
    let s2 : State := { s1 with
      th := if s1.th.uid = uid then { Thread.vacant with core := t.core, slot := t.slot } else s1.th
      rest := s1.rest.filter (fun u => u.uid ≠ uid)
      wk := { s1.wk with saved := s1.wk.saved.filter (fun u => u.uid ≠ uid) }
      coh := { s1.coh with
        reqs := s1.coh.reqs.filter (fun r => r.uid ≠ uid)
        watches := s1.coh.watches.filter (fun w => w.uid ≠ uid)
        waiters := s1.coh.waiters.filter (fun w => w.uid ≠ uid)
        pinHolder := s1.coh.pinHolder.filter (fun h => h.2 ≠ uid)
        pinQueue := s1.coh.pinQueue.filter (fun h => h.2 ≠ uid) }
      sys := { s1.sys with ticketQueue := s1.sys.ticketQueue.filter (fun u => u ≠ uid) } }
    let s3 := offer (serveWrites (leaveTurns s2 uid)) (clusterOf t.core)
    postAll (if held then post s3 (.pinTokenGrant t.part) else s3) [.launchCompletion t.lnum, .contextSwitchOut t.core (ctxOf t)]

/-! ### The view table (R136, R143) -/

/-- Free view tags; the spec does not say which are taken (notes/assumptions/3.md): in replay those that the log names (R438). -/
def freeViews (s : State) : List Nat := (List.range 1024).filter (fun t => !s.vw.tags.contains t)
def takeViews (s : State) (n : Nat) : List Nat :=
  let f := freeViews s
  let i := (freeWord s).toNat % max 1 f.length
  let logged := (((chunkValues s s.th.part s.th.origin s.th.seq).drop s.th.chunk.logged.length).take n).map BitVec.toNat
  if logged.length = n ∧ logged.all f.contains then logged else ((f.drop i) ++ (f.take i)).take n

def forkAt (s : State) (id : Nat) : Option Fork := s.vw.forks.find? (fun f => f.id = id)
def setFork (s : State) (f : Fork) : State :=
  { s with vw := { s.vw with forks := f :: s.vw.forks.filter (fun x => x.id != f.id) } }
def dropFork (s : State) (id : Nat) : State := { s with vw := { s.vw with forks := s.vw.forks.filter (fun x => x.id != id) } }

/-- Reservations given back to a partition's counter (R143). -/
def unreserve (s : State) (part n : Nat) : State :=
  { s with vw := { s.vw with spillUsed := Assoc.set s.vw.spillUsed part (Assoc.getD s.vw.spillUsed part 0 - n) } }

/-- A view's versioned lines and reservations dropped, its tag freed (R153 step 6). -/
def dropView (s : State) (tag part : Nat) : State :=
  let n := (s.vw.reserved.filter (fun r => r.1 = tag)).length
  let s1 := unreserve s part n
  { s1 with vw := { s1.vw with
      tags := s1.vw.tags.filter (fun t => t ≠ tag)
      versions := s1.vw.versions.filter (fun v => v.tag != tag)
      reserved := s1.vw.reserved.filter (fun r => r.1 ≠ tag)
      dirty := s1.vw.dirty.filter (fun d => d.1 ≠ tag) } }

/-- Tags of a rival's deferred pushes freed without being set (R151). -/
def dropDeferral (s : State) (t : Thread) : State :=
  t.deferral.foldl (fun s d => match d with
    | .push _ tag _ _ => freeTag s t.core (ctxOf t) tag
    | .send .. => s) s

/-- A rival's view and deferral dropped, and the rival gone from its fork. -/
def dropRival (s : State) (t : Thread) : State :=
  let s1 := match t.chain with
    | tag :: _ => dropView s tag t.part
    | [] => s
  let s2 := match t.fork with
    | some id => markDead s1 id t.uid
    | none => s1
  dropDeferral s2 t

/-- A thread killed with every fork nested in it (R153 step 4); the depth of forks bounds `n`. -/
def killThread : Nat → State → Nat → State
  | 0, s, _ => s
  | n + 1, s, uid =>
    match anyThread s uid with
    | none => s
    | some t =>
      let s1 := match t.status with
        | .parent id => match forkAt s id with
          | some f => dropFork (f.rivals.foldl (fun s r => if r.2.2.2 then killThread n s r.2.1 else s) s) id
          | none => s
        | _ => s
      removeThread (dropRival s1 t) uid

/-- Deeper than any nesting of R137. -/
def killDepth : Nat := 8

/-! ### forkw (R384) -/

/-- A thread past its `forkw`, with the status delivered. -/
def passFork (t : Thread) (v : Word) : Thread :=
  let a := pushArch t.a (destOfWord t.words) v 0
  let a' := { a with pc := a.pc + BitVec.ofNat 64 (lenOfWords t.words), dist := a.dist + 1 + stallOfWords t.words, suppress := false }
  { t with a := a', chunk := Chunk.fresh a', boundary := false, status := .running }

def noneChosen : Word := BitVec.allOnes 64

/-- WORLD of a rival (R138). -/
def rivalWorld (tag k n : Nat) (defer : Bool) (depth : Nat) : Word :=
  BitVec.ofNat 64 (tag * 2 ^ 20 + k * 2 ^ 16 + (n - 1) * 2 ^ 12 + defer.toNat * 2 ^ 11 + depth * 2 ^ 8)

/-- Rival k of a fork, ready and evicted (R384); `t` is the parent, its `forkw` passed with its stamp: its sequence number and last commit
stamp, which order the rival's commits after the fork, are the parent's (R212). -/
def rivalOf (t : Thread) (uid fork k n tag : Nat) (defer : Bool) : Thread :=
  let p := passFork t (BitVec.ofNat 64 k)
  let a := { p.a with monitor := none }
  { p with
    uid := uid, a := a, chunk := Chunk.fresh a, world := rivalWorld tag k n defer (t.chain.length + 1), chain := tag :: t.chain
    fork := some fork, deferral := [], origin := t.origin ++ [k, t.seq], squashes := 0, pinned := false, crew := none
    tagCount := 0, boundCore := none, marked := false, leave := false, pendTrap := none, answer := none }

/-- The state blocks of a fork's rivals, which are made evicted (R384). -/
def rivalBlocks (s : State) (part n : Nat) : Option State :=
  (List.range n).foldlM (fun x k => takeBlock x part 640 (.thread (s.wk.nextUid + k))) s

/-- The checks of R384 in their order. -/
def forkChecks (a : Opnd) (defer : Bool) : M Unit := do
  let s ← get
  let n := (opnd s a).toNat
  if n < 2 ∨ 16 < n then
    stallCheck [a]
    misuse 0x1f (opnd s a)
  else if 4 ≤ s.th.chain.length then trapM 0x09 0x02 0 0 0
  else if defer && inView s && s.th.world.bits 11 11 == 0 then external 0x07 0
  else if (freeViews s).length < n then trapM 0x09 0x01 (opnd s a) (BitVec.ofNat 64 (freeViews s).length) 0
  else if (rivalBlocks s s.th.part n).isNone then trapM 0x09 0x04 (opnd s a) 0 0
  else pure ()

/-- The parent suspended and its rivals put on its cluster's resume list. -/
def makeFork (s : State) (tags : List Nat) (n : Nat) (defer : Bool) : State :=
  let t := s.th
  let id := s.vw.nextFork
  let base := s.wk.nextUid
  let fork : Fork :=
    { id := id, parent := t.uid, parentChain := t.chain, defer := defer, closed := false, choice := none, part := t.part
      rivals := (List.range n).map (fun k => (k, base + k, tags.getD k 0, true)) }
  let s0 := (rivalBlocks s t.part n).getD s
  let s1 := passSingle (tickFree s0) (lcOf s t.core + 1)
  let rs := (List.range n).map (fun k => rivalOf s1.th (base + k) id k n (tags.getD k 0) defer)
  let s2 : State := { s1 with
    th := { s1.th with status := .parent id }
    wk := { s1.wk with saved := s1.wk.saved ++ rs, nextUid := base + n }
    vw := { s1.vw with forks := fork :: s1.vw.forks, nextFork := id + 1, tags := tags ++ s1.vw.tags } }
  rs.foldl (fun s r => pushResume s (clusterOf t.core) (savedRec s r none false)) s2

/-- A rival that another rival's registered choice names performs no operation on its fork before the choice event (R153 step 5). -/
def heldM : M Unit := do
  let s ← get
  match heldForChoice s s.th.uid with
  | some f => throw (.wait (.choice f))
  | none => pure ()

/-- As `heldM`, before the checks of an instruction: a chunk in progress ends first. -/
def heldFirst : M Unit := do
  let s ← get
  if (heldForChoice s s.th.uid).isNone then pure ()
  else
    needSingle
    heldM

/-- A `forkw` in either form. -/
def forkOp (d : Dest) (a : Opnd) (defer : Bool) (s : State) : Out :=
  singleOp [a] [] d (do heldFirst; forkChecks a defer) (do
    releaseM
    let s ← get
    let n := (opnd s a).toNat
    -- the tags received are recorded with the singleton (R139)
    updChunk (fun c => { c with logged := (takeViews s n).reverse.map (BitVec.ofNat 64) ++ c.logged })
    modify (fun s1 => makeFork s1 (takeViews s n) n defer)
    pure .gone) s

/-- FORKW (R384). -/
def execForkw (d : Dest) (a : Opnd) (s : State) : Out := forkOp d a false s

/-- FORKW_DEFER (R150, R384). -/
def execForkwDefer (d : Dest) (a : Opnd) (s : State) : Out := forkOp d a true s

/-! ### choose (R153, R385) -/

/-- Rival k of a fork, if it lives. -/
def Fork.rival (f : Fork) (k : Nat) : Option (Nat × Nat) :=
  (f.rivals.find? (fun r => r.1 = k ∧ r.2.2.2)).map (fun r => (r.2.1, r.2.2.1))

/-- Deferred entries that the enclosing rival would hold after a choice (R152). -/
def mergedEntries (s : State) (f : Fork) (uid : Nat) : Nat :=
  ((anyThread s f.parent).map (fun t => t.deferral.length)).getD 0 + ((anyThread s uid).map (fun t => t.deferral.length)).getD 0

/-- CHOOSE (R153, R385): it registers its choice once and waits for the choice event. -/
def execChoose (a : Opnd) (s : State) : Out :=
  singleOp [] [a] .drop (pure ()) (do
    heldM
    let s ← get
    let uid := s.th.uid
    if s.th.answered.isSome then pure .single
    else if !inView s then misuse 0x20 (opnd s a)
    else if s.th.world.bits 15 12 + 1 ≤ (opnd s a).toNat then misuse 0x21 (opnd s a)
    else match s.th.fork.bind (forkAt s) with
      | none => set (killThread killDepth s uid); pure .gone
      | some f =>
        if f.closed then
          if f.choice.map (fun c => c.1) = some uid then throw (.wait (.choice f.id))
          else
            set (killThread killDepth s uid)
            pure .gone
        else match f.rival (opnd s a).toNat with
          | none => misuse 0x21 (opnd s a)
          | some (r, _) =>
            if !f.parentChain.isEmpty && decide (16 < mergedEntries s f r) then external 0x07 0
            else
              set (post (setFork s { f with closed := true, choice := some (uid, (opnd s a).toNat) }) (.choiceEvent f.id))
              throw (.wait (.choice f.id))) s

/-- A thread at a chunk end: evicted, or with an empty chunk (R153 step 2). -/
def atChunkEnd (s : State) (uid : Nat) : Bool :=
  match findThread s uid with
  | none => true
  | some t => t.chunk.phase == .running && t.chunk.count == 0

/-- Lines of a view. -/
def viewLines (s : State) (tag : Nat) : List Version := s.vw.versions.filter (fun v => v.tag = tag)

/-- Whether a line is stable at its home and in no L1. -/
def lineCleared (s : State) (line : Nat) : Bool :=
  !lineHeld s line && (dirOf s line).queue.isEmpty && (match (dirOf s line).st with
    | .I => true
    | .S => (sharerCores s (dirOf s line)).isEmpty
    | _ => false)

/-- Whether the choice event may take place now (R153 steps 2 and 3): rival k at a chunk end, the pin token free, its lines called in by
their homes. -/
def choiceReady (s : State) (f : Fork) (uid tag : Nat) : Bool :=
  atChunkEnd s uid && s.coh.pinHolder.all (fun h => h.1 != f.part) &&
    (!f.parentChain.isEmpty || (viewLines s tag).all (fun v => lineCleared s v.line))

/-- Committing chunks that have touched a stable line give way to a pinned commit (R113, R116). -/
def squashCommitting (s : State) (line : Nat) : State :=
  if lineHeld s line then s
  else ((touching s line 0).filter (fun t => t.chunk.phase == .committing)).foldl (fun s t => squash s t.uid true) s

/-- The homes that hold lines of view k asked to call in the copies of each, for a choice at depth 1, once rival k is at a chunk end (R153
steps 2 and 3): a pinned commit, which no committing chunk bars. -/
def prepareChoice (s : State) (f : Fork) (uid tag : Nat) : State :=
  if f.parentChain.isEmpty && atChunkEnd s uid && s.coh.pinHolder.all (fun h => h.1 != f.part) then
    (viewLines s tag).foldl (fun s v => prepareLine (squashCommitting s v.line) v.line (homeOf v.line)) s
  else s

/-- The stamp of a choice (R114): above the chooser's clock, the clocks and line stamps of the homes that hold its lines, and the clocks of the
holders of copies. -/
def choiceStamp (s : State) (core tag : Nat) : Nat :=
  let lines := viewLines s tag
  let holders := s.coh.l1.filter (fun l => lines.any (fun v => v.line == l.line))
  max (lcOf s core) (max (lines.foldl (fun m v => max m (max (stampOf s v.line) (clockOf s (homeOf v.line)))) 0)
    (holders.foldl (fun m l => max m (lcOf s l.core)) 0)) + 1

/-- A versioned line's bytes as a masked write. -/
def Version.masked (v : Version) : List (Option Byte) :=
  (List.range 64).map (fun i => if bitAt v.mask i then some (v.data.getD i 0) else none)

/-- View k becomes committed memory with one stamp, DT is set, and its reservations return (R37, R143, R153 step 3). -/
def choiceCommit (s : State) (part core tag : Nat) : State :=
  let st := choiceStamp s core tag
  let s1 := (viewLines s tag).foldl (fun s v => homeWriteAt s v.line v.masked st) (setLc s core st)
  dropView ((s1.vw.dirty.filter (fun d => d.1 = tag)).foldl (fun s d => setEntryBit s d.2.2.2.1 6) s1) tag part

/-- One versioned line merged into the enclosing view's. -/
def mergeLine (outer : Nat) (s : State) (v : Version) : State :=
  match versionOf s outer v.line with
  | none => setVersion s { v with tag := outer }
  | some o => setVersion s { o with
      data := (List.range 64).map (fun i => if bitAt v.mask i then v.data.getD i 0 else o.data.getD i 0), mask := o.mask ||| v.mask }

/-- View k merged into the enclosing view with one stamp, its reservations settled line by line (R143, R153 step 3). -/
def choiceMerge (s0 : State) (part core tag outer : Nat) : State :=
  let st := choiceStamp s0 core tag
  let s := (viewLines s0 tag).foldl (fun s v => bumpClock s (homeOf v.line) st) (setLc s0 core st)
  let mine := (s.vw.reserved.filter (fun r => r.1 = tag)).map (fun r => r.2)
  let pass := mine.filter (fun l => !(s.vw.reserved.contains (outer, l) || (versionOf s outer l).isSome))
  let s1 := (viewLines s tag).foldl (mergeLine outer) s
  let s2 : State := { s1 with vw := { s1.vw with
    reserved := pass.map (fun l => (outer, l)) ++ s1.vw.reserved.filter (fun r => !(r.1 == tag && pass.contains r.2))
    dirty := s1.vw.dirty.map (fun d => if d.1 = tag then (outer, d.2) else d) } }
  dropView s2 tag part

/-- Rival k takes the parent's place (R153 step 5): its view chain, WORLD, fork, crew membership and completion tags; the parent's slot is
freed. -/
def takePlace (s : State) (p t : Thread) : State :=
  let rename (g : TagSt) : TagSt := if g.uid = p.uid then { g with uid := t.uid } else g
  let s1 : State := { s with
    eng := { s.eng with
      cc := s.eng.cc.map (fun e => (e.1, { e.2 with tags := e.2.tags.map rename }))
      crews := s.eng.crews.map (fun c => { c with members := c.members.map (fun m => if m.2 = p.uid then (m.1, t.uid) else m) }) }
    vw := { s.vw with forks := s.vw.forks.map (fun f =>
      { f with rivals := f.rivals.map (fun r => if r.2.1 = p.uid then (r.1, t.uid, r.2.2) else r) }) } }
  let s2 := updAny s1 t.uid (fun t =>
    { t with
      world := p.world, chain := p.chain, fork := p.fork, crew := p.crew, tagCount := t.tagCount + p.tagCount
      deferral := if p.chain.isEmpty then t.deferral else p.deferral ++ t.deferral })
  removeThread s2 p.uid

/-- An evicted thread bound to its crew's cluster (R207): where its core is another cluster's, to no core, also if its count of tags or its
`recv` would bind it to that core (R209, R380), since both cannot hold (notes/assumptions/86.md). -/
def bindToCrew (s : State) (uid cl : Nat) : State :=
  match anyThread s uid with
  | some t =>
    let core := if clusterOf t.core = cl then t.boundCore else none
    let s1 := updAny s uid (fun t => { t with boundCore := core })
    if s.wk.cl.any (fun e => (e.2.resume ++ e.2.deque).any (fun r => r.saved = some uid)) then
      pushResume (dropRecords s1 uid) cl (savedRec s1 t core true)
    else s1
  | none => s

/-- A chosen rival on another cluster than its crew's goes there (R153 step 5, R207). -/
def toCrew (s : State) (uid : Nat) : State :=
  match anyThread s uid with
  | none => s
  | some t =>
    match t.crew with
    | none => s
    | some (cl, _, _) =>
      if (findThread s uid).isSome then
        if clusterOf t.core = cl then s
        else bindToCrew (onThread s uid (fun s => evict s (match t.status with | .waiting w => some w | _ => none))) uid cl
      else bindToCrew s uid cl

/-- Rival k continues (R151, R153 step 5): the chooser's instruction completes; a rival held for the choice runs on; at depth 1 its
deferred entries come first. One that has been evicted at a wait performs them when it is admitted. -/
def resumeChosen (s : State) (fork uid chooser : Nat) : State :=
  let s1 := if chooser = uid then answerThread s uid 0 else s
  match anyThread s1 uid with
  | none => s1
  | some t =>
    let free (st : Status) : Status := match st with
      | .waiting (.choice f) => if f = fork then .running else st
      | st => st
    let late (st : Status) : Status := if t.chain.isEmpty && !t.deferral.isEmpty then
        (match st with
          | .halted _ => .halted (some .deferred)
          | _ => .waiting .deferred)
      else st
    let s2 := updAny s1 uid (fun t => { t with status := late (free t.status) })
    if t.chain.isEmpty && !t.deferral.isEmpty && (findThread s2 uid).isSome then post s2 (.deferredEntryPerform uid) else s2

/-- A parent past its `forkw` with "none chosen" (R154); an evicted one's record goes to the resume list. -/
def passParent (s : State) (uid : Nat) : State :=
  let s1 := updAny s uid (fun t => passFork t noneChosen)
  match s1.wk.saved.find? (fun t => t.uid = uid) with
  | some t => pushResume s1 (homeCluster t) (savedRec s1 t t.boundCore t.crew.isSome)
  | none => s1

/-- An inner fork that rival k had open is killed, and k resumes from its `forkw` with the status "none chosen". -/
def closeInner (s : State) (uid : Nat) : State :=
  match anyThread s uid with
  | some t => match t.status with
    | .parent id =>
      let s1 := match forkAt s id with
        | some f => dropFork (f.rivals.foldl (fun s r => if r.2.2.2 then killThread killDepth s r.2.1 else s) s) id
        | none => s
      passParent s1 uid
    | _ => s
  | none => s

/-- The views of a fork's rivals that double faults have killed dropped (R395). -/
def sweepFallen (s : State) (id : Nat) : State :=
  let mine (t : Thread) : Bool := t.fork == some id
  let s1 := (s.vw.fallen.filter mine).foldl dropRival s
  { s1 with vw := { s1.vw with fallen := s1.vw.fallen.filter (fun t => !mine t) } }

/-- The parent of a fork whose last rival is gone resumes (R154). -/
def resumeParent (s : State) (f : Fork) : State := passParent (dropFork s f.id) f.parent

/-- A registered choice withdrawn: the `choose` is performed again, and meets what has changed (R152, R385). -/
def reopen (s : State) (f : Fork) (chooser : Nat) : State :=
  updAny (setFork s { f with closed := false, choice := none }) chooser (fun t =>
    { t with status := match t.status with | .waiting (.choice _) => .running | st => st })

/-- The choice event of a registered choice (R153); one that is not ready comes again. A fork that has lost its last rival closes. -/
def choiceEventAt (s0 : State) (id : Nat) : State :=
  let s := sweepFallen s0 id
  match forkAt s id with
  | none => s
  | some f =>
    match f.choice with
    | none => if f.rivals.all (fun r => !r.2.2.2) then resumeParent s f else s
    | some (chooser, k) =>
      match f.rival k with
      | none => reopen s f chooser
      | some (uid, tag) =>
        match anyThread s f.parent, anyThread s uid, anyThread s chooser with
        | some p, some t, some c =>
          if !choiceReady s f uid tag then post (prepareChoice s f uid tag) (.choiceEvent id)
          else if !f.parentChain.isEmpty && decide (16 < mergedEntries s f uid) then
            -- the rival held one more entry before its chunk end
            reopen s f chooser
          else
            let s1 := match f.parentChain with
              | [] => choiceCommit s f.part c.core tag
              | outer :: _ => choiceMerge s f.part c.core tag outer
            let s2 : State := silOfThread (logCommit s1
              { part := f.part, identity := c.origin, seq := c.seq, stamp := lcOf s1 c.core, core := c.core, values := [BitVec.ofNat 64 k] } (chooser != uid))
              c 1 [3, BitVec.ofNat 64 (lcOf s1 c.core), 0, freeWord2 s1, 0]
            let s3 := f.rivals.foldl (fun s r => if r.2.2.2 && r.2.1 != uid then killThread killDepth s r.2.1 else s) s2
            let s4 := takePlace (dropFork (closeInner s3 uid) id) p t
            toCrew (resumeChosen s4 id uid chooser) uid
        | _, _, _ => s

/-- CHOICE_EVENT (R153). -/
def execChoiceEvent (s : State) : Out :=
  match s.now with
  | some (.choiceEvent id) => .next (choiceEventAt { s with now := none } id)
  | _ => .next s

/-! ### Deferred entries (R151) -/

/-- One entry of the front thread's deferral performed as a singleton, with the order of R129 or R133. -/
def performEntry : Deferred → M Unit
  | .push pc tag word user => do
    releaseM
    needFifo
    modify (fun s => enterFifo s { commandOf s s.th pc (putBits word 247 242 tag) false with user := user })
  | .send _ name data rel scope => do
    if rel then releaseM else postedDone
    let s ← get
    match sendReady s s.th name with
    | some w => throw (.wait w)
    | none => set (inject s name data rel scope)

/-- The first entry of a chosen thread's deferral performed, or waited for; after the last the thread runs on. -/
def deferredEntryPerformAt (s : State) (uid : Nat) : State :=
  match findThread s uid with
  | none => s
  | some t =>
    match t.deferral with
    | [] => s
    | e :: rest =>
      if clusterHalted s (clusterOf t.core) then post s (.deferredEntryPerform uid)
      else onThread s uid (fun s =>
        match performEntry e s with
        | .error _ s1 => post s1 (.deferredEntryPerform uid)
        | .ok _ s1 =>
          let s2 := passSingle (updTh s1 (fun t => { t with deferral := rest })) (lcOf s1 s1.th.core + 1)
          if rest.isEmpty then updTh s2 (fun t => { t with status := .running }) else post s2 (.deferredEntryPerform uid))

/-- DEFERRED_ENTRY_PERFORM (R151). -/
def execDeferredEntryPerform (s : State) : Out :=
  match s.now with
  | some (.deferredEntryPerform uid) => .next (deferredEntryPerformAt { s with now := none } uid)
  | _ => .next s

/-! ### abandon and wself -/

/-- The executing rival removed (R154); the last one closes the fork. -/
def abandonFront (s : State) : State :=
  let uid := s.th.uid
  match s.th.fork.bind (forkAt s) with
  | none => killThread killDepth s uid
  | some f =>
    let s1 := killThread killDepth s uid
    match forkAt s1 f.id with
    | some f' => if !f.closed && f'.rivals.all (fun r => !r.2.2.2) then resumeParent s1 f' else s1
    | none => s1

/-- ABANDON (R154, R385). -/
def execAbandon (s : State) : Out :=
  singleOp [] [] .drop (pure ()) (do
    heldM
    let s ← get
    if !inView s then misuse 0x20 0
    else
      set (abandonFront (passSingle (advance s (nextPc s)) (lcOf s s.th.core + 1)))
      pure .gone) s

/-- WSELF (R385). -/
def execWself (d : Dest) (s : State) : Out := valueOp [] d 2 (fun s => worldWord s.th) s

end Sys2Proof.Machine
end

