-- ==== Sys2Proof/Machine/System.lean ====
section
/-! DEFINITION. System.lean: system registers, software traps, supervisor calls, return from a handler, translation invalidation, halt,
breakpoint, checkpoint request and capabilities (R43, R253-R257, R386-R394). -/

namespace Sys2Proof.Machine

/-! ### System registers (R254, R386) -/

/-- The number's check, before the other checks of the encoding (R254, R278). -/
def csrCheck (num : Nat) : M Unit := do
  let s ← get
  match csrRefused num (!s.th.a.sup) with
  | some sub => illegal sub
  | none => pure ()

/-- FPCTL and FPFLAGS, which govern the next instruction and do not end the chunk (R103, R235). -/
def isFpCsr (num : Nat) : Bool := num == 0x001 || num == 0x002

/-- Registers whose reads are recorded (R105). -/
def isLoggedCsr (num : Nat) : Bool := num == 0x020 || (0x030 ≤ num && num ≤ 0x037)

/-- Latency of a `csrr` (R273). -/
def csrLat (num : Nat) : Nat := if num = 0x001 ∨ num = 0x002 ∨ num = 0x008 ∨ num = 0x009 ∨ num = 0x00a then 2 else 0

/-- CSRR (R386). -/
def execCsrr (d : Dest) (num : BitVec 10) (s : State) : Out :=
  perform (do
    csrCheck num.toNat
    checks [] [] d (pure ())
    let s ← get
    let v := csrRead s s.th num.toNat
    set (tickFree s)
    let v ← if isLoggedCsr num.toNat then logValue v else pure v
    deliver d v (csrLat num.toNat)) s

/-- A write by the front thread in its mode. -/
def csrWriteFront (s : State) (num : Nat) (v : Word) : State := tickFree (csrStore updTh s s.th num v (!s.th.a.sup))

/-- What a write of a register other than FPCTL and FPFLAGS meets in a view (R147), and the end of its chunk (R103). -/
def csrSingle (num : Nat) : M Unit := if isFpCsr num then pure () else needSingle

/-- CSRW (R386). -/
def execCsrw (a : Opnd) (num : BitVec 10) (s : State) : Out :=
  perform (do
    csrCheck num.toNat
    checks [] [a] .drop (if isFpCsr num.toNat then pure () else notInView 8)
    csrSingle num.toNat
    let s ← get
    set (csrWriteFront s num.toNat (opnd s a))
    pure (if isFpCsr num.toNat then .seq else .single)) s

/-- CSRX (R386): it delivers the value before the write. -/
def execCsrx (d : Dest) (a : Opnd) (num : BitVec 10) (s : State) : Out :=
  perform (do
    csrCheck num.toNat
    checks [] [a] d (if isFpCsr num.toNat then pure () else notInView 8)
    csrSingle num.toNat
    let s ← get
    let v := csrRead s s.th num.toNat
    let v ← if isLoggedCsr num.toNat then logValue v else pure v
    modify (fun s => csrWriteFront s num.toNat (opnd s a))
    if isFpCsr num.toNat then deliver d v 2 else deliverSingle d v) s

/-! ### trap, sysc, bkpt, eret (R387, R389, R394) -/

/-- The instruction retires as a singleton, and a trap follows it (R390, R396). Its words are those reported, although TPC lies behind it
(DESIGN CHOICE, notes/assumptions/10.md). -/
def retireInto (s : State) (t : Trap) : State :=
  let s1 := passSingle (advance s (nextPc s)) (lcOf s s.th.core + 1)
  deliverTrap s1 t s1.th.a.pc

/-- TRAP (R387). -/
def execTrap (a : Opnd) (s : State) : Out :=
  singleOp [] [a] .drop (notInView 8) (do
    let s ← get
    set (retireInto s (trapOf s 0x10 0 (opnd s a) 0 0))
    pure .gone) s

/-- SYSC (R387): its result is delivered by the supervisor's `eret`. -/
def execSysc (d : Dest) (a : Opnd) (s : State) : Out :=
  singleOp [] [a] d (notInView 8) (do
    let s ← get
    set (retireInto s (trapOf s 0x11 0 (opnd s a) 0 0))
    pure .gone) s

/-- BKPT (R389, R396, R402). -/
def execBkpt (s : State) : Out :=
  singleOp [] [] .drop (pure ()) (do
    let s ← get
    set (retireInto s (trapOf s 0x02 0x02 0 0 0))
    pure .gone) s

/-- A supervisor-only instruction in user mode is illegal (R278). -/
def supervisorOnly : M Unit := do
  let s ← get
  if s.th.a.sup then pure () else illegal 5

/-- The front thread returned from its handler level (R394). -/
def returnFront (s : State) : State :=
  let b := if s.th.a.level = 1 then s.th.kern else s.th.supv
  let s1 := updArch (advance s b.pc) (fun a => returnFrom a b)
  if s.th.a.level = 2 ∧ b.cause.bits 7 0 = 0x11 then
    { pushResult s1 (destOfWord b.i3.toNat) b.i1 0 with
      th := { (pushResult s1 (destOfWord b.i3.toNat) b.i1 0).th with chunk := { s1.th.chunk with logged := [b.i1] } } }
  else s1

/-- ERET (R394). -/
def execEret (s : State) : Out :=
  perform (do
    let s ← get
    if s.th.a.level = 0 then illegal 5 else pure ()
    needSingle
    modify (fun s => passSingle (returnFront s) (lcOf s s.th.core + 1))
    pure .gone) s

/-! ### tlbinv (R43, R388) -/

/-- Clusters that a scope reaches; of the wider scopes this package is all that the model holds (notes/assumptions/18.md). -/
def inScope (scope : Scope) (own cl : Nat) : Bool :=
  match scope with
  | .cl => cl == own
  | .die => dieOf cl == dieOf own
  | _ => true

/-- Walk caches that a scope reaches: a cluster's walks are made by its die's walkers (R38). -/
def dieInScope (scope : Scope) (own die : Nat) : Bool :=
  match scope with
  | .cl => die == dieOf own
  | .die => die == dieOf own
  | _ => true

/-- A translation, or a node on its path: context, the VA from which it reaches and log2 of how far. The kinds of R388, none outside them;
`mine` names the contexts of the partition. -/
def tlbKind (mine : Nat → Bool) (kind va ctx ectx base lg : Nat) : Bool :=
  match kind with
  | 0 => ectx == ctx && base == va / 2 ^ lg * 2 ^ lg
  | 1 => ectx == ctx
  | _ => mine ectx

/-- The contexts of the front thread's partition. -/
def ownCtx (s : State) (ectx : Nat) : Bool := cdPart s ectx == s.th.part

/-- What a `tlbinv` names: a translation of a cluster, by its context, page and size (R388). -/
def tlbMatch (s : State) (kind : Nat) (scope : Scope) (va ctx cl ectx base lg : Nat) : Bool :=
  inScope scope (clusterOf s.th.core) cl && tlbKind (ownCtx s) kind va ctx ectx base lg

/-- Matching entries dropped from the TLBs and walk caches, and the chunks squashed that had used such a translation (R43). A walk reads its
entries when it is performed: one in flight reads none before. -/
def invalidateTlb (s : State) (kind : Nat) (scope : Scope) (va ctx : Nat) : State :=
  let used (t : Thread) : Bool := t.uid != s.th.uid && t.chunk.used.any (fun u => tlbMatch s kind scope va ctx (clusterOf t.core) u.1 u.2.1 u.2.2)
  let s1 := dropTlb s (fun e => tlbMatch s kind scope va ctx e.cl e.ctx e.base e.lg)
  let s2 : State := { s1 with mem := { s1.mem with wcache := s1.mem.wcache.filter (fun e => !(dieInScope scope (clusterOf s.th.core) e.die &&
    tlbKind (ownCtx s) kind va ctx e.ctx (e.base * 2 ^ (12 + 9 * e.lvl)) (12 + 9 * e.lvl))) } }
  (s.rest.filter used).foldl (fun s t => squash s t.uid false) s2

/-- Another device's `tlbinv` of scope `.dom` (R43, R388): it names contexts of the partitions that have its domain job. -/
def farTlbinvAt (s : State) (job kind va ctx : Nat) : State :=
  let mine (ectx : Nat) : Bool := pdValid s (cdPart s ectx) && pdJob s (cdPart s ectx) == job
  let hit (ectx base lg : Nat) : Bool := mine ectx && tlbKind mine kind va ctx ectx base lg
  let used (t : Thread) : Bool := t.chunk.used.any (fun u => hit u.1 u.2.1 u.2.2)
  let s1 := dropTlb s (fun e => hit e.ctx e.base e.lg)
  let s2 : State := { s1 with mem := { s1.mem with wcache := s1.mem.wcache.filter (fun e =>
    !(hit e.ctx (e.base * 2 ^ (12 + 9 * e.lvl)) (12 + 9 * e.lvl))) } }
  ((threads s).filter used).foldl (fun s t => squash s t.uid false) s2

/-- A `tlbinv` of a kind and scope; it reads the operands that its kind uses (R388). -/
def tlbinvOp (a b : Opnd) (kind : Nat) (scope : Scope) (s : State) : Out :=
  perform (do
    let va := if kind = 0 then [a] else []
    let tag := if kind < 2 then [b] else []
    supervisorOnly
    checks va tag .drop (notInView 8)
    needSingle
    modify (fun s => invalidateTlb s kind scope (opnd s a).toNat ((opnd s b).bits 11 0))
    pure .single) s

/-- TLBINV_PG (R388). -/
def execTlbinvPg (a b : Opnd) (s : State) : Out := tlbinvOp a b 0 .pkg s

/-- TLBINV_CTX (R388). -/
def execTlbinvCtx (a b : Opnd) (s : State) : Out := tlbinvOp a b 1 .pkg s

/-- TLBINV_ALL (R388). -/
def execTlbinvAll (a b : Opnd) (s : State) : Out := tlbinvOp a b 2 .pkg s

/-- TLBINV_LONG (R388). -/
def execTlbinvLong (a b : Opnd) (kind : Fin 3) (scope : Scope) (s : State) : Out := tlbinvOp a b kind.val scope s

/-! ### halt, ckpt, cap (R389) -/

/-- HALT (R389, R419): it retires, and the cluster halts. -/
def execHalt (s : State) : Out :=
  perform (do
    supervisorOnly
    notInView 8
    needSingle
    modify (fun s => haltCluster (passSingle (advance s (nextPc s)) (lcOf s s.th.core + 1)) (clusterOf s.th.core) 1 0)
    pure .gone) s

/-- CKPT (R389): the request is made once; the capture answers it. -/
def execCkpt (d : Dest) (s : State) : Out :=
  perform (do
    supervisorOnly
    checks [] [] d (notInView 8)
    needSingle
    let s ← get
    match s.th.answered.or (replayedVal s) with
    | some n =>
      let n ← logValue n
      deliverSingle d n
    | none =>
      set (if s.agenda.contains (.checkpoint s.th.part) then s else post s (.checkpoint s.th.part))
      throw (.wait .checkpoint)) s

/-- CAP (R389, R449). -/
def execCap (d : Dest) (a : Opnd) (s : State) : Out :=
  perform (do
    checks [] [a] d (notInView 8)
    let s ← get
    deliver d (capWord s s.th.part ((opnd s a).bits 4 0)) 2) s

end Sys2Proof.Machine
end

