-- ==== Sys2Proof/Machine/Filter.lean ====
section
/-! DEFINITION. Filter.lean: the filter instructions of Sillage (R431-R436); each acts on the run at the head of `dbg.runs`. -/

namespace Sys2Proof.Machine

/-! ### Runs -/

/-- A budget or rate of a die and tenant reduced by one. -/
def takeOne (die vf : Nat) (l : List (Nat × Nat × Nat)) : List (Nat × Nat × Nat) :=
  l.map (fun e => if e.1 = die ∧ e.2.1 = vf then (e.1, e.2.1, e.2.2 - 1) else e)

def leftOf (l : List (Nat × Nat × Nat)) (die vf : Nat) : Nat :=
  ((l.find? (fun e => e.1 = die ∧ e.2.1 = vf)).map (fun e => e.2.2)).getD 0

/-- One instruction charged to a run's tenant (R431). -/
def charge (s : State) (r : FilterRun) : State :=
  if r.supv then s else { s with dbg := { s.dbg with budget := takeOne r.die r.vf s.dbg.budget } }

def setRuns (s : State) (rs : List FilterRun) : State := { s with dbg := { s.dbg with runs := rs } }

/-- An instruction of the run at the head. -/
def filterOp (f : FilterRun → State → State × FilterRun) (s : State) : Out :=
  match s.dbg.runs with
  | [] => .next s
  | r :: _ =>
    let x := f { r with count := r.count + 1 } (charge s r)
    .next (setRuns x.1 (x.2 :: x.1.dbg.runs.tail))

def FilterRun.reg (r : FilterRun) (i : Fin 8) : Word := r.regs.getD i.val 0
/-- The run at its next instruction. -/
def FilterRun.pass (r : FilterRun) : FilterRun := { r with pc := r.pc + 1 }
def FilterRun.put (r : FilterRun) (d : Fin 8) (v : Word) : FilterRun := { r with regs := r.regs.set d.val v, pc := r.pc + 1 }

/-- The second source (R432). -/
def FilterRun.src (r : FilterRun) : FSrc → Word
  | .reg b => r.reg b
  | .imm v => v.zeroExtend 64

/-- A value of the registers into fd. -/
def filterVal (d : Fin 8) (v : FilterRun → Word) (s : State) : Out := filterOp (fun r s => (s, r.put d (v r))) s

/-- fd := fa op s2 (R433). -/
def filterAlu (f : Word → Word → Word) (d a : Fin 8) (b : FSrc) (s : State) : Out := filterVal d (fun r => f (r.reg a) (r.src b)) s

/-- A branch (R433). -/
def filterBranch (c : FilterRun → Bool) (off : Fin 64) (s : State) : Out :=
  filterOp (fun r s => (s, if c r then { r with pc := r.pc + off.val } else r.pass)) s

/-! ### Values and branches (R433) -/

/-- FILTER_LDEV (R433). -/
def execFilterLdev (d : Fin 8) (n : Fin 16) (s : State) : Out := filterVal d (fun r => r.ev.fields.getD n.val 0) s
/-- FILTER_MULU (R433). -/
def execFilterMulu (d a : Fin 8) (b : FSrc) (s : State) : Out := filterAlu (fun x y => x * y) d a b s
/-- FILTER_LI (R433). -/
def execFilterLi (d : Fin 8) (imm : BitVec 16) (s : State) : Out := filterVal d (fun _ => imm.signExtend 64) s
/-- FILTER_ADD (R433). -/
def execFilterAdd (d a : Fin 8) (b : FSrc) (s : State) : Out := filterAlu (fun x y => x + y) d a b s
/-- FILTER_SUB (R433). -/
def execFilterSub (d a : Fin 8) (b : FSrc) (s : State) : Out := filterAlu (fun x y => x - y) d a b s
/-- FILTER_AND (R433). -/
def execFilterAnd (d a : Fin 8) (b : FSrc) (s : State) : Out := filterAlu (fun x y => x &&& y) d a b s
/-- FILTER_OR (R433). -/
def execFilterOr (d a : Fin 8) (b : FSrc) (s : State) : Out := filterAlu (fun x y => x ||| y) d a b s
/-- FILTER_XOR (R433). -/
def execFilterXor (d a : Fin 8) (b : FSrc) (s : State) : Out := filterAlu (fun x y => x ^^^ y) d a b s
/-- FILTER_SHL (R433). -/
def execFilterShl (d a : Fin 8) (b : FSrc) (s : State) : Out := filterAlu (fun x y => x <<< (y.bits 5 0)) d a b s
/-- FILTER_SHR (R433). -/
def execFilterShr (d a : Fin 8) (b : FSrc) (s : State) : Out := filterAlu (fun x y => x >>> (y.bits 5 0)) d a b s
/-- FILTER_MIN (R433). -/
def execFilterMin (d a : Fin 8) (b : FSrc) (s : State) : Out := filterAlu (fun x y => if x.toNat < y.toNat then x else y) d a b s
/-- FILTER_MAX (R433). -/
def execFilterMax (d a : Fin 8) (b : FSrc) (s : State) : Out := filterAlu (fun x y => if x.toNat < y.toNat then y else x) d a b s
/-- FILTER_BEQ (R433). -/
def execFilterBeq (a b : Fin 8) (off : Fin 64) (s : State) : Out := filterBranch (fun r => r.reg a == r.reg b) off s
/-- FILTER_BNE (R433). -/
def execFilterBne (a b : Fin 8) (off : Fin 64) (s : State) : Out := filterBranch (fun r => r.reg a != r.reg b) off s
/-- FILTER_BLTU (R433). -/
def execFilterBltu (a b : Fin 8) (off : Fin 64) (s : State) : Out :=
  filterBranch (fun r => decide ((r.reg a).toNat < (r.reg b).toNat)) off s
/-- FILTER_BGEU (R433). -/
def execFilterBgeu (a b : Fin 8) (off : Fin 64) (s : State) : Out :=
  filterBranch (fun r => decide ((r.reg b).toNat ≤ (r.reg a).toNat)) off s
/-- FILTER_BR (R433). -/
def execFilterBr (off : Fin 64) (s : State) : Out := filterBranch (fun _ => true) off s

/-! ### Objects (R434) -/

/-- A counter of `n` bytes in the SRAM advanced, saturating. -/
def sramAdd (s : State) (die at_ n inc : Nat) : State := sramWrite s die at_ n (min (sramNat s die at_ n + inc) (256 ^ n - 1))

/-- Control of object o of a die when it is valid and of a kind; an update of any other object changes nothing (notes/assumptions/13.md). -/
def objOf (s : State) (die o kind : Nat) : Option Word :=
  let w := obj0 s die o
  if objV w ∧ objKind w = kind then some w else none

/-- Number of significant bits. -/
def bitLen (x : Word) : Nat := if x = 0 then 0 else x.toNat.log2 + 1

/-- The bin of a histogram. -/
def histBin (p lo x : Word) : Nat :=
  let b := 2 ^ p.bits 3 0
  if p.bits 16 16 = 1 then (if x.toNat < lo.toNat then 0 else min (b - 1) ((x.toNat - lo.toNat) / 2 ^ p.bits 22 17))
  else min (b - 1) (bitLen x)

def hincAt (s : State) (die o : Nat) (x inc : Word) : State :=
  match objOf s die o 0 with
  | none => s
  | some w => sramAdd s die (objAddr w + 8 * histBin (obj1 s die o) (objLo s die o) x) 8 inc.toNat

/-- The counter of row r for a key. -/
def cmsIndex (lw r : Nat) (key : Word) : Nat := (key.toNat * (0x9e3779b97f4a7c15 + 2 * r)) % 2 ^ 64 / 2 ^ (64 - lw)

def cmsAt (s : State) (die o : Nat) (key inc : Word) : State :=
  match objOf s die o 1 with
  | none => s
  | some w =>
    let lw := (obj1 s die o).bits 15 12
    (List.range ((obj1 s die o).bits 11 8)).foldl (fun s r => sramAdd s die (objAddr w + 4 * (r * 2 ^ lw + cmsIndex lw r key)) 4 inc.toNat) s

def hllAt (s : State) (die o : Nat) (key : Word) : State :=
  match objOf s die o 2 with
  | none => s
  | some w =>
    let p := (obj1 s die o).bits 7 4
    let x := (key.toNat * 0xc2b2ae3d27d4eb4f) % 2 ^ 64
    let v := 64 - bitLen (BitVec.ofNat 64 (x * 2 ^ p % 2 ^ 64 ||| 2 ^ (p - 1))) + 1
    let a := objAddr w + x / 2 ^ (64 - p)
    sramWrite s die a 1 (max (sramNat s die a 1) v)

/-- Word k of an object, 0 beyond its end. -/
def ldoValue (s : State) (die o : Nat) (k : Word) : Word :=
  let w := obj0 s die o
  if objV w ∧ k.toNat < 8 * objSize w then BitVec.ofNat 64 (sramNat s die (objAddr w + 8 * k.toNat) 8) else 0

/-- FILTER_HINC (R434). -/
def execFilterHinc (obj : Fin 64) (a b : Fin 8) (s : State) : Out :=
  filterOp (fun r s => (hincAt s r.die obj.val (r.reg a) (r.reg b), r.pass)) s
/-- FILTER_CMS (R434). -/
def execFilterCms (obj : Fin 64) (a b : Fin 8) (s : State) : Out :=
  filterOp (fun r s => (cmsAt s r.die obj.val (r.reg a) (r.reg b), r.pass)) s
/-- FILTER_HLL (R434). -/
def execFilterHll (obj : Fin 64) (a : Fin 8) (s : State) : Out := filterOp (fun r s => (hllAt s r.die obj.val (r.reg a), r.pass)) s
/-- FILTER_LDO (R433). -/
def execFilterLdo (d : Fin 8) (obj : Fin 64) (a : Fin 8) (s : State) : Out :=
  filterOp (fun r s => (s, r.put d (ldoValue s r.die obj.val (r.reg a)))) s

/-! ### Triggers, export, sample requests (R426, R435, R436) -/

/-- A trigger asserted (R435); one not in use does nothing. -/
def trigAt (s : State) (die core t : Nat) (v : Word) : State :=
  let c := tgctl s die t
  if c.bits 3 3 = 0 then s
  else
    let off := silAddr die (0xb000 + 0x20 * t)
    let s1 := if ctlGet s (off + 8) = 0 then ctlSet s (off + 0x10) v else s
    let s2 := ctlSet s1 (off + 8) (ctlGet s (off + 8) + 1)
    match c.bits 2 0 with
    | 1 => vfInterrupt s2 (spOwner c) 3
    | 2 => { s2 with dbg := { s2.dbg with traceOff := s2.dbg.traceOff.filter (fun x => x ≠ clusterOf core) } }
    | 3 => { s2 with dbg := { s2.dbg with traceOff := clusterOf core :: s2.dbg.traceOff } }
    | 4 => haltCluster s2 (clusterOf core) 3 0
    | _ => s2

/-- FILTER_TRIG (R435). -/
def execFilterTrig (n : Fin 16) (a : Fin 8) (s : State) : Out :=
  filterOp (fun r s => (trigAt s r.die r.ev.core n.val (r.reg a), r.pass)) s

/-- The record that `exp` writes (R436). -/
def expRecord (r : FilterRun) (a b : Word) (tag : BitVec 8) : List Byte :=
  [BitVec.ofNat 8 r.ev.code, tag, 0, 0, 0, 0, 0, 0] ++ leBytes 8 a.toNat ++ leBytes 8 b.toNat ++ leBytes 8 (r.ev.fields.getD 7 0).toNat

/-- Log2 of the records of a tenant's export ring (R428). -/
def expLog (s : State) (r : FilterRun) : Nat := (tnReg s r.die r.vf 4).bits 4 0
/-- Whether a tenant exports at all (notes/assumptions/13.md). -/
def expEnabled (s : State) (r : FilterRun) : Bool :=
  decide (7 ≤ expLog s r) && decide (expLog s r ≤ 25) && (replayOf s (vfPart s r.vf)).isNone
/-- Whether the rate and the ring have room for a record. -/
def expRoom (s : State) (r : FilterRun) : Bool :=
  decide (leftOf s.dbg.exportLeft r.die r.vf ≠ 0) && decide ((tnReg s r.die r.vf 5 - tnReg s r.die r.vf 6).toNat < 2 ^ expLog s r)
/-- The PA of the next record. -/
def expPa (s : State) (r : FilterRun) : Nat := (tnReg s r.die r.vf 3).toNat + (tnReg s r.die r.vf 5).toNat % 2 ^ expLog s r * 32

/-- A record exported to its tenant's ring, or dropped and counted (R428, R436); in replay the log writes it. In a ring that the supervisor
has placed in a hole of R23 there is no memory to write, and no filter instruction faults (R432). -/
def expAt (s : State) (r : FilterRun) (a b : Word) (tag : BitVec 8) : State :=
  if !expEnabled s r then s
  else if !expRoom s r then tnSet s r.die r.vf 7 (tnReg s r.die r.vf 7 + 1)
  else
    let pa := expPa s r
    let data := (expRecord r a b tag).map some
    let s1 := if atHole s pa then s else logInput (homeWriteOrPost s pa data (homeOf pa)) (vfPart s r.vf) pa data
    tnSet { s1 with dbg := { s1.dbg with exportLeft := takeOne r.die r.vf s1.dbg.exportLeft } } r.die r.vf 5 (tnReg s r.die r.vf 5 + 1)

/-- FILTER_EXP (R436). -/
def execFilterExp (a b : Fin 8) (tag : BitVec 8) (s : State) : Out :=
  filterOp (fun r s => (expAt s r (r.reg a) (r.reg b) tag, r.pass)) s

/-- FILTER_SREQ (R426, R433). -/
def execFilterSreq (s : State) : Out :=
  filterOp (fun r s => (post { s with dbg := { s.dbg with sampleReq := s.dbg.sampleReq ++ [r.ev.core] } } (.sampleRequestTake r.ev.core), r.pass)) s

/-- FILTER_END (R433): the run ends. -/
def execFilterEnd (s : State) : Out :=
  match s.dbg.runs with
  | [] => .next s
  | r :: rest => .next (setRuns (charge s r) rest)

end Sys2Proof.Machine
end

