-- ==== Sys2Proof/Machine/Fetch.lean ====
section
/-! DEFINITION. Fetch.lean: fetching an instruction's words from the instruction scratchpad (R58-R60), and what is checked around the
instruction before it is performed: comparators, residency, encoding (R396, R397, R402, R417). -/

namespace Sys2Proof.Machine

/-! ### The instruction scratchpad -/

/-- Address of a byte of a core's instruction scratchpad in `icells`. -/
def frameAddr (core frame off : Nat) : Nat := core * 2 ^ 17 + frame * 1024 + off

/-- The lowest-numbered frame that holds the block of a pc for a core and context (R59). -/
def frameOf (s : State) (core ctx pc : Nat) : Option Nat :=
  let fs := (s.mem.frames.filter (fun f => f.core = core ∧ f.block = bits pc 56 10 ∧
    (f.ctx = ctx ∨ f.frame < Assoc.getD s.mem.pinf core 0))).map (·.frame)
  fs.foldl (fun m f => match m with | none => some f | some g => some (min f g)) none

/-- The word at an address, for the front thread. -/
def fetchWord (s : State) (pc : Nat) : Option Nat :=
  (frameOf s s.th.core (ctxOf s.th) pc).map (fun f => leNat (cellsRead s.mem.icells (frameAddr s.th.core f (pc % 1024)) 4))

/-- What a fetch finds: the words, or the address of the word that is absent and its subcause (R59, R398). -/
inductive Fetched where
  | words (ws : List Nat)
  | absent (va : Word) (sub : Nat)
  deriving DecidableEq, Repr

/-- The words of the instruction at the front thread's pc. -/
def fetch (s : State) : Fetched :=
  let pc := s.th.a.pc
  match fetchWord s pc.toNat with
  | none => .absent pc 1
  | some w =>
    if isLongWord w then
      match fetchWord s (pc + 4).toNat with
      | none => .absent (pc + 4) 2
      | some w2 => .words [w, w2]
    else .words [w]

/-- The words as R401 reports them. -/
def packWords : List Nat → Nat
  | [w] => w
  | w :: w2 :: _ => w + w2 * 2 ^ 32
  | [] => 0

/-! ### The data access that comparators see (R402) -/

/-- Bytes of a data access: a number; of an element, whose page gives its width; of a stored tile, whose format gives the count of its
elements. -/
inductive AccessLen where
  | bytes (n : Nat)
  | element
  | tile (acc : Fin 8) (fm : FFmt)
  deriving DecidableEq, Repr

/-- A data access as its instruction names it: operand field of the base address, constant, offset, bytes, log2 of the size reported
(notes/assumptions/10.md), kind. -/
structure AccessForm where
  base : OpndK
  k : IWord
  off : Word
  bytes : AccessLen
  lg : Nat
  kind : AccKind
  deriving DecidableEq, Repr

/-- The data accesses of an instruction, in the order in which it checks them: those of its operands, the payload of a message and the area of
a tile among them; those of the engines and of an `mma` are not its own (R417). -/
def accessOf : Instr → List AccessForm
  | .ld _ a off sz => [⟨.r a, 0, shortOff off sz, .bytes (2 ^ szLog sz), szLog sz, .read⟩]
  | .st _ a off sz => [⟨.r a, 0, shortOff off sz, .bytes (2 ^ szLog sz), szLog sz, .write⟩]
  | .ldf _ a off _ => [⟨.r a, 0, off.signExtend 64, .element, 0, .read⟩]
  | .ldLong _ a sz k => [⟨a, k, k.signExtend 64, .bytes (2 ^ szLog sz), szLog sz, .read⟩]
  | .stLong _ a sz k => [⟨a, k, k.signExtend 64, .bytes (2 ^ szLog sz), szLog sz, .write⟩]
  | .ldfLong _ a _ _ k => [⟨a, k, k.signExtend 64, .element, 0, .read⟩]
  | .amo _ a _ w _ _ _ => [⟨.r a, 0, 0, .bytes (if w = .s32 ∨ w = .z32 then 4 else 8), (if w = .s32 ∨ w = .z32 then 2 else 3), .rmw⟩]
  | .cas _ a _ _ w _ _ => [⟨.r a, 0, 0, .bytes (if w = .s32 ∨ w = .z32 then 4 else 8), (if w = .s32 ∨ w = .z32 then 2 else 3), .rmw⟩]
  | .syncacqLk a _ => [⟨.r a, 0, 0, .bytes 8, 3, .rmw⟩]
  | .syncacqGe a _ => [⟨.r a, 0, 0, .bytes 8, 3, .sync⟩]
  | .syncacqTry _ a _ => [⟨.r a, 0, 0, .bytes 8, 3, .rmw⟩]
  | .syncrelSt a _ => [⟨.r a, 0, 0, .bytes 8, 3, .write⟩]
  | .syncrelAdd _ a _ => [⟨.r a, 0, 0, .bytes 8, 3, .rmw⟩]
  | .syncrelClr a _ => [⟨.r a, 0, 0, .bytes 8, 3, .write⟩]
  | .xinit a _ => [⟨.r a, 0, 0, .bytes 136, 3, .write⟩]
  | .xadd a _ => [⟨.r a, 0, 0, .bytes 136, 3, .rmw⟩]
  | .xmad a _ _ => [⟨.r a, 0, 0, .bytes 136, 3, .rmw⟩]
  | .xaddn a b => [⟨.r a, 0, 0, .bytes 136, 3, .rmw⟩, ⟨.r b, 0, 0, .bytes 136, 3, .read⟩]
  | .xrnd _ a _ => [⟨.r a, 0, 0, .bytes 136, 3, .read⟩]
  | .xstat _ a => [⟨.r a, 0, 0, .bytes 8, 3, .read⟩]
  | .join _ a => [⟨.r a, 0, 0, .bytes 64, 5, .rmw⟩]
  | .push _ a => [⟨.r a, 0, 0, .bytes 32, 5, .read⟩]
  | .pushDefer _ a => [⟨.r a, 0, 0, .bytes 32, 5, .read⟩]
  | .lrec a _ => [⟨.r a, 0, 0, .bytes 96, 3, .read⟩]
  | .send16 _ b => [⟨.r b, 0, 0, .bytes 16, 4, .read⟩]
  | .send32 _ b => [⟨.r b, 0, 0, .bytes 32, 4, .read⟩]
  | .send48 _ b => [⟨.r b, 0, 0, .bytes 48, 4, .read⟩]
  | .sendLong _ b len _ _ _ => [⟨.r b, 0, 0, .bytes (lenBytes len), 4, .read⟩]
  | .recv _ _ b => [⟨.r b, 0, 0, .bytes 48, 4, .write⟩]
  | .accld fm a _ => [⟨.r a, 0, 0, .bytes (accCount fm * accWidth fm), 5, .read⟩]
  | .accst fm a acc _ => [⟨.r a, 0, 0, .tile acc fm, 5, .write⟩]
  | .accstOvf fm a acc _ => [⟨.r a, 0, 0, .tile acc fm, 5, .write⟩]
  | _ => []

/-- The kind that a descriptor reports of an access: that of a sync object has its own (R400). -/
def reportedKind (i : Instr) (k : AccKind) : AccKind :=
  match i with
  | .syncacqLk .. => .sync
  | .syncacqTry .. => .sync
  | .syncrelSt .. => .sync
  | .syncrelAdd .. => .sync
  | .syncrelClr .. => .sync
  | _ => k

/-- Bytes of the element that an `ldf` at a VA reads. -/
def elementBytes (s : State) (va : Word) : Nat :=
  match (xlateAs s (whoOf s.th) va.toNat false .read).1 with
  | .ok x => match elFmt (peFmt x.leaf) with
    | some f => f.bytes
    | none => 1
  | .error _ => 1

/-- The tile that a crew's member names (R372). -/
def storedTile (s : State) (acc : Fin 8) : Option Tile := s.th.crew.map (fun c => tileAt s c.1 c.2.1 acc.val)

/-- An access: VA, bytes, log2 of the size reported, kind; none when its operand cannot be read. -/
def accessAt (s : State) (f : AccessForm) : Option (Word × Nat × Nat × AccKind) :=
  match (do declared (regsOf [f.base]) .drop; softs (regsOf [f.base]) : M Unit) s with
  | .error _ _ => none
  | .ok _ s1 =>
    let va := opndK s1 f.base f.k + f.off
    match f.bytes with
    | .bytes n => some (va, n, f.lg, f.kind)
    | .element => some (va, elementBytes s1 va, (elementBytes s1 va).log2, f.kind)
    | .tile acc fm => (storedTile s1 acc).map (fun t => (va, accCount t.fmt * FFmt.bytes fm, f.lg, f.kind))

/-- The accesses of an instruction. -/
def dataAccess (i : Instr) (s : State) : List (Word × Nat × Nat × AccKind) := (accessOf i).filterMap (accessAt s)

/-! ### One instruction of the front thread -/

/-- What stands before the instruction is performed. -/
inductive Gate where
  /-- a comparator halts the cluster (cause 1) -/
  | halt (cmp : Nat)
  /-- a breakpoint or watchpoint (causes 2 and 3), with the suppress-once bit set -/
  | reported (t : Trap)
  | trap (t : Trap)
  | go (i : Instr)
  deriving DecidableEq, Repr

/-- The decoded instruction of a fetch. -/
def decoded : Fetched → Option Instr
  | .words ws => match decode ws with
    | .ok (i, _) => some i
    | .error _ => none
  | .absent .. => none

/-- The words latched for the instruction (R401). -/
def latch (s : State) (f : Fetched) : State :=
  { s with th := { s.th with words := match f with
      | .words ws => packWords ws
      | .absent .. => 0 } }

/-- The comparators that match, halts first; none while the suppress-once bit is set (R402, R417). -/
def comparators (s : State) (i : Option Instr) : Option Gate :=
  if s.th.a.suppress then none
  else
    let acc := match i with
      | some i => dataAccess i s
      | none => []
    let watch (act : Nat) : Option (Nat × Word × Nat × AccKind) :=
      acc.findSome? (fun (va, n, lg, kind) => (watchAt s act (va, n, kind)).map (fun c => (c, va, lg, (i.map (fun i => reportedKind i kind)).getD kind)))
    match breakAt s 2, watch 2, breakAt s 1, watch 1 with
    | some n, _, _, _ => some (.halt n)
    | _, some w, _, _ => some (.halt w.1)
    | _, _, some n, w => some (.reported (trapOf s 0x02 0x01 (BitVec.ofNat 64 n) (Word.ofBool w.isSome) 0))
    | _, _, _, some (n, va, lg, kind) => some (.reported (trapOf s 0x03 0 va (accDesc kind lg 0) (BitVec.ofNat 64 n)))
    | _, _, _, _ => none

/-- The checks around an instruction, in the order of R396. -/
def gate (s : State) (f : Fetched) : Gate :=
  match comparators s (decoded f) with
  | some g => g
  | none =>
    match f with
    | .absent va sub => .trap { trapOf s 0x04 sub va 0 0 with i3 := 0 }
    | .words ws =>
      match decode ws with
      | .ok (i, _) => .go i
      | .error e => .trap (trapOf s 0x05 e.sub 0 0 0)

/-- The front thread with the suppress-once bit set (R402). -/
def suppressOnce (s : State) : State := updArch s (fun a => { a with suppress := true })

/-- A comparator halt: the chunk before the instruction ends, the cluster halts, and the instruction is not stopped again at once
(notes/assumptions/8.md). -/
def comparatorHalt (s : State) (n : Nat) : State :=
  haltCluster (suppressOnce s) (clusterOf s.th.core) 2 n

/-- A thread that waits at its instruction may perform it again; one whose chunk commits, or that waits for the pin token, may not. -/
def Wait.again : Wait → Bool
  | .commit => false
  | .pin => false
  | .mma => false
  | .choice _ => false
  | .deferred => false
  | _ => true

/-- Whether a thread may move. -/
def canMove (t : Thread) : Bool :=
  match t.status with
  | .running => true
  | .waiting w => w.again
  | _ => false

/-! ### Who moves -/

/-- A thread that stands where a capture stops it (R437): at a chunk end and not in a pinned attempt. -/
def atCut (t : Thread) : Bool := t.chunk.phase == .running && t.chunk.count == 0 && !t.pinned && t.pendTrap.isNone

/-- A wait for a memory access (R214): inside a chunk it is a pre-emption point only for a load's long miss or a marked thread. -/
def Wait.inChunk : Wait → Bool
  | .memory _ => true
  | .granule _ _ _ => true
  | .room => true
  | .lineEntry => true
  | .walk _ => true
  | _ => false

/-- A partition whose threads the supervisor has ordered out: it leaves run state, or is being resized and the thread is on a cluster that loses
cores (R412, R448). -/
def orderedOut (s : State) (t : Thread) : Bool :=
  pdState s t.part == 3 ||
    s.sys.resizes.any (fun r => r.1 == t.part && r.2.any (fun e => e.1 == 2048 + clusterOf t.core || e.1 / 4 == clusterOf t.core))

/-- Whether a thread may be evicted where it stands, and the wait that its state keeps (R210, R211, R371): a singleton wherever it waits. -/
def evictable (s : State) (t : Thread) : Option (Option Wait) :=
  match t.status with
  | .running =>
    if (t.marked || t.leave) && atCut t then some none else none
  | .waiting w =>
    if t.pinned || w == .commit || w == .mma || w == .pin || (w == .ticket && t.answered.isSome) then none
    else if w.inChunk && !t.boundary && !t.marked && !t.longMiss then none
    else some (some w)
  | .parent _ => if orderedOut s t then some none else none
  | _ => none

/-- A marked thread, or one that leaves, at a pre-emption point, whose eviction is due and has a block: it runs no further (R203, R214). -/
def leaving (s : State) (t : Thread) : Bool :=
  (t.marked || t.leave) && (evictable s t).isSome && s.agenda.contains (.threadEviction t.uid) && blockFree s t

/-- Whether a thread may not move for a reason outside it: its cluster is fenced (R96), its eviction is due (R214), its partition stops for a
capture (R437), has been interrupted (R440), or replays and another logged event comes first (R441). -/
def fenced (s : State) (t : Thread) : Bool :=
  s.coh.fencedCl.contains (clusterOf t.core) || leaving s t || (s.rep.stopping.contains t.part && atCut t) || s.sys.interrupted.contains t.part ||
    !replayTurn s t

/-- The next thread that may move, those behind the front one first where that waits. -/
def pickThread (s : State) : Option Nat :=
  if s.th.status = .running ∧ !fenced s s.th then some s.th.uid
  else match s.rest.find? (fun t => t.status = .running ∧ !fenced s t) with
    | some t => some t.uid
    | none => ((s.rest ++ [s.th]).find? (fun t => canMove t && !fenced s t)).map (·.uid)

/-- Whether a run may move (R429, R430): it has begun, or it is its die's next to begin and fewer than four have. -/
def runReady (s : State) (r : FilterRun) : Bool :=
  let rs := s.dbg.runs.filter (fun x => x.die = r.die)
  r.count != 0 || (rs.find? (fun x => x.count = 0) == some r && decide ((rs.filter (fun x => x.count ≠ 0)).length < 4))

/-- The next move when no order is given: pending steps and threads or filters take turns (notes/assumptions/2.md). -/
def pickMove (s : State) : Option Move :=
  let work : Option Move := match s.dbg.runs.findIdx? (runReady s) with
    | some pos => some (.filter pos)
    | none => (pickThread s).map .thread
  let due : Option Move := if s.agenda.isEmpty then none else some (.event 0)
  if s.turn then work.or due else due.or work

/-- The thread brought to the front to move; none where it may not. -/
def readyThread (s : State) (uid : Nat) : Option State :=
  let s1 := focusOn s uid
  if s1.th.uid = uid ∧ canMove s1.th ∧ !fenced s1 s1.th then some { s1 with th := { s1.th with status := .running } } else none

/-- The pending step taken off the agenda and set to be performed. -/
def takeEvent (s : State) (pos : Nat) : Option (Event × State) :=
  match s.agenda[pos]? with
  | none => none
  | some e => some (e, { s with agenda := s.agenda.eraseIdx pos, now := some e })

/-- The filter run brought to the front, and the word at its index (R430, R434). -/
def takeFilter (s : State) (pos : Nat) : Option (Nat × State) :=
  match s.dbg.runs[pos]? with
  | none => none
  | some r =>
    if runReady s r then some (filterWordAt s r.die r.slot r.pc, { s with dbg := { s.dbg with runs := r :: s.dbg.runs.eraseIdx pos } })
    else none

/-- A filter run that meets no instruction ends; an installed program has none (R434). -/
def dropFilter (s : State) : State := { s with dbg := { s.dbg with runs := s.dbg.runs.tail } }

/-! ### An instruction placed where the next step fetches -/

/-- Bytes put into a core's frame, and the frame's tag (R58). -/
def placeFrame (s : State) (core frame ctx pc w : Nat) : State :=
  { s with mem := { s.mem with
      icells := cellsWrite s.mem.icells (frameAddr core frame (pc % 1024)) (leBytes 4 w)
      frames := { core := core, frame := frame, ctx := ctx, block := bits pc 56 10 } ::
        s.mem.frames.filter (fun f => !(f.core == core && f.frame == frame)) } }

/-- A thread that runs, with the words at its pc in frame 0 (and frame 1 where the second word opens a block). -/
def placeThread (s : State) (w : Nat) : State :=
  let t := s.th
  let uid := if t.uid = 0 then 1 else t.uid
  let armed := (List.range 8).any (fun n => (dcmpc s (clusterOf t.core) n).bits 8 7 != 0)
  let a := { t.a with pc := t.a.pc &&& ~~~3#64, suppress := t.a.suppress || armed }
  let pc := a.pc.toNat
  let s1 : State := { s with
    th := { t with uid := uid, a := a, status := .running, chunk := if t.chunk.phase = .running then t.chunk else Chunk.fresh a }
    rest := s.rest.filter (fun u => u.uid ≠ uid)
    sched := [.thread uid] }
  let s2 := placeFrame s1 t.core 0 (ctxOf t) pc (w % 2 ^ 32)
  if pc % 1024 = 1020 then placeFrame s2 t.core 1 (ctxOf t) (a.pc + 4).toNat (w / 2 ^ 32 % 2 ^ 32)
  else placeFrame s2 t.core 0 (ctxOf t) (a.pc + 4).toNat (w / 2 ^ 32 % 2 ^ 32)

/-- A filter run at index 0 of slot 0 of die 0, the only one of its die, with the word there. -/
def placeFilter (s : State) (w : Nat) : State :=
  let run : FilterRun :=
    { die := 0, slot := 0, vf := 0, supv := false, ev := { die := 0, code := 0, vf := 0, core := 0, fields := [] }, pc := 0,
      regs := List.replicate 8 0, count := 0 }
  let s1 := sramWrite s 0 0 4 (w % 2 ^ 32)
  { s1 with dbg := { s1.dbg with runs := run :: s1.dbg.runs.filter (fun r => r.die ≠ 0) }, sched := [.filter 0] }

/-- An instruction placed where the next step finds it: a thread instruction where the thread decoder reads one, else a filter word. -/
def placeWord (s : State) (w : Nat) : State :=
  match decodeWords (w % 2 ^ 32) (w / 2 ^ 32 % 2 ^ 32) with
  | .ok _ => placeThread s w
  | .error _ =>
    match decodeFilter (w % 2 ^ 32) with
    | .ok _ => placeFilter s w
    | .error _ => placeThread s w

end Sys2Proof.Machine
end

