-- ==== Sys2Proof/Machine/Threads.lean ====
section
/-! DEFINITION. Threads.lean: creating and joining threads, `yield`, `self`, groups, barriers and crews (R204-R207, R344-R351). -/

namespace Sys2Proof.Machine

/-! ### spawn and join -/

/-- The alignment of `spawn`'s CODE and JOIN (R345): neither is an access, and the descriptor is 0 (notes/assumptions/10.md). -/
def checkSpawn (code join : Word) : M Unit :=
  if code.toNat % 4 ≠ 0 then trapM 0x06 0x01 code 0 0
  else if join.toNat % 64 ≠ 0 then trapM 0x06 0x01 join 0 0
  else pure ()

/-- Room on the deque of the thread's cluster (R198, R346). -/
def needDeque : M Unit := do
  let s ← get
  if dequeRoom s (clusterOf s.th.core) then pure () else throw (.wait .deque)

/-- SPAWN (R344, R345). -/
def execSpawn (a b c : Opnd) (idx : Bool) (s : State) : Out :=
  singleOp [a, c] (if idx then [b, .q 0] else [b]) .drop (do
      let s ← get
      checkSpawn (opnd s a) (opnd s c)
      notInView 4) (do
    needDeque
    releaseM
    let s ← get
    let r : Rec :=
      { index := if idx then (opnd s (.q 0)).bits 47 0 else s.th.index, lnum := s.th.lnum, join := opnd s c, frame := opnd s b,
        code := opnd s a, origin := s.th.origin ++ [s.th.seq], saved := none, boundCore := none, bound := false, acquire := true,
        token := s.th.a.token }
    set (pushDeque s (clusterOf s.th.core) s.th.part r)
    pure .single) s

/-- The record of a join object (R196, R197), from its 64 bytes. -/
def joinRec (o : Nat) (t : Thread) : Rec :=
  { index := bits o 511 464, lnum := t.lnum, join := BitVec.ofNat 64 (bits o 447 384), frame := BitVec.ofNat 64 (bits o 383 320),
    code := BitVec.ofNat 64 (bits o 319 256), origin := t.origin ++ [t.seq], saved := none, boundCore := none, bound := false,
    acquire := true, token := t.a.token }

/-- A slot of the deque of the thread's cluster reserved for its `join` (R346). -/
def reserveSlot : M Unit := do
  let s ← get
  let cl := clusterOf s.th.core
  if (clWork s cl).reserved.contains s.th.uid then pure ()
  else
    needDeque
    modify (fun s => updClWork s cl (fun w => { w with reserved := s.th.uid :: w.reserved }))

/-- A decrement of a join object's count, as its home receives it. -/
def joinOp : HomeOp := .amo .z64 .add (-1)

/-- JOIN (R346). -/
def execJoin (d : Dest) (a : Opnd) (s : State) : Out :=
  singleOp [a] [] d (do
      let s ← get
      if (opnd s a).toNat % 64 ≠ 0 then trapM 0x06 0x01 (opnd s a) (accDesc .rmw 5 0) 0 else pure ()
      let _ ← xlate (opnd s a) .rmw 5
      notInView 4) (do
    let s ← get
    let x ← xlate (opnd s a) .rmw 5
    let s ← get
    if !((x.tgt == .mem .D || x.tgt == .mem .U) && isLocal s x.pa) then misuse 0x0b (opnd s a)
    else
      reserveSlot
      releaseM
      let s ← get
      let o := leNat (homeBytes s x.pa 64)
      let cnt := bits o 63 0
      if bits o 255 64 ≠ 0 then misuse 0x0c (opnd s a)
      else if cnt = 0 then misuse 0x0d (opnd s a)
      else if cnt = 1 ∧ (bits o 257 256 ≠ 0 ∨ bits o 461 460 ≠ 0) then misuse 0x0c (opnd s a)
      else
        let _ ← atHome x 8 joinOp (fun c => some (c - 1))
        modify (fun s => dropSlots s s.th.uid)
        if cnt = 1 then
          modify (fun s => lastArrival s (· == .join x.pa) (fun _ _ => false))
          modify (fun s => pushDeque s (clusterOf s.th.core) s.th.part (joinRec o s.th))
        else modify clearToken
        modify (fun s => pushResult s d (BitVec.ofNat 64 (cnt - 1)) 0)
        pure .access) s

/-! ### yield and self -/

/-- Whether no core of a cluster can take a record for lack of a slot or of pool entries (R347). -/
def blocked (s : State) (cl : Nat) (r : Rec) : Bool :=
  match recNeeds s r with
  | none => false
  | some (regs, _, _) =>
    (coresOf cl).all (fun c => (r.boundCore.isSome && r.boundCore != some c) || (freeSlot s c).isNone ||
      decide (6144 < poolUsed s c + regs))

/-- Whether a cluster holds work for which a yielding thread makes room (R347). -/
def wantsSlot (s : State) (cl : Nat) : Bool :=
  let w := clWork s cl
  (w.resume ++ w.deque).any (blocked s cl) ||
    w.ranges.any (fun g => match launchOf s g.lnum with
      | some l => blocked s cl (rangeRec l g)
      | none => false)

/-- The yielding thread's eviction: unbound to the bottom of the deque, else, and in a rival, to the resume list (R347). -/
def yieldEvict (s : State) : State :=
  let t := s.th
  let cl := clusterOf t.core
  let core := bindingOf t none
  let bound := t.crew.isSome || core.isSome
  let s1 := evictFront s none
  let r := savedRec s1 { t with a := t.chunk.start } core t.crew.isSome
  if bound || inView s then pushResume s1 (homeCluster t) r else pushBottom s1 cl r

/-- YIELD (R347). -/
def execYield (s : State) : Out :=
  singleOp [] [] .drop (pure ()) (do
    let s ← get
    if !wantsSlot s (clusterOf s.th.core) then pure .single
    else if !blockFree s s.th then
      set (countNoBlock s s.th.part)
      pure .single
    else
      set (yieldEvict (passSingle (advance s (nextPc s)) (lcOf s s.th.core + 1)))
      pure .gone) s

/-- What `self` delivers (R348). -/
def selfValue (s : State) (sel : Fin 6) : Word :=
  BitVec.ofNat 64 (match sel.val with
    | 0 => s.th.core
    | 1 => clusterOf s.th.core
    | 2 => s.th.slot
    | 3 => ownDev s
    | 4 => (match launchOf s s.th.lnum with | some l => l.seqno | none => 0)
    | _ => s.th.seq)

/-- SELF (R348). -/
def execSelf (d : Dest) (e : Fin 6) (s : State) : Out :=
  simple [] d (do
    let s ← get
    let v ← if e.val < 4 then logValue (selfValue s e) else pure (selfValue s e)
    deliver d v 2) s

/-! ### Groups and barriers (R349, R350) -/

/-- A slot of GRPSLOTS (R205). -/
def slotBits (a : Arch) (k : Fin 4) : Nat := bits a.grpslots.toNat (16 * k.val + 15) (16 * k.val)

/-- The group number of a slot; a slot without a group is misuse (R349). -/
def slotGroup (k : Fin 4) : M Nat := do
  let s ← get
  if bitAt (slotBits s.th.a k) 15 then pure (slotBits s.th.a k % 256) else misuse 0x04 (BitVec.ofNat 64 k.val)

def Group.none : Group := { kind := 0, base := 0, stride := 1, count := 0, bitmap := [], phase := 0, arrived := 0 }

/-- A group of the front thread's launch. -/
def groupAt (s : State) (g : Nat) : Group :=
  match launchOf s s.th.lnum with
  | some l => l.groups.getD g Group.none
  | none => Group.none

/-- GRP (R349). -/
def execGrp (d : Dest) (slot : Fin 4) (s : State) : Out :=
  simple [] d (do
    let g ← slotGroup slot
    let s ← get
    let gr := groupAt s g
    deliver d (BitVec.ofNat 64 ((gr.member s.th.index).getD 0 * 2 ^ 32 + gr.size % 2 ^ 32)) 0) s

def setGroup (s : State) (g : Nat) (gr : Group) : State :=
  updLaunch s s.th.lnum (fun l => { l with groups := l.groups.set g gr })

def barrierWaits (lnum g phase : Nat) (_ : Thread) (w : Wait) : Bool := w == .barrier lnum g phase

/-- The phase of the thread's last arrival at a slot, if that phase has not completed. -/
def openPhase (s : State) (slot : Fin 4) (g : Nat) : Option Nat :=
  match Assoc.get s.th.arrivals slot.val with
  | some p => if (groupAt s g).phase ≤ p then some p else none
  | none => none

/-- The wait for a phase (R350, R425). -/
def waitPhase {α : Type} (g phase : Nat) : M α := do
  let s ← get
  set (depositToken s (.barrier s.th.lnum g phase))
  throw (.wait (.barrier s.th.lnum g phase))

/-- An arrival counted (R350): its rank, and whether it completed the phase. -/
def arrive (slot : Fin 4) (g : Nat) : M (Nat × Bool) := do
  let s ← get
  let gr := groupAt s g
  let last := decide (gr.size ≤ gr.arrived + 1)
  let gr' := if last then { gr with phase := gr.phase + 1, arrived := 0 } else { gr with arrived := gr.arrived + 1 }
  let s1 := updTh (setGroup s g gr') (fun t => { t with arrivals := Assoc.set t.arrivals slot.val gr.phase })
  set (if last then lastArrival s1 (· == .barrier s1.th.lnum g gr.phase) (barrierWaits s1.th.lnum g gr.phase) else s1)
  pure (gr.arrived, last)

/-- BAR_ARRIVE (R350). -/
def execBarArrive (d : Dest) (slot : Fin 4) (s : State) : Out :=
  singleOp [] [] d (notInView 4) (do
    let g ← slotGroup slot
    let s ← get
    match openPhase s slot g with
    | some p => waitPhase g p
    | none =>
      releaseM
      let r ← arrive slot g
      if r.2 then pure () else modify clearToken
      let v ← logValue (BitVec.ofNat 64 r.1)
      deliverSingle d v) s

/-- BAR_WAIT (R350). -/
def execBarWait (slot : Fin 4) (s : State) : Out :=
  singleOp [] [] .drop (notInView 4) (do
    let g ← slotGroup slot
    let s ← get
    if (Assoc.get s.th.arrivals slot.val).isNone then misuse 0x05 (BitVec.ofNat 64 slot.val)
    else match openPhase s slot g with
      | some p => waitPhase g p
      | none =>
        acquireM
        pure .single) s

/-- BAR (R350): its arrival, once registered, is not made again (R407). -/
def execBar (d : Dest) (slot : Fin 4) (s : State) : Out :=
  singleOp [] [] d (notInView 4) (do
    let g ← slotGroup slot
    let s ← get
    match s.th.answered, openPhase s slot g with
    | some _, some p => waitPhase g p
    | some rank, none =>
      acquireM
      let v ← logValue rank
      deliverSingle d v
    | none, some p => waitPhase g p
    | none, none =>
      releaseM
      let r ← arrive slot g
      if r.2 then
        acquireM
        let v ← logValue (BitVec.ofNat 64 r.1)
        deliverSingle d v
      else
        modify (fun s => updTh s (fun t => { t with answer := some (t.a.pc, BitVec.ofNat 64 r.1) }))
        let s ← get
        waitPhase g ((openPhase s slot g).getD 0)) s

/-! ### Crews (R207, R351) -/

def crewAt (s : State) (cl e : Nat) : Option Crew := s.eng.crews.find? (fun c => c.cl = cl ∧ c.entry = e)

/-- The crew of a thread, convened or not. -/
def crewOf (s : State) (t : Thread) : Option Crew :=
  match t.crew with
  | some (cl, e, _) => crewAt s cl e
  | none => none

/-- The crew that a group is convening. -/
def convening (s : State) (lnum g : Nat) : Option Crew := s.eng.crews.find? (fun c => c.lnum = lnum ∧ c.grp = g ∧ !c.convened)

/-- The lowest free crew entry of a cluster, of 4. -/
def freeCrew (s : State) (cl : Nat) : Option Nat := (List.range 4).find? (fun e => (crewAt s cl e).isNone)

/-- A member registered with a crew entry; the last one convenes it (R207). -/
def joinCrew (s : State) (c : Crew) (m : Nat) : State :=
  let members := c.members ++ [(m, s.th.uid)]
  let c' := { c with members := members, convened := decide (c.size ≤ members.length) }
  { s with
    eng := { s.eng with crews := c' :: s.eng.crews.filter (fun x => !(x.cl == c.cl && x.entry == c.entry)) }
    th := { s.th with crew := some (c.cl, c.entry, m) } }

/-- The member number delivered once the crew is convened, else the wait. -/
def convened (d : Dest) : M Ret := do
  let s ← get
  match s.th.crew, crewOf s s.th with
  | some (_, _, m), some c => if c.convened then deliverSingle d (BitVec.ofNat 64 m) else throw (.wait (.convene s.th.lnum c.grp))
  | _, _ => throw (.wait (.convene s.th.lnum 0))

/-- The eviction of a later member to its crew's cluster (R207), to which its record is bound, and not to a core that its count of tags
names (R380, notes/assumptions/86.md). -/
def moveToCrew (s : State) (cl : Nat) : State :=
  let s1 := evictFront s none
  pushResume s1 cl (savedRec s1 { s.th with a := s.th.chunk.start } none true)

/-- CONVENE (R351). -/
def execConvene (d : Dest) (slot : Fin 4) (s : State) : Out :=
  singleOp [] [] d (notInView 4) (do
    let g ← slotGroup slot
    let s ← get
    let slotW : Word := BitVec.ofNat 64 slot.val
    let m := slotBits s.th.a slot / 256 % 4
    if 4 < (groupAt s g).size then misuse 0x03 slotW
    else match crewOf s s.th with
      | some c =>
        if s.th.answered.isNone then misuse 0x06 slotW
        else if c.convened then deliverSingle d (BitVec.ofNat 64 m)
        else throw (.wait (.convene s.th.lnum g))
      | none =>
        let cl := clusterOf s.th.core
        let mark (s : State) : State := updTh s (fun t => { t with answer := some (t.a.pc, BitVec.ofNat 64 m) })
        match convening s s.th.lnum g with
        | some c =>
          if c.cl = cl then
            set (mark (joinCrew s c m))
            convened d
          else if !blockFree s s.th then
            set (countNoBlock s s.th.part)
            throw (.wait .saveBlock)
          else
            set (moveToCrew s c.cl)
            pure .gone
        | none =>
          match freeCrew s cl with
          | none => throw (.wait (.convene s.th.lnum g))
          | some e =>
            let c : Crew := { cl := cl, entry := e, lnum := s.th.lnum, grp := g, ctx := ctxOf s.th, size := (groupAt s g).size,
                              members := [], left := [], convened := false }
            set (mark (joinCrew s c m))
            convened d) s

/-- DISBAND (R351). -/
def execDisband (slot : Fin 4) (s : State) : Out :=
  singleOp [] [] .drop (notInView 4) (do
    let g ← slotGroup slot
    let s ← get
    match s.th.crew, crewOf s s.th with
    | some (cl, e, m), some c =>
      if c.grp = g ∧ c.lnum = s.th.lnum then
        set (updTh (leaveCrew s cl e m) (fun t => { t with crew := none }))
        pure .single
      else misuse 0x07 (BitVec.ofNat 64 slot.val)
    | _, _ => misuse 0x07 (BitVec.ofNat 64 slot.val)) s

end Sys2Proof.Machine
end

