-- ==== Sys2Proof/Machine/Matrix.lean ====
section
/-! DEFINITION. Matrix.lean: rings, `mma` and accumulator tiles (R239-R242, R360-R376, R411). -/

namespace Sys2Proof.Machine

/-! ### Scratchpad by context offset (R63) -/

/-- PA of a context offset, once its granule is present. -/
def scratchPaM (off : Nat) : M Nat := do
  let s ← get
  match scratchAt s (clusterOf s.th.core) (ctxOf s.th) off with
  | .ok p => pure (localPa s p)
  | .error (.hold w) => throw (.wait w)
  | .error (.fault sub lvl _) => trapM 0x07 sub (BitVec.ofNat 64 (0x1fe000000000000 + off)) (accDesc .read 5 lvl) 0

/-- A granule that an engine or a ring read waits for is restored next (R79). -/
def askGranule (s : State) : Wait → State
  | .granule cl ctx off => (allocOf s cl ctx).elim s (fun a => if a.asked.contains off then s else setAlloc s { a with asked := off :: a.asked })
  | _ => s

/-- PAs of the 64-byte lines of an area of a context's scratchpad. -/
def linePas : Nat → Nat → M (List Nat)
  | 0, _ => pure []
  | n + 1, off => do
    let p ← scratchPaM off
    let rest ← linePas n (off + 64)
    pure (p :: rest)

/-! ### Rings (R360-R366) -/

def ringAt (s : State) (cl ctx g : Nat) : Option Ring := s.eng.rings.find? (fun r => r.cl = cl ∧ r.ctx = ctx ∧ r.g = g)
def setRing (s : State) (r : Ring) : State :=
  { s with eng := { s.eng with rings := r :: s.eng.rings.filter (fun x => !(x.cl == r.cl && x.ctx == r.ctx && x.g == r.g)) } }

/-- The next entry, if it is free: the ring is not full (R363). -/
def Ring.room (r : Ring) : Bool := r.ents.getD r.next .reserved == .free
/-- The next entry reserved. -/
def Ring.reserve (r : Ring) : Ring := { r with ents := r.ents.set r.next .reserved, next := (r.next + 1) % r.count }
/-- The head is filled (R363). -/
def Ring.ready (r : Ring) : Bool := r.ents.getD r.head .free == .filled
/-- The head freed. -/
def Ring.pop (r : Ring) : Ring := { r with ents := r.ents.set r.head .free, head := (r.head + 1) % r.count }
def Ring.tile (r : Ring) (e : Nat) : Nat := r.base + e * 4096
def Ring.sidecar (r : Ring) (e : Nat) : Nat := r.base + r.count * 4096 + e * 128

/-- A ring of the front thread's context on its cluster; one never configured is misuse (R360). -/
def ringM (g : Fin 16) : M Ring := do
  let s ← get
  match ringAt s (clusterOf s.th.core) (ctxOf s.th) g.val with
  | some r => pure r
  | none => misuse 0x13 (BitVec.ofNat 64 g.val)

/-- A started `mma` that reads a ring's head (R363). -/
def ringHeld (s : State) (cl ctx g : Nat) : Bool :=
  s.eng.mma.any (fun m => m.cl == cl && (m.ra == g || m.rb == g) &&
    (match findThread s m.uid with | some t => ctxOf t == ctx | none => false))

/-- A copy not yet started that names a ring (R364). -/
def ringNamed (s : State) (cl ctx g : Nat) : Bool :=
  s.eng.fifo.any (fun c => c.cl == cl && c.ctx == ctx &&
    (match c.dst with | some l => bits l.word 61 60 == 1 && bits l.word 75 72 == g | none => false))

/-- RINGCFG (R364). -/
def execRingcfg (a : Opnd) (g : Fin 16) (s : State) : Out :=
  singleOp [] [a] .drop (notInView 0x02) (do
    let s ← get
    let cl := clusterOf s.th.core
    let ctx := ctxOf s.th
    let v := opnd s a
    let base := v.bits 20 0
    let n := v.bits 38 32
    let size := ((allocOf s cl ctx).map (fun x => x.size * 0x4000)).getD 0
    if v.bits 63 39 ≠ 0 ∨ v.bits 31 21 ≠ 0 ∨ n < 2 ∨ 64 < n ∨ base % 4096 ≠ 0 ∨ size < base + n * 4224 then misuse 0x14 v
    else
      let busy := match ringAt s cl ctx g.val with
        | some r => r.ents.any (fun e => e != .free)
        | none => false
      if busy || ringNamed s cl ctx g.val then misuse 0x15 v
      else
        set (setRing s { cl := cl, ctx := ctx, g := g.val, base := base, count := n, head := 0, next := 0, ents := List.replicate n .free })
        pure .single) s

/-- RPUSH_RES (R365). -/
def execRpushRes (d : Dest) (g : Fin 16) (s : State) : Out :=
  singleOp [] [] d (notInView 0x02) (do
    let r ← ringM g
    if !r.room then throw (.wait (.ring g.val))
    else
      modify (fun s => setRing s r.reserve)
      deliverSingle d (BitVec.ofNat 64 (r.tile r.next + r.sidecar r.next * 2 ^ 32))) s

/-- RPUSH_FILL (R365): the chunk before it has been performed at the banks. -/
def execRpushFill (a : Opnd) (g : Fin 16) (s : State) : Out :=
  singleOp [] [a] .drop (notInView 0x02) (do
    let r ← ringM g
    let s ← get
    let off := (opnd s a).bits 31 0
    match (List.range r.count).find? (fun e => r.ents.getD e .free == .reserved && r.tile e == off) with
    | none => misuse 0x16 (opnd s a)
    | some e =>
      set (setRing s { r with ents := r.ents.set e .filled })
      pure .single) s

/-- RPOP (R366). -/
def execRpop (g : Fin 16) (s : State) : Out :=
  singleOp [] [] .drop (notInView 0x02) (do
    let r ← ringM g
    let s ← get
    if !r.ready || ringHeld s r.cl r.ctx g.val then throw (.wait (.ring g.val))
    else
      set (setRing s r.pop)
      pure .single) s

/-! ### Accumulator tiles (R372, R411) -/

def setTile (s : State) (t : Tile) : State :=
  { s with eng := { s.eng with
      tiles := t :: s.eng.tiles.filter (fun x => !(x.cl == t.cl && x.crew == t.crew && x.acc == t.acc)) } }

def sat32 (n : Nat) : Nat := min n (2 ^ 32 - 1)

/-- A tile in use by a started `mma`. -/
def tileBusy (s : State) (t : Tile) : Bool :=
  s.eng.mma.any (fun m => m.cl == t.cl && m.acc == t.acc &&
    (match findThread s m.uid with
      | some th => (match th.crew with | some (_, e, _) => e == t.crew | none => false)
      | none => false))

/-- Class of a victim (R411): 0 a context switched out, 1 an issuer not resident, 2 any other. -/
def victimClass (s : State) (t : Tile) : Nat :=
  match crewAt s t.cl t.crew with
  | none => 0
  | some c =>
    if !((allocOf s t.cl c.ctx).map (fun a => a.resident)).getD false then 0
    else if ((Assoc.get c.members 0).bind (findThread s)).isNone then 1
    else 2

/-- The present tile to be saved: lowest class, then named least recently. -/
def victim (s : State) (cl : Nat) : Option Tile :=
  (sortBy (fun t => victimClass s t * (s.eng.namings + 1) + t.named)
    (s.eng.tiles.filter (fun t => t.cl = cl ∧ t.present ∧ !tileBusy s t))).head?

/-- Bytes of a tile save block (R411). -/
def tileBytes : Nat := 16448

/-- The array and header of a tile written to its save block; the spec gives them no layout there (R411, notes/assumptions/26.md). -/
def writeTile (s : State) (cl crew acc : Nat) : State :=
  match s.wk.blocks.find? (fun b => b.owner = .tile cl crew acc) with
  | some b => writeArea s ((ctlGet s (pdAddr b.part 3)).toNat + b.off) tileBytes
  | none => s

/-- The tile that a crew names is made present, a victim saved where all eight are in use; none where no save block can be had. -/
def bringTile (s : State) (cl crew acc : Nat) : Option State :=
  let t := tileAt s cl crew acc
  let s0 : State := { s with eng := { s.eng with namings := s.eng.namings + 1 } }
  let t' := { t with present := true, named := s.eng.namings + 1 }
  if t.present ∨ (s.eng.tiles.filter (fun x => x.cl = cl ∧ x.present)).length < 8 then some (setTile s0 t')
  else match victim s cl with
    | none => none
    | some v =>
      let out (s : State) : State :=
        setTile (perfTh (writeTile (setTile s { v with present := false, block := true }) cl v.crew v.acc) s.th 0x34 1) t'
      if v.block then some (out s0) else (takeBlock s0 s.th.part tileBytes (.tile cl v.crew v.acc)).map out

/-- The tile named by an instruction of the front thread: present, or the wait of R411. -/
def needTile (acc : Nat) : M Tile := do
  let s ← get
  match s.th.crew with
  | none => throw (.wait .saveBlock)
  | some (cl, e, _) =>
    match bringTile s cl e acc with
    | some s1 =>
      set s1
      pure (tileAt s1 cl e acc)
    | none =>
      let ev : Event := .tileSwap (cl * 4 + e) acc
      set (if s.agenda.contains ev then s else post (countNoBlock s s.th.part) ev)
      throw (.wait .saveBlock)

/-- The thread is the issuer of a convened crew (R369 item 3). -/
def issuer : M Unit := do
  let s ← get
  let ok := match s.th.crew, crewOf s s.th with
    | some (_, _, m), some c => c.convened && m == 0
    | _, _ => false
  if ok then pure ()
  else
    set (tickFree s)
    misuse 0x11 (freeWord s)

/-! ### mma (R367-R371) -/

/-- Operand classes (R367). -/
inductive MmaClass where
  | b8 | b16 | f | d
  deriving DecidableEq, Repr

def mmaClass : FFmt → MmaClass
  | .b8 _ => .b8
  | .ieee .d => .d
  | .ieee .f => .f
  | .ieee _ => .b16

/-- Rows and columns of the accumulator, and K. -/
def MmaClass.dim : MmaClass → Nat
  | .d => 32
  | _ => 64
def MmaClass.depth : MmaClass → Nat
  | .b8 => 64
  | .b16 => 32
  | _ => 16
def MmaClass.acc : MmaClass → AccFmt
  | .d => .d
  | _ => .f

/-- Elements per sidecar byte, which is the K-block (R362). -/
def MmaClass.block : MmaClass → Nat
  | .b8 => 32
  | _ => 16

def accFF : AccFmt → FF4
  | .f => .f
  | .d => .d

/-- A ring entry as read: its 4 KiB and its sidecar. -/
structure EntryData where
  tile : List Byte
  side : List Byte
  deriving DecidableEq, Repr

/-- Element p of an entry in a format. -/
def EntryData.elem (e : EntryData) (fm : FFmt) (p : Nat) : Ex :=
  FFmt.decode fm (leNat ((e.tile.drop (p * FFmt.bytes fm)).take (FFmt.bytes fm)))

/-- Element p with its scale (R239). -/
def EntryData.scaled (e : EntryData) (fm : FFmt) (g p : Nat) : Ex := scaledBy (e.elem fm p) (e.side.getD (p / g) 0).toNat

/-- The exact sum of products of a K-block (R239, R241); a zero sum is +0. -/
def blockSum (fa fb : FFmt) (a b : EntryData) (k g i j q : Nat) : Ex :=
  (List.range g).foldl (fun s kk =>
    let p := q * g + kk
    (Ex.add .rne s (Ex.mul (a.scaled fa g (i * k + p)) (b.scaled fb g (j * k + p))).x).x) (Ex.zero false)

/-- One element of the accumulator after an `mma` (R370). -/
def mmaElem (c : MmaClass) (fa fb : FFmt) (rm : Rm) (a b : EntryData) (i j : Nat) (old : Nat) : Nat :=
  let k := c.depth
  match c with
  | .b8 | .b16 =>
    (List.range (k / c.block)).foldl (fun acc q =>
      (finishOr (.ieee .f) .rne .sat
        (Ex.add .rne (FFmt.decode (.ieee .f) acc) (blockSum fa fb a b k c.block i j q))).v.toNat) old
  | _ =>
    let ff : FFmt := .ieee (accFF c.acc)
    let rm := if c = .d then rm else .rne
    (List.range k).foldl (fun acc kk =>
      (valFused false false ff rm .sat
        (BitVec.ofNat 64 (leNat ((a.tile.drop ((i * k + kk) * FFmt.bytes fa)).take (FFmt.bytes fa))))
        (BitVec.ofNat 64 (leNat ((b.tile.drop ((j * k + kk) * FFmt.bytes fb)).take (FFmt.bytes fb))))
        (BitVec.ofNat 64 acc)).v.toNat) old

/-- A tile after an `mma`, with its counters (R242, R370). -/
def mmaTile (t : Tile) (m : Mma) (a b : EntryData) : Tile :=
  let c := mmaClass m.fa
  let n := c.dim
  let ff : FFmt := .ieee (accFF t.fmt)
  let cells := (List.range (n * n)).map (fun p =>
    let old := Assoc.getD t.data p 0
    (p, old, mmaElem c m.fa m.fb m.rm a b (p / n) (p % n) old))
  let inv := (cells.filter (fun e => (FFmt.decode ff e.2.2).isNan && !(FFmt.decode ff e.2.1).isNan)).length
  let fin (x : Ex) : Bool := !x.isNan && !x.isInf
  let ovf := (cells.filter (fun e => (FFmt.decode ff e.2.2).isInf && fin (FFmt.decode ff e.2.1))).length
  { t with data := (cells.filter (fun e => e.2.2 != 0)).map (fun e => (e.1, e.2.2)), inv := sat32 (t.inv + inv), ovf := sat32 (t.ovf + ovf) }

/-- Whether a context offset's granule is present. -/
def scratchHere (s : State) (cl ctx off : Nat) : Bool :=
  match scratchAt s cl ctx off with
  | .ok _ => true
  | .error _ => false

/-- `n` bytes of a context's scratchpad, from an offset within one granule. -/
def scratchRead (s : State) (cl ctx off n : Nat) : List Byte :=
  match scratchAt s cl ctx off with
  | .ok p => cellsRead s.mem.cells (localPa s p) n
  | .error _ => List.replicate n 0

/-- The head entry as it stands: the tile, then the sidecar. -/
def entryBytes (s : State) (r : Ring) : List Byte :=
  scratchRead s r.cl r.ctx (r.tile r.head) 4096 ++ scratchRead s r.cl r.ctx (r.sidecar r.head) 128

/-- Each 64-byte unit of an entry as at the start or as at the retirement, as free bits say (R371). -/
def mixUnits (w w' : Word) (old new : List Byte) : List Byte :=
  (List.range 66).flatMap (fun u =>
    let pick := if u < 64 then bitAt w.toNat u else bitAt w'.toNat (u - 64)
    ((if pick then new else old).drop (64 * u)).take 64)

/-- What an `mma` reads of an entry: `n` is the first of its two free values. -/
def entryData (s : State) (r : Ring) (old : List Byte) (n : Nat) : EntryData :=
  let b := mixUnits (Config.free (s.free + n)) (Config.free (s.free + n + 1)) old (entryBytes s r)
  { tile := b.take 4096, side := b.drop 4096 }

/-- The granules of the head entry that are not present are restored next (R79). -/
def askEntry (s : State) (r : Ring) : State :=
  [r.tile r.head, r.sidecar r.head].foldl (fun s off => match scratchAt s r.cl r.ctx off with
    | .error (.hold w) => askGranule s w
    | _ => s) s

/-- The head entry of a ring has a poisoned line (R71). -/
def entryPoisoned (s : State) (r : Ring) : Bool :=
  ((List.range 64).map (fun i => r.tile r.head + 64 * i) ++ [r.sidecar r.head, r.sidecar r.head + 64]).any (fun off =>
    match scratchAt s r.cl r.ctx off with
    | .ok p => s.mem.poisoned.contains (lineOf (localPa s p))
    | .error _ => false)

/-- The head entry of a ring can be read: filled, its granules present. -/
def ringReadable (s : State) (r : Ring) : Bool :=
  r.ready && scratchHere s r.cl r.ctx (r.tile r.head) && scratchHere s r.cl r.ctx (r.sidecar r.head)

/-- An `mma` started by the front thread, whose conditions hold: it waits for the retirement (R371). -/
def startMma (s : State) (m : Mma) (a b : Ring) : State :=
  let m' := { m with dataA := entryBytes s a, dataB := entryBytes s b }
  post (waitAt { s with eng := { s.eng with mma := s.eng.mma ++ [m'] } } .mma) (.mmaRetirement m.uid)

/-- Whether an `mma` may start: both heads readable, and the unit free (R369). One that would read a poisoned line does not start: the
partition rolls back (R71). -/
def mmaCanStart (s : State) (ra rb : Ring) : Option Wait :=
  if !ringReadable s ra || entryPoisoned s ra then some (.ring ra.g)
  else if !ringReadable s rb || entryPoisoned s rb then some (.ring rb.g)
  else if s.eng.mma.any (fun m => m.cl == ra.cl) then some (.ring ra.g)
  else none

/-- An `mma` in any form: its checks in the order of R369, then the start or the wait. -/
def mmaOp (ra rb : Fin 16) (acc : Fin 8) (fa fb : FFmt) (rm : Rm) (ka kb : Bool) (s : State) : Out :=
  singleOp [] [] .drop (notInView 0x02) (do
    issuer
    if ra = rb then misuse 0x12 (BitVec.ofNat 64 ra.val)
    else
      let a ← ringM ra
      let b ← ringM rb
      let s ← get
      let t := match s.th.crew with
        | some (cl, e, _) => tileAt s cl e acc.val
        | none => tileAt s 0 0 acc.val
      if t.fmt ≠ (mmaClass fa).acc then misuse 0x17 (BitVec.ofNat 64 acc.val)
      else match mmaCanStart s a b with
        | some w =>
          set (postOnce (askEntry (askEntry s a) b) (.mmaStart s.th.uid))
          throw (.wait w)
        | none =>
          let _ ← needTile acc.val
          let m : Mma := { uid := s.th.uid, cl := a.cl, ra := ra.val, rb := rb.val, acc := acc.val, fa := fa, fb := fb, rm := rm, ka := ka,
                           kb := kb, dataA := [], dataB := [] }
          modify (fun s => startMma s m a b)
          pure .gone) s

/-- MMA (R368). -/
def execMma (ra rb : Fin 16) (acc : Fin 8) (fm : FFmt) (s : State) : Out := mmaOp ra rb acc fm fm .rne false false s

/-- MMA_KEEPA (R368). -/
def execMmaKeepa (ra rb : Fin 16) (acc : Fin 8) (fm : FFmt) (s : State) : Out := mmaOp ra rb acc fm fm .rne true false s

/-- MMA_KEEPB (R368). -/
def execMmaKeepb (ra rb : Fin 16) (acc : Fin 8) (fm : FFmt) (s : State) : Out := mmaOp ra rb acc fm fm .rne false true s

/-- MMA_KEEP (R368). -/
def execMmaKeep (ra rb : Fin 16) (acc : Fin 8) (fm : FFmt) (s : State) : Out := mmaOp ra rb acc fm fm .rne true true s

/-- MMA_LONG (R368). -/
def execMmaLong (ra rb : Fin 16) (acc : Fin 8) (fa fb : FFmt) (rm : Rm) (ka kb : Bool) (s : State) : Out := mmaOp ra rb acc fa fb rm ka kb s

/-- A started `mma` retires (R370): the tile, the counters, the pops, and the issuer's instruction. -/
def retireMma (s : State) (m : Mma) : State :=
  match findThread s m.uid with
  | none => { s with eng := { s.eng with mma := s.eng.mma.filter (fun x => x.uid != m.uid) } }
  | some t =>
    let s0 : State := { s with free := s.free + 4, eng := { s.eng with mma := s.eng.mma.filter (fun x => x.uid != m.uid) } }
    match ringAt s m.cl (ctxOf t) m.ra, ringAt s m.cl (ctxOf t) m.rb, t.crew with
    | some a, some b, some (cl, e, _) =>
      let s1 := setTile s0 (mmaTile (tileAt s cl e m.acc) m (entryData s a m.dataA 0) (entryData s b m.dataB 2))
      let s2 := if m.ka then s1 else setRing s1 a.pop
      let s3 := if m.kb then s2 else setRing s2 b.pop
      perfTh (onThread s3 m.uid (fun s => passSingle (advance s (nextPc s)) (lcOf s s.th.core + 1))) t 0x32 1
    | _, _, _ => s0

/-! ### Tile instructions (R373-R376) -/

/-- The offset of an area that lies wholly in a window of the own cluster. -/
def areaOffset (s : State) (va : Word) (size : Nat) : Option Nat :=
  match (if isWindow va.toNat then windowOf (clusterOf s.th.core) va.toNat else none) with
  | some (cl, off) => if cl = clusterOf s.th.core ∧ off + size ≤ scratchBytes then some off else none
  | none => none

/-- The checks of R319 on an area, alignment at 64 bytes (R374). -/
def areaEarly (kind : AccKind) (va : Word) (size : Nat) : M Unit := do
  if va.toNat % 64 ≠ 0 then trapM 0x06 0x01 va (accDesc kind 5 0) 0 else pure ()
  let s ← get
  match areaOffset s va size with
  | none => pure ()
  | some off =>
    match allocOf s (clusterOf s.th.core) (ctxOf s.th) with
    | some a => if a.size * 0x4000 < off + size then permissionM va kind 5 else pure ()
    | none => permissionM va kind 5

/-- PAs of the lines of an area; one out of place is misuse. -/
def areaPas (va : Word) (size : Nat) : M (List Nat) := do
  let s ← get
  match areaOffset s va size with
  | none => misuse 0x18 va
  | some off => linePas (size / 64) off

/-- ACCZ (R374). -/
def execAccz (fm : AccFmt) (acc : Fin 8) (s : State) : Out :=
  singleOp [] [] .drop (notInView 0x02) (do
    issuer
    let t ← needTile acc.val
    modify (fun s => setTile s { t with fmt := fm, data := [] })
    pure .single) s

/-- Elements of an area in order, those that are not zero. -/
def tileData (w : Nat) (bytes : List Byte) : Nat → Nat → List (Nat × Nat)
  | 0, _ => []
  | n + 1, p =>
    let v := leNat (bytes.take w)
    let rest := tileData w (bytes.drop w) n (p + 1)
    if v = 0 then rest else (p, v) :: rest

/-- ACCLD (R374). -/
def execAccld (fm : AccFmt) (a : Opnd) (acc : Fin 8) (s : State) : Out :=
  singleOp [a] [] .drop (do
      notInView 0x02
      issuer
      let s ← get
      areaEarly .read (opnd s a) (accCount fm * accWidth fm)) (do
    let s ← get
    let pas ← areaPas (opnd s a) (accCount fm * accWidth fm)
    poisonStops pas
    let t ← needTile acc.val
    let s ← get
    let bytes := pas.flatMap (fun p => cellsRead s.mem.cells p 64)
    set (setTile s { t with fmt := fm, data := tileData (accWidth fm) bytes (accCount fm) 0 })
    pure .single) s

/-- The largest finite value of a format with a sign. -/
def maxFinite (fm : FFmt) (neg : Bool) : Nat := FFmt.withSign fm neg (FFmt.maxCode fm)

/-- A format is unsigned (R225). -/
def isUnsigned : FFmt → Bool
  | .b8 b => b.uns
  | _ => false

/-- The mode in which a magnitude is rounded where its negation is rounded in a mode. -/
def mirrorRm : Rm → Rm
  | .rtn => .rtp
  | .rtp => .rtn
  | rm => rm

/-- An element converted for a store: its code, whether it was clamped, whether it overflowed (R242, R375). -/
def storeElem (src dst : FFmt) (rm : Rm) (ov : Ovf) (c : Nat) : Nat × Bool × Bool :=
  let x := FFmt.decode src c
  let r := finishOr dst rm ov (ExF.ok x)
  let y := FFmt.decode dst r.v.toNat
  let fin (x : Ex) : Bool := !x.isNan && !x.isInf
  let ieeeMax := (match dst with | .ieee _ => true | _ => false) && ov == .sat && fin x && y.isInf
  let v := if ieeeMax then maxFinite dst x.neg else r.v.toNat
  let above := fin x && r.fl &&& fOF != 0
  let negLost := isUnsigned dst && fin x && x.neg && (finishOr dst (mirrorRm rm) ov (ExF.ok x.negate)).v != 0
  (v, ov == .sat && (ieeeMax || above || negLost || (x.isInf && fin y)), ov == .ovf && fin x && !fin y)

/-- The bytes of a stored tile, with the counts of clamped and overflowed elements. -/
def storeTile (t : Tile) (dst : FFmt) (rm : Rm) (ov : Ovf) : List Byte × Nat × Nat :=
  let es := (List.range (accCount t.fmt)).map (fun p => storeElem (.ieee (accFF t.fmt)) dst rm ov (Assoc.getD t.data p 0))
  (es.flatMap (fun e => leBytes (FFmt.bytes dst) e.1), (es.filter (fun e => e.2.1)).length, (es.filter (fun e => e.2.2)).length)

/-- Whether a target is legal for a tile's format (R375). -/
def accTarget (t : AccFmt) (dst : FFmt) : Bool :=
  match t, dst with
  | .f, .ieee .d => false
  | .f, _ => true
  | .d, .ieee .d => true
  | .d, .ieee .f => true
  | .d, _ => false

/-- Lines written at their banks as a singleton (R132). -/
def writeLines : List Nat → List Byte → M Unit
  | [], _ => pure ()
  | p :: ps, bs => do
    let st ← singleStamp p
    modify (fun s => setStamp (memWrite s p (bs.take 64)) p st)
    writeLines ps (bs.drop 64)

/-- An `accst` in either mode (R375). -/
def accstOp (fm : FFmt) (a : Opnd) (acc : Fin 8) (rm : Rm) (ov : Ovf) (s : State) : Out :=
  let size (s : State) : Nat := match s.th.crew with
    | some (cl, e, _) => accCount (tileAt s cl e acc.val).fmt * FFmt.bytes fm
    | none => 0
  singleOp [a] [] .drop (do
      notInView 0x02
      issuer
      let s ← get
      areaEarly .write (opnd s a) (size s)) (do
    let s ← get
    let t ← needTile acc.val
    if !accTarget t.fmt fm then misuse 0x17 (BitVec.ofNat 64 acc.val)
    else
      let pas ← areaPas (opnd s a) (size s)
      let r := storeTile t fm rm ov
      writeLines pas r.1
      modify (fun s => setTile s { t with sat := sat32 (t.sat + r.2.1), ovf := sat32 (t.ovf + r.2.2) })
      pure .access) s

/-- ACCST (R375). -/
def execAccst (fm : FFmt) (a : Opnd) (acc : Fin 8) (rm : Rm) (s : State) : Out := accstOp fm a acc rm .sat s

/-- ACCST_OVF (R375). -/
def execAccstOvf (fm : FFmt) (a : Opnd) (acc : Fin 8) (rm : Rm) (s : State) : Out := accstOp fm a acc rm .ovf s

/-- What `mstat` delivers (R376). -/
def mstatValue (t : Tile) (e : Fin 7) : Nat :=
  match e.val with
  | 0 => t.inv
  | 1 => t.ovf
  | 2 => t.sat
  | 3 => (match t.fmt with | .d => 1 | .f => 2)
  | 4 => t.inv
  | 5 => t.ovf
  | _ => t.sat

/-- The counter that `mstat` clears. -/
def mstatClear (t : Tile) (e : Fin 7) : Tile :=
  match e.val with
  | 4 => { t with inv := 0 }
  | 5 => { t with ovf := 0 }
  | 6 => { t with sat := 0 }
  | _ => t

/-- MSTAT (R376): it does not wait for the tile. -/
def execMstat (d : Dest) (acc : Fin 8) (e : Fin 7) (s : State) : Out :=
  singleOp [] [] d (notInView 0x02) (do
    issuer
    let s ← get
    match s.th.crew with
    | none => throw (.wait .saveBlock)
    | some (cl, c, _) =>
      let t := tileAt s cl c acc.val
      set (setTile s (mstatClear t e))
      deliverSingle d (BitVec.ofNat 64 (mstatValue t e))) s

end Sys2Proof.Machine
end

