-- ==== Sys2Proof/Machine/EngineRun.lean ====
section
/-! DEFINITION. EngineRun.lean: what the copy engines do with the commands in their FIFOs, multicast, completion, and quiescing
(R156-R185, R383). A step of a command performs some of its elements; how many before another agent moves is free
(notes/assumptions/3.md). A command that cannot go on now comes again as CHANNEL_RESUME. -/

namespace Sys2Proof.Machine

/-! ### Layout records (R163-R166) -/

def lyNdim (w : Nat) : Nat := bits w 59 57
def lyKind (w : Nat) : Nat := bits w 61 60
def lyFmt (w : Nat) : Nat := bits w 69 64
def lyPgfmt (w : Nat) : Bool := bitAt w 70
def lyRing (w : Nat) : Nat := bits w 75 72
def lyBie (w : Nat) : Bool := bitAt w 87
def lyBid (w : Nat) : Nat := bits w 86 84
def lyBim (w : Nat) : Nat := bits w 83 80
def lyDeckle (w : Nat) : Nat := bits w 751 688
def lyExt (w i : Nat) : Nat := bits w (128 + 112 * i + 31) (128 + 112 * i)
def lyStride (w i : Nat) : Int := signed 40 (bits w (128 + 112 * i + 71) (128 + 112 * i + 32))
def lyWin (w i : Nat) : Nat := bits w (128 + 112 * i + 87) (128 + 112 * i + 72)
def lyOrg (w i : Nat) : Int := signed 24 (bits w (128 + 112 * i + 111) (128 + 112 * i + 88))
def lyWins (w : Nat) : List Nat := (List.range (lyNdim w)).map (lyWin w)
def product (l : List Nat) : Nat := l.foldl (fun a b => a * b) 1
def lyReserved (w : Nat) : Bool := bits w 63 62 != 0 || bits w 71 71 != 0 || bits w 79 76 != 0 || bits w 127 88 != 0 || bits w 767 752 != 0

/-- Bytes of a format code; 0 is raw bytes (R163, R219). -/
def fmtBytes (code : Nat) : Option Nat := if code = 0 then some 1 else (elFmt code).map ElFmt.bytes
def lyWidth (w : Nat) : Nat := (fmtBytes (lyFmt w)).getD 1

/-- Window coordinates of a linear index, and back (R165). -/
def coords : List Nat → Nat → List Nat
  | [], _ => []
  | n :: ns, e => e % n :: coords ns (e / n)

def linearOf : List Nat → List Nat → Nat
  | n :: ns, c :: cs => c + n * linearOf ns cs
  | _, _ => 0

/-- The first two coordinates exchanged (R169). -/
def swap01 : List Nat → List Nat
  | a :: b :: r => b :: a :: r
  | l => l

/-- Tensor coordinates (R165); a GATHER replaces one origin (R172). -/
def tensor (w : Nat) (org : Option (Nat × Nat)) (cs : List Nat) : List Int :=
  cs.zipIdx.map (fun e => (match org with
    | some (d, x) => if e.2 = d then (x : Int) else lyOrg w e.2
    | none => lyOrg w e.2) + (e.1 : Int))

def inEdge (w : Nat) (ts : List Int) : Bool := ts.zipIdx.all (fun e => decide (0 ≤ e.1) && decide (e.1 < (lyExt w e.2 : Int)))

/-- The address of an element, interleaved where it lies in a window (R165, R166). -/
def elemVa (w width : Nat) (ts : List Int) : Nat :=
  let sum := ts.zipIdx.foldl (fun a e => a + e.1 * lyStride w e.2) (0 : Int)
  let va := (((bits w 56 0 : Nat) : Int) + (width : Int) * sum).emod (2 ^ 64 : Nat) |>.toNat
  if lyBie w && isWindow va then va ^^^ (((ts.getD (lyBid w) 0).toNat &&& lyBim w) * 64) else va

/-- Tensor coordinates of the position in the edge of lowest linear index, if any. -/
def firstInEdge (w : Nat) : Option (List Int) :=
  let cs := (List.range (lyNdim w)).map (fun i => (-(lyOrg w i)).toNat)
  let ts := tensor w none cs
  if inEdge w ts && (cs.zip (lyWins w)).all (fun e => decide (e.1 < e.2)) then some ts else none

/-- The address that decides about interleave and channel, for elements of a width. -/
def firstVa (w width : Nat) : Option Nat := (firstInEdge w).map (elemVa w width)

/-- Which of the two windows of R19 an address lies in: true for the all-cluster one; none outside both, and for a hole of theirs. -/
def windowIdOf (va : Nat) : Option Bool :=
  if isWindow va && (windowOf 0 va).isSome then some (decide (0x1ff000000000000 ≤ va)) else none

/-- Another cluster that a destination record lies in (R174). -/
def otherCluster (w cl : Nat) : Option Nat :=
  if lyKind w = 1 then none
  else match firstVa w (lyWidth w) with
    | none => none
    | some va =>
      if windowIdOf va = some true then ((windowOf cl va).map (fun p => p.1)).filter (fun c => c != cl) else none

/-- A malformed record (R164, R220, R360). -/
def lyMalformed (s : State) (w cl ctx : Nat) (dest : Bool) : Bool :=
  let n := lyNdim w
  n == 0 || decide (5 < n) || (List.range n).any (fun i => lyExt w i == 0 || lyWin w i == 0) || decide (2 ≤ lyKind w) ||
    (lyKind w == 1 && !dest) || (lyPgfmt w && lyFmt w != 0) || (lyPgfmt w && dest) || (lyBie w && decide (n ≤ lyBid w)) ||
    (fmtBytes (lyFmt w)).isNone || (lyKind w == 1 && (ringAt s cl ctx (lyRing w)).isNone)

/-- Interleave misplaced (R166). -/
def lyMisplaced (w width : Nat) : Bool :=
  lyBie w && (lyKind w == 1 || (match firstVa w width with | some va => (windowIdOf va).isNone | none => false))

/-! ### Checks at the start (R184) -/

def cwSeq (w : Nat) : Bool := bitAt w 241
def cwSer (w : Nat) : Bool := bitAt w 240
def cwSrec (w : Nat) : Nat := bits w 239 233
def cwDrec (w : Nat) : Nat := bits w 232 226
def cwChan (w : Nat) : Nat := bits w 225 223
def cwTrn (w : Nat) : Bool := bitAt w 222
def cwNres (w : Nat) : Nat := bits w 221 220
def cwStampVa (w : Nat) : Nat := bits w 191 128
def cwAux (w : Nat) : Nat := bits w 63 0

/-- The channel of a command, for a destination in another cluster's scratchpad (R174). -/
def channelOf (c : Command) : Option Nat :=
  match c.dst with
  | some d => if (otherCluster d.word c.cl).isSome then some (cwChan c.word) else none
  | none => none

/-- A non-zero unused or reserved field of a command word (R161, R162). -/
def cmdReserved (c : Command) : Bool :=
  let w := c.word
  let chan := cwChan w != 0
  let trn := cwTrn w
  let nres := cwNres w != 0
  let aux := cwAux w != 0
  bits w 219 192 != 0 || (!cwSeq w && (cwStampVa w != 0 || bits w 127 64 != 0)) ||
    (match cwOp w with
      | 1 => nres || aux || (chan && (channelOf c).isNone)
      | 2 => nres || trn || (chan && (channelOf c).isNone)
      | 3 => cwSrec w != 0 || trn || nres || aux || (chan && (channelOf c).isNone)
      | 4 => cwSrec w != 0 || cwDrec w != 0 || chan || trn
      | 5 => cwDrec w != 0 || chan || trn || nres || bits w 63 32 != 0
      | _ => cwSrec w != 0 || cwDrec w != 0 || chan || trn || nres || aux)

/-- The records of a command, with their side. -/
def cmdRecords (c : Command) : List (Bool × LayoutCopy) :=
  (match c.src with | some l => [(false, l)] | none => []) ++ (match c.dst with | some l => [(true, l)] | none => [])

/-- Shapes that do not agree (R167, R169, R172). -/
def shapeBad (op : Nat) (trn : Bool) (src dst : Nat) : Bool :=
  if lyNdim src ≠ lyNdim dst then true
  else if op = 2 then
    let d := lyNdim src - 1
    lyWin src d != 1 || (lyWins src).take d != (lyWins dst).take d
  else if trn then lyNdim src < 2 || swap01 (lyWins src) != lyWins dst
  else lyWins src != lyWins dst

def ringSizeBad (w : Nat) : Bool := lyKind w == 1 && product (lyWins w) * lyWidth w != 4096

/-- The element width of a side of a command: a source that takes its format from the page has its destination's (R167). -/
def sideWidth (c : Command) (dest : Bool) (l : LayoutCopy) : Nat :=
  if !dest && lyPgfmt l.word then (match c.dst with | some d => lyWidth d.word | none => 1) else lyWidth l.word

/-- The first of the checks 0x01 to 0x08 of R184 that fails: subcause, side, record index. Where no record is in use yet the report names the
source side, with index 0 or SREC (notes/assumptions/70.md). -/
def startCheck (s : State) (c : Command) : Option (Nat × Bool × Nat) :=
  let rs := cmdRecords c
  let first (bad : Bool × LayoutCopy → Bool) (sub : Nat) : Option (Nat × Bool × Nat) := (rs.find? bad).map (fun r => (sub, r.1, r.2.idx))
  let op := cwOp c.word
  let both : Option (Nat × Nat) := match c.src, c.dst with | some a, some b => some (a.word, b.word) | _, _ => none
  if c.ovld then none
  else if op = 0 ∨ 6 < op then some (1, false, 0)
  else if cmdReserved c then some (2, false, cwSrec c.word)
  else (first (fun r => lyReserved r.2.word) 2).or <|
    (first (fun r => r.2.ctx != some c.ctx) 3).or <|
    (first (fun r => lyMalformed s r.2.word c.cl c.ctx r.1) 4).or <|
    (match both with
      | some (a, b) =>
        if shapeBad op (cwTrn c.word) a b then some (5, false, cwSrec c.word)
        else if !lyPgfmt a ∧ lyFmt a ≠ lyFmt b then some (6, false, cwSrec c.word) else none
      | none => none).or <|
    (first (fun r => r.1 && ringSizeBad r.2.word) 7).or (first (fun r => lyMisplaced r.2.word (sideWidth c r.1 r.2)) 8)

/-! ### Accesses of an engine (R159) -/

/-- Why an engine's element is not performed now. -/
inductive EStop where
  /-- it waits: a context or granule that must come back, a line whose home holds requests, a route -/
  | hold
  /-- a channel write refused by the target's router (R175) -/
  | refused
  /-- a read held at the router of another cluster, whose context is switched out (R176) -/
  | source
  /-- a poisoned line (R70) -/
  | poison
  /-- the refresh window of a weight-store bank (R75) -/
  | window
  /-- a device to which no route is live (R458) -/
  | route (dev : Nat)
  /-- an engine fault: subcause, underlying subcause, side -/
  | fault (sub usub : Nat) (dest : Bool)
  deriving DecidableEq, Repr

abbrev E := EStateM EStop State

/-- The context under which a command translates (R159). -/
def whoCmd (c : Command) : Who := { by_ := some c.core, cl := c.cl, part := c.part, ctx := c.ctx, root := c.root, user := c.user, vf := c.vf }
def whoSub (e : Sub) : Who := { by_ := some e.core, cl := e.cl, part := e.part, ctx := e.ctx, root := e.root, user := e.user, vf := e.vf }

/-- A translation of an engine; a write to another cluster whose context is switched out is refused (R80, R175). -/
def engXlate (w : Who) (va : Nat) (kind : AccKind) (dest : Bool) : E Xl := do
  let s ← get
  match xlateAs s w va true kind with
  | (.ok x, s') =>
    set s'
    pure x
  | (.error (.fault sub _ _), s') =>
    set s'
    throw (.fault 0x0e sub dest)
  | (.error (.hold (.context _ _)), s') =>
    set s'
    let other := match windowOf w.cl va with | some (c, _) => c != w.cl | none => false
    throw (if other then (if dest then .refused else .source) else .hold)
  | (.error (.hold h), s') =>
    set (askGranule s' h)
    throw .hold

/-- A line transfer of the engine finds an entry (R67, R158). -/
def engEntry (w : Who) : E Unit := do
  let s ← get
  if entryFree s w.cl (4096 + w.cl) then pure () else throw .hold

/-- An access of an engine to another device: it finds an entry, and a live route (R458), and that device performs it (R455). It counts as a
remote load or store of the pusher's function (R424, R450). -/
def engRemote (w : Who) (pa : Nat) (dest : Bool) (n : Nat) : E Unit := do
  engEntry w
  let s ← get
  if !routeLive s w.part (paDev pa) then throw (.route (paDev pa))
  else if Config.remoteGrants pa (pdJob s w.part) then
    let s1 := ctlCount (countWho s w (if dest then 0x21 else 0x20) 1) (vfAddr w.vf (if dest then 0x118 else 0x110)) 1
    set (fabricCount s1 w.part w.vf (if dest then 0 else n) (if dest then n else 0))
  else throw (.fault 0x0e 0x07 dest)

/-- A line of this device that the engine can transfer now: it finds an entry, its line a place in its slice (R64), and no refresh window of
its bank is open (R75). -/
def engLine (w : Who) (line : Nat) : E Unit := do
  engEntry w
  let s ← get
  if !sliceRoom s line then
    set (makeRoom s line)
    throw .hold
  else if windowWaits s line then throw .window
  else pure ()

/-- The line of an engine's access takes the context's tag (R64, R65); an access of class U counts for the pusher's function (R424). -/
def engTouch (w : Who) (cls : MemClass) (line : Nat) : E Unit := modify (fun s =>
  retag (if cls = .U then countWho s w (if Assoc.get s.coh.tags line = some w.ctx then 0x10 else 0x11) 1 else s) line w.ctx)

/-- A poisoned line rolls its partition back (R70, R71). -/
def engPoison (w : Who) (line : Nat) : E Unit := do
  let s ← get
  if s.mem.poisoned.contains line then
    set (post s (.rollback w.part [] []))
    throw .poison
  else pure ()

/-- A read that its home cannot answer at once is sent to it (R85, R86). -/
def askFetch (s : State) (cl line : Nat) : State :=
  if readAsked s (engineClock cl) line .G then s else post s (.readMiss (engineClock cl) line .G (incOf s cl))

/-- The home of a line answers the engine's read now: it has been reserved for it, or no other agent need answer (R85, R86, R159). -/
def engTurn (w : Who) (line : Nat) : E Unit := do
  let s ← get
  if reservedFor s line (Held.isFetch (engineClock w.cl)) || (!lineBusy s line && (dirOf s line).st != .O) then pure ()
  else
    set (askFetch s w.cl line)
    throw .hold

/-- Bytes within one line read at their home or bank (R65, R75, R159): a line in state O through its owner, as a G-class read. -/
def engReadAt (w : Who) (x : Xl) (n : Nat) : E (List Byte) := do
  let s ← get
  let line := lineOf x.pa
  match x.tgt with
  | .control => throw (.fault 0x0e 0x07 false)
  | .win cl =>
    if cl = w.cl then pure () else engEntry w
    engPoison w line
  | .mem cls =>
    if !isLocal s x.pa then engRemote w x.pa false n
    else
      engPoison w line
      engLine w line
      engTurn w line
      engTouch w cls line
  modify (fun s => bumpClock s (engineClock w.cl) (stampOf s line))
  let s ← get
  set (endReserved s line (Held.isFetch (engineClock w.cl)))
  pure (cellsRead s.mem.cells x.pa n)

/-- Bytes of an engine sent to another device (R104, R120): they leave the partition, so they wait for the log (R439), behind what was sent
there before. -/
def engPost (s : State) (w : Who) (x : Xl) (data : List Byte) : State :=
  let r := skipBytes w.part x.pa (data.map some) s.rep.skips
  let s1 : State := { s with rep := { s.rep with skips := r.2 } }
  if r.1.all Option.isNone then s1
  else postOut s1
    { part := w.part, upTo := logPos s w.part, lnum := 0, index := 0, va := x.va, uid := 0, dev := paDev x.pa, pa := x.pa, data := r.1,
      core := 4096 + w.cl, lc := clockOf s (engineClock w.cl), inc := incOf s w.cl, back := false, pc := 0, desc := 1 }

/-- Bytes within one line written at their home or bank (R73, R115): where the home must first be answered the write is sent to it, and the
command completes once it has been performed (R181). DT is set when the write is performed (R37). -/
def engWriteAt (w : Who) (x : Xl) (data : List Byte) : E Unit := do
  let s ← get
  let line := lineOf x.pa
  let clock := engineClock w.cl
  let stamp (s : State) : Nat := max (stampOf s line) (clockOf s clock) + 1
  match x.tgt with
  | .control => throw (.fault 0x0e 0x07 true)
  | .win cl =>
    if cl = w.cl then pure () else engEntry w
    modify (fun s => bumpClock (writeBank s x.pa (data.map some) (stamp s)) clock (stamp s))
  | .mem cls =>
    if !isLocal s x.pa then
      engRemote w x.pa true data.length
      modify (fun s => engPost (dueDt s clock line x.leafPa) w x data)
    else if cls = .W ∧ pdState s w.part ≠ 2 then throw (.fault 0x0f 0 true)
    else
      engLine w line
      engTouch w cls line
      if cls = .W then modify (fun s => setEntryBit (bumpClock (homeStore s x.pa (data.map some) (stamp s)) clock (stamp s)) x.leafPa 6)
      else modify (fun s => homeWriteOrPost (dueDt s clock line x.leafPa) x.pa (data.map some) clock)

/-- Bytes read from an address on, one by one where they pass a line. -/
def engBytes (w : Who) (kind : AccKind) : Nat → Nat → E (List Byte)
  | 0, _ => pure []
  | n + 1, va => do
    let x ← engXlate w (va % 2 ^ 64) kind false
    let b ← engReadAt w x 1
    let r ← engBytes w kind n (va + 1)
    pure (b ++ r)

/-- `n` bytes read: with the translation of the first. -/
def engRead (w : Who) (kind : AccKind) (va n : Nat) : E (List Byte × Xl) := do
  let x ← engXlate w va kind false
  if va % 64 + n ≤ 64 then
    let b ← engReadAt w x n
    pure (b, x)
  else
    let b ← engBytes w kind n va
    pure (b, x)

/-- Every byte of a write translated before any is performed. -/
def engXlates (w : Who) (va : Nat) : List Byte → E (List (Xl × Byte))
  | [] => pure []
  | b :: bs => do
    let x ← engXlate w (va % 2 ^ 64) .write true
    let r ← engXlates w (va + 1) bs
    pure ((x, b) :: r)

def engWriteAll (w : Who) : List (Xl × Byte) → E Unit
  | [] => pure ()
  | (x, b) :: r => do
    engWriteAt w x [b]
    engWriteAll w r

/-- Bytes written. -/
def engWrite (w : Who) (va : Nat) (data : List Byte) : E Unit := do
  if va % 64 + data.length ≤ 64 then
    let x ← engXlate w va .write true
    engWriteAt w x data
  else
    let xs ← engXlates w va data
    engWriteAll w xs

/-! ### Elements -/

/-- The scale of an element where its page has a scale frame (R34, R171). -/
def scaleOf (w : Who) (x : Xl) : E (Option (Nat × Nat × Nat)) := do
  match x.tgt with
  | .mem _ =>
    if peBgeo x.leaf = 0 then pure none
    else
      let pa := scalePa x ((fmtBytes (peFmt x.leaf)).getD 1)
      let b ← engReadAt w { x with pa := pa } 1
      pure (some (pa, if peBgeo x.leaf = 1 then 16 else 32, leNat b))
  | _ => pure none

/-- The format of the page that a translation reached, 0 outside memory. -/
def pageFmt (x : Xl) : Nat := match x.tgt with | .mem _ => peFmt x.leaf | _ => 0

/-- A later element of an interleaved record lies outside the window of the first (R166): the subcause of R19 or R20. -/
def windowLeft (s : State) (w : Who) (ly width va : Nat) : Option Nat :=
  if !lyBie ly then none
  else match firstVa ly width with
    | none => none
    | some f =>
      if windowIdOf va = windowIdOf f then none
      else match xlateWindow s w va with
        | .error (.fault sub _ _) => some sub
        | _ => some 0x02

/-- The format of every page that an element touches is the command's (R167). -/
def pagesAgree (w : Who) (ly fmt va width : Nat) (x : Xl) : E Bool := do
  if !lyPgfmt ly then pure true
  else if va % 4096 + width ≤ 4096 then pure (pageFmt x == fmt)
  else
    let y ← engXlate w ((va + width - 1) % 2 ^ 64) .read false
    pure (pageFmt x == fmt && pageFmt y == fmt)

/-- A source element (R165, R167): DECKLE beyond the edge. -/
def srcElem (w : Who) (ly fmt : Nat) (org : Option (Nat × Nat)) (scaled : Bool) (cs : List Nat) : E SrcElem := do
  let width := (fmtBytes fmt).getD 1
  let ts := tensor ly org cs
  if !inEdge ly ts then pure { val := lyDeckle ly % 2 ^ (8 * width), scale := none }
  else
    let va := elemVa ly width ts
    let s ← get
    match windowLeft s w ly width va with
    | some sub => throw (.fault 0x0e sub false)
    | none =>
      let r ← engRead w .read va width
      let same ← pagesAgree w ly fmt va width r.2
      if !same then throw (.fault 0x06 0 false)
      else
        let sc ← (if scaled && decide (width ≤ 2) then scaleOf w r.2 else pure none)
        pure { val := leNat r.1, scale := sc }

/-- An element written at its position of a memory destination, if that is in the edge; bytes moved. -/
def writeMem (w : Who) (ly : Nat) (cs : List Nat) (v : Nat) : E Nat := do
  let width := lyWidth ly
  let ts := tensor ly none cs
  if !inEdge ly ts then pure 0
  else
    let va := elemVa ly width ts
    let s ← get
    match windowLeft s w ly width va with
    | some sub => throw (.fault 0x0e sub true)
    | none =>
      engWrite w va (leBytes width v)
      pure width

/-- Elements of a sidecar byte (R171). -/
def sideGroup (width : Nat) : Nat := 4096 / (128 * width)

/-- The sidecar byte of a group, or the subcause (R171). A group that mixes elements of pages with a scale frame and of pages without one takes
the scale of those that have one: the spec gives no value for it (DESIGN CHOICE, notes/assumptions/85.md). -/
def sideByte (width : Nat) (es : List SrcElem) : Except Nat Nat :=
  let sc := es.filterMap (fun e => e.scale)
  if 2 < width then .ok 127
  else match sc with
    | [] => .ok 127
    | (pa, _, b) :: _ =>
      if sc.any (fun x => decide (x.2.1 < sideGroup width)) then .error 0x0c
      else if sc.any (fun x => x.1 != pa) then .error 0x0b
      else .ok b

/-- Bytes of a context's scratchpad written within a line. -/
def writeScratch (w : Who) (off : Nat) (data : List Byte) : E Unit := do
  let s ← get
  match scratchAt s w.cl w.ctx off with
  | .ok p => engWriteAt w { va := 0, pa := localPa s p, tgt := .win w.cl, leafPa := 0, leaf := 0, base := 0, lg := 12 } data
  | .error (.hold h) =>
    set (askGranule s h)
    throw .hold
  | .error (.fault sub _ _) => throw (.fault 0x0e sub true)

/-- The elements of a group written one after another from an offset. -/
def writeElems (w : Who) (width : Nat) : Nat → List SrcElem → E Unit
  | _, [] => pure ()
  | off, e :: es => do
    writeScratch w off (leBytes width e.val)
    writeElems w width (off + width) es

/-- A group of a ring entry written with its sidecar byte (R170, R171). -/
def writeGroup (w : Who) (r : Ring) (slot width pos : Nat) (es : List SrcElem) : E Unit := do
  match sideByte width es with
  | .error sub => throw (.fault sub 0 false)
  | .ok b =>
    writeElems w width (r.tile slot + pos * width) es
    writeScratch w (r.sidecar slot + pos / sideGroup width) [BitVec.ofNat 8 b]

/-- The ring of a destination record. -/
def ringOf (s : State) (w : Who) (ly : Nat) : Option Ring := if lyKind ly = 1 then ringAt s w.cl w.ctx (lyRing ly) else none

/-! ### Units of work -/

/-- The element format of an MCAST's pages (R167, R179): that of the page at the first position in the edge, found for elements of its own
width, 0 where none fits. A translation that cannot be made now is waited for. -/
def pageFormat (w : Who) (ly : Nat) : List Nat → E Nat
  | [] => pure 0
  | width :: rest => do
    match firstVa ly width with
    | none => pageFormat w ly rest
    | some va =>
      let s ← get
      match engXlate w va .read false s with
      | .ok x s1 =>
        set s1
        if fmtBytes (pageFmt x) = some width then pure (pageFmt x) else pageFormat w ly rest
      | .error (.fault _ _ _) s1 =>
        set s1
        pageFormat w ly rest
      | .error e s1 =>
        set s1
        throw e

/-- An MCAST with the format of its source's pages, found before its first element. -/
def findFormat (c : Command) (a : LayoutCopy) : E Command := do
  if lyPgfmt a.word && c.pgfmt.isNone && (firstInEdge a.word).isSome then
    let f ← pageFormat (whoCmd c) a.word [1, 2, 4, 8]
    pure { c with pgfmt := some f }
  else pure c

/-- The element format of a command: that of its destination, else of its source (R167, R179); none for a window that touches no page. -/
def cmdFmt? (c : Command) : Option Nat :=
  match c.dst, c.src with
  | some d, _ => some (lyFmt d.word)
  | none, some a => if lyPgfmt a.word then c.pgfmt else some (lyFmt a.word)
  | none, none => some 0

def cmdFmt (c : Command) : Nat := (cmdFmt? c).getD 0

/-- Positions of a command's payload (R183). -/
def cmdTotal (c : Command) : Nat :=
  if c.ovld then bits c.word 232 226 + 1
  else match cwOp c.word, c.src, c.dst with
    | 1, some a, _ => product (lyWins a.word)
    | 5, some a, _ => product (lyWins a.word)
    | 4, _, _ => cwNres c.word + 1
    | _, _, some d => product (lyWins d.word)
    | _, _, _ => 0

/-- The index of a slab, read once (R172). -/
def gatherIndex (c : Command) (i : Nat) : E (Nat × Command) := do
  match c.slab with
  | some (j, x) =>
    if j = i then return (x, c)
  | none => pure ()
  let va := (cwAux c.word + 4 * i) % 2 ^ 64
  let r ← engRead (whoCmd c) .read va 4
  let s ← get
  -- the spec gives no result for a stream that is not aligned
  let x := if va % 4 = 0 then leNat r.1 else (freeWord s).bits 31 0
  set (tickFree s)
  pure (x, { c with slab := some (i, x) })

/-- The source element of a destination position of a GATHER (R172). -/
def gatherElem (c : Command) (src dst fmt : Nat) (pos : Nat) : E (SrcElem × Command) := do
  let d := lyNdim src - 1
  let cs := coords (lyWins dst) pos
  let (x, c) ← gatherIndex c (cs.getD d 0)
  if x = 0xffffffff then pure ({ val := lyDeckle src % 2 ^ (8 * lyWidth dst), scale := none }, c)
  else if lyExt src d ≤ x then throw (.fault 0x0d 0 false)
  else
    let e ← srcElem (whoCmd c) src fmt (some (d, x)) (lyKind dst == 1) (cs.take d ++ [0])
    pure (e, c)

/-- The source element of a destination position, by operation. -/
def sourceOf (c : Command) (pos : Nat) : E (SrcElem × Command) := do
  let s ← get
  let fmt := cmdFmt c
  match cwOp c.word, c.src, c.dst with
  | 1, some a, some d =>
    let cs := coords (lyWins d.word) pos
    let e ← srcElem (whoCmd c) a.word fmt none (lyKind d.word == 1) (if cwTrn c.word then swap01 cs else cs)
    pure (e, c)
  | 2, some a, some d => gatherElem c a.word d.word fmt pos
  | _, _, some d => pure ({ val := lyDeckle d.word % 2 ^ (8 * lyWidth d.word), scale := none }, c)
  | _, _, none => pure ({ val := 0, scale := none }, c)

/-- The scale of a source element where it can be read; an element that faults is reported when it is reached. -/
def srcScale (w : Who) (ly fmt : Nat) (org : Option (Nat × Nat)) (cs : List Nat) : E (Option (Nat × Nat × Nat)) := do
  let width := (fmtBytes fmt).getD 1
  let ts := tensor ly org cs
  let va := elemVa ly width ts
  let s ← get
  if 2 < width ∨ !inEdge ly ts ∨ (windowLeft s w ly width va).isSome then pure none
  else fun s => match engXlate w va .read false s with
    | .ok x s1 => scaleOf w x s1
    | .error (.fault _ _ _) s1 => .ok none s1
    | .error e s1 => .error e s1

/-- The scale of the element at an entry position of a copy to a ring. -/
def scaleAt (c : Command) (d : LayoutCopy) (pos : Nat) : E SrcElem := do
  let cs := coords (lyWins d.word) pos
  let fmt := lyFmt d.word
  let sc ← (match cwOp c.word, c.src with
    | 1, some a => srcScale (whoCmd c) a.word fmt none (if cwTrn c.word then swap01 cs else cs)
    | 2, some a =>
      let k := lyNdim a.word - 1
      fun s => match gatherIndex c (cs.getD k 0) s with
        | .ok (x, _) s1 => if lyExt a.word k ≤ x then .ok none s1 else srcScale (whoCmd c) a.word fmt (some (k, x)) (cs.take k ++ [0]) s1
        | .error (.fault _ _ _) s1 => .ok none s1
        | .error e s1 => .error e s1
    | _, _ => pure none)
  pure { val := 0, scale := sc }

def scalesFrom (c : Command) (d : LayoutCopy) : Nat → Nat → E (List SrcElem)
  | 0, _ => pure []
  | n + 1, pos => do
    let e ← scaleAt c d pos
    let es ← scalesFrom c d n (pos + 1)
    pure (e :: es)

/-- The entry position of the i-th element of a command to a ring, in the order in which it is performed (R167), and back. -/
def entryPos (c : Command) (d : LayoutCopy) (i : Nat) : Nat :=
  match cwOp c.word, c.src with
  | 1, some a => let cs := coords (lyWins a.word) i; linearOf (lyWins d.word) (if cwTrn c.word then swap01 cs else cs)
  | _, _ => i

def entryIndex (c : Command) (d : LayoutCopy) (pos : Nat) : Nat :=
  match cwOp c.word, c.src with
  | 1, some a => let cs := coords (lyWins d.word) pos; linearOf (lyWins a.word) (if cwTrn c.word then swap01 cs else cs)
  | _, _ => pos

/-- One element of a copy to memory, in order of the source window (R167); of a GATHER or FILL in order of the destination's. -/
def memUnit (c : Command) (d : LayoutCopy) : E Command := do
  match cwOp c.word, c.src with
  | 1, some a =>
    let s ← get
    let cs := coords (lyWins a.word) c.pos
    let e ← srcElem (whoCmd c) a.word (cmdFmt c) none false cs
    let n ← writeMem (whoCmd c) d.word (if cwTrn c.word then swap01 cs else cs) e.val
    pure { c with pos := c.pos + 1, moved := c.moved + n }
  | _, _ =>
    let (e, c1) ← sourceOf c c.pos
    let n ← writeMem (whoCmd c) d.word (coords (lyWins d.word) c.pos) e.val
    pure { c1 with pos := c.pos + 1, moved := c.moved + n }

/-- One element of a ring entry, in order of the source window (R167). The first of a group of R171 to be reached settles its sidecar byte,
or meets its fault before any element of the group is written (R183). -/
def ringUnit (c : Command) (d : LayoutCopy) (r : Ring) : E Command := do
  let w := whoCmd c
  let width := lyWidth d.word
  let g := sideGroup width
  let pos := entryPos c d c.pos
  let slot := c.entry.getD 0
  let group := pos / g * g
  if (List.range g).all (fun i => decide (c.pos ≤ entryIndex c d (group + i))) then
    let es ← scalesFrom c d g group
    match sideByte width es with
    | .error sub => throw (.fault sub 0 false)
    | .ok b => writeScratch w (r.sidecar slot + pos / g) [BitVec.ofNat 8 b]
  let (e, c1) ← sourceOf c pos
  writeScratch w (r.tile slot + pos * width) (leBytes width e.val)
  pure { c1 with pos := c.pos + 1, moved := c.moved + width }

/-- One doubleword of a READQ, delivered to the core as a result element (R173). -/
def readqUnit (c : Command) : E Command := do
  let va := (cwAux c.word + 8 * c.pos) % 2 ^ 64
  let r ← engRead (whoCmd c) .read va 8
  -- the spec gives no result for an address that is not aligned
  let s ← get
  let v : Word := if va % 8 = 0 then BitVec.ofNat 64 (leNat r.1) else freeWord s
  let tag := cwTag c.word
  set (updCc (tickFree s) c.core c.ctx (fun cc => { cc with
    elems := cc.elems ++ [(tag, v)]
    tags := cc.tags.map (fun g => if g.tag = tag then { g with delivered := g.delivered + 1 } else g) }))
  pure { c with pos := c.pos + 1, moved := c.moved + 8 }

/-- Lines of an overlay frame. -/
def frameLines (w : Who) : Nat → Nat → E (List Byte)
  | 0, _ => pure []
  | n + 1, va => do
    let r ← engRead w .exec (va % 2 ^ 64) 64
    let rest ← frameLines w n (va + 64)
    pure (r.1 ++ rest)

/-- One frame of an overlay (R383). -/
def ovldUnit (c : Command) : E Command := do
  let data ← frameLines (whoCmd c) 16 (cwAux c.word + c.pos * 1024)
  modify (fun s => { s with mem := { s.mem with icells := cellsWrite s.mem.icells (frameAddr c.core (cwSrec c.word + c.pos) 0) data } })
  pure { c with pos := c.pos + 1, moved := c.moved + 1024 }

/-- One element that an MCAST reads (R179). -/
def mcastUnit (c0 : Command) (a : LayoutCopy) : E Command := do
  let c ← findFormat c0 a
  let e ← srcElem (whoCmd c) a.word (cmdFmt c) none true (coords (lyWins a.word) c.pos)
  pure { c with pos := c.pos + 1, buf := c.buf ++ [e], moved := c.moved + (fmtBytes (cmdFmt c)).getD 1 }

/-- One unit of a command. -/
def unitOf (c : Command) : E Command := do
  let s ← get
  if c.ovld then ovldUnit c
  else match cwOp c.word, c.src, c.dst with
    | 4, _, _ => readqUnit c
    | 5, some a, _ => mcastUnit c a
    | _, _, some d => match ringOf s (whoCmd c) d.word with
      | some r => ringUnit c d r
      | none => memUnit c d
    | _, _, none => pure { c with pos := cmdTotal c }

/-- Up to `n` units of a command. -/
def runUnits : Nat → Command → State → Command × State × Option EStop
  | 0, c, s => (c, s, none)
  | n + 1, c, s =>
    if cmdTotal c ≤ c.pos then (c, s, none)
    else match unitOf c s with
      | .ok c1 s1 => runUnits n c1 s1
      | .error e s1 => (c, s1, some e)

/-! ### Progress and completion (R157, R170, R174, R181, R183) -/

def setActive (s : State) (c : Command) : State :=
  { s with eng := { s.eng with active := s.eng.active.map (fun x => if x.id = c.id then c else x) } }

/-- The fault record of a command. -/
def cmdFault (c : Command) (sub usub : Nat) (dest : Bool) (idx off : Nat) : Trap × Word := faultReport sub usub c.pc c.word dest idx off

/-- A command ends (R181, R183): counters, the event of class 4, the frames of an overlay, its tag. -/
def endCommand (s : State) (c : Command) (fault : Option (Trap × Word)) : State :=
  let s0 := freeReserved { s with eng := { s.eng with active := s.eng.active.filter (fun x => x.id != c.id) } } (Held.isFetch (engineClock c.cl))
  let s1 : State := if c.ovld then { s0 with mem := { s0.mem with
      frames := (List.range c.pos).map (fun i =>
          ({ core := c.core, frame := cwSrec c.word + i, ctx := c.ctx, block := bits (cwAux c.word + i * 1024) 56 10 } : FrameTag)) ++
        s0.mem.frames.filter (fun f => !(f.core == c.core && decide (cwSrec c.word ≤ f.frame) && decide (f.frame < cwSrec c.word + c.pos))) } }
    else s0
  let s2 := perfCount s1 c.core c.ctx c.vf 0x31 c.moved
  let sub := match fault with | some f => f.1.sub | none => 0
  let s3 := silPost s2 4 c.core c.ctx c.vf (some c.lnum) c.index c.slot
    [BitVec.ofNat 64 (cwOp c.word), BitVec.ofNat 64 (cwTag c.word), BitVec.ofNat 64 c.moved, freeWord2 s2, BitVec.ofNat 64 sub]
  post (finishTag s3 c.core c.ctx (cwTag c.word) c.lnum c.index fault) (.launchCompletion c.lnum)

/-- Commands in progress that started before one. -/
def earlier (s : State) (c : Command) : List Command := (s.eng.active.takeWhile (fun x => x.id != c.id)).filter (fun x => x.cl = c.cl)

/-- The subscriptions that an MCAST serves (R179): of its MTAG and job, in place, not already being served. -/
def subsOf (s : State) (c : Command) : List Sub :=
  s.eng.subs.filter (fun e => e.mtag = bits c.word 31 0 ∧ e.joined ∧ cdJob s e.ctx = cdJob s c.ctx ∧
    s.eng.mcasts.all (fun m => m.id != e.id))

/-- The subscriptions of other devices that it serves (R179, R456); a replay partition sends nothing to them (R442). -/
def farSubsOf (s : State) (c : Command) : List FarSub :=
  if replayPart s c.part then []
  else s.eng.farSubs.filter (fun e => e.mtag = bits c.word 31 0 ∧ e.job = cdJob s c.ctx ∧
    s.eng.farMcasts.all (fun m => !(m.dev == e.dev && m.id == e.id)))

/-- The data on their way to a subscriber of another device; those that had left before a rollback do not leave again (R441). -/
def sendFar (c : Command) (s : State) (e : FarSub) : State :=
  let data := c.buf.map (fun x => x.val)
  match takeSkip s c.part (.mcast e.dev e.id data) with
  | some s1 => s1
  | none =>
    let m : FarMcast := { cl := c.cl, cmd := c.id, dev := e.dev, id := e.id, part := c.part, vf := c.vf, upTo := logPos s c.part, data := data, sent := false }
    post { s with eng := { s.eng with farMcasts := s.eng.farMcasts ++ [m] } } (.farMulticastSend e.dev e.id)

/-- Whether a multicast has a subscriber that has neither written nor faulted. -/
def mcastPending (s : State) (cl cmd : Nat) : Bool :=
  s.eng.mcasts.any (fun x => x.cl == cl && x.cmd == cmd) || s.eng.farMcasts.any (fun x => x.cl == cl && x.cmd == cmd)

/-- An MCAST has read its window: its data go to the subscribers. -/
def sendMcast (s0 : State) (c : Command) : State :=
  let s := (farSubsOf s0 c).foldl (sendFar c) s0
  match subsOf s c with
  | [] => if mcastPending s c.cl c.id then s else post s (.commandCompletion c.cl c.id)
  | es =>
    let fmt := cmdFmt? c
    let src := match c.src with | some a => a.word | none => 0
    let ms := es.map (fun e => ({ id := e.id, cl := c.cl, cmd := c.id, sub := e.cl, entry := e.entry, srcRec := src, fmt := fmt, data := c.buf,
                                   pos := 0, slot := none, fault := none } : Mcast))
    postAll { s with eng := { s.eng with mcasts := s.eng.mcasts ++ ms } }
      (es.map (fun e => Event.multicastDelivery c.cl c.id (e.cl * 32 + e.entry)))

/-- The payload of a command is performed (R170, R181): its ring entry is filled, then its completion is due. -/
def finishPayload (s : State) (c : Command) : State :=
  let s1 := setActive s { c with finished := true }
  match cwOp c.word, c.dst with
  | 5, _ => sendMcast s1 c
  | _, some d =>
    match ringOf s1 (whoCmd c) d.word, c.entry with
    | some r, some e => post (setRing s1 { r with ents := r.ents.set e .filled }) (.commandCompletion c.cl c.id)
    | _, _ => post s1 (.commandCompletion c.cl c.id)
  | _, none => post s1 (.commandCompletion c.cl c.id)

/-- A ring entry for a copy to a ring, in the order of starts (R170); none while it must wait. -/
def needRingEntry (s : State) (c : Command) : Option (State × Command) :=
  match c.dst with
  | none => some (s, c)
  | some d =>
    match ringOf s (whoCmd c) d.word, c.entry with
    | some r, none =>
      let waits (x : Command) : Bool := x.ctx == c.ctx && x.entry.isNone && !x.finished &&
        (match x.dst with | some y => lyKind y.word == 1 && lyRing y.word == lyRing d.word | none => false)
      if (earlier s c).any waits || !r.room then none
      else
        let c1 := { c with entry := some r.next }
        some (setActive (setRing s r.reserve) c1, c1)
    | _, _ => some (s, c)

/-- Whether a command in progress holds the channel that a command needs (R174, R175). One that waits for a held source does not (R176). -/
def channelBusy (s : State) (c : Command) : Bool :=
  match channelOf c with
  | none => false
  | some ch => s.eng.active.any (fun x => x.id != c.id && x.core == c.core && channelOf x == some ch && !x.aside)

/-- An engine that does nothing now: its cluster is halted (R419), or its port closed (R96). -/
def engStopped (s : State) (cl : Nat) : Bool := clusterHalted s cl || s.coh.fencedCl.contains cl

/-- Writes of a cluster's engine that are still to be performed, here or on another device (R131, R181). -/
def engWrites (s : State) (cl : Nat) : Bool := pendingWrites s (engineClock cl) || s.coh.posted.any (fun p => p.core == 4096 + cl)

/-- A command that a fault has stopped ends once the elements before it have been performed (R183). -/
def stopFaulted (s : State) (c : Command) (f : Trap × Word) : State :=
  if engWrites s c.cl then post (setActive s { c with finished := true, fault := some f }) (.commandCompletion c.cl c.id) else endCommand s c (some f)

/-- A command in progress goes on, or waits and comes again. -/
def runCommand (s : State) (c : Command) : State :=
  let again (s : State) : State := post s (.channelResume c.cl c.id)
  if engStopped s c.cl || (c.aside && channelBusy s c) then again s
  else match needRingEntry s c with
    | none => again s
    | some (s1, c1) =>
      let r := runUnits ((freeWord s1).toNat + 1) { c1 with pending := false, aside := false, route := none } (tickFree s1)
      let c2 : Command := { r.1 with windowed := r.2.2 == some .window }
      let s2 := setActive r.2.1 c2
      match r.2.2 with
      | none => if cmdTotal c2 ≤ c2.pos then finishPayload s2 c2 else again s2
      | some .refused => again (setActive s2 { c2 with pending := true })
      | some .source => again (setActive s2 { c2 with aside := true })
      | some .hold => again s2
      | some .poison => again s2
      | some .window => again (if c1.windowed then s2 else countWho s2 (whoCmd c) 0x19 1)
      | some (.route dev) => again (setActive s2 { c2 with route := some dev })
      | some (.fault sub usub dest) =>
        stopFaulted s2 c2 (cmdFault c2 sub usub dest (if dest then cwDrec c.word else cwSrec c.word) c2.pos)

/-! ### Starting (R157) -/

/-- A command that waits for its channel (R174). -/
def channelWaits (s : State) (c : Command) : Bool :=
  match channelOf c with
  | none => false
  | some ch => channelBusy s c || (s.eng.fifo.takeWhile (fun x => x.id != c.id)).any (fun x => x.core == c.core && channelOf x == some ch)

/-- The command of a core's FIFO that may start next: commands that wait for their channel let others pass (R157, R174; notes/assumptions/71.md). -/
def fifoHead (s : State) (core : Nat) : Option Command := s.eng.fifo.find? (fun c => c.core = core ∧ !channelWaits s c)

/-- Result elements that a core holds or has reserved (R173). -/
def elemsHeld (s : State) (core ctx : Nat) : Nat :=
  (ccOf s core ctx).elems.length +
    (s.eng.active.filter (fun c => c.core = core ∧ c.ctx = ctx ∧ cwOp c.word = 4 ∧ !c.ovld)).foldl (fun n c => n + (cmdTotal c - c.pos)) 0

/-- Whether every earlier command of a command's FIFO has completed (R157, R181). -/
def fifoClear (s : State) (c : Command) : Bool :=
  s.eng.active.all (fun x => x.core != c.core) && ((s.eng.fifo.find? (fun x => x.core = c.core)).map (fun x => x.id)) == some c.id

/-- Whether a head may start (R157, R173). -/
def mayStart (s : State) (c : Command) : Bool :=
  !engStopped s c.cl && decide ((s.eng.active.filter (fun x => x.cl = c.cl)).length < 8) &&
    (!(cwSer c.word || (cwOp c.word == 6 && !c.ovld)) || fifoClear s c) &&
    (c.ovld || cwOp c.word != 4 || decide (elemsHeld s c.core c.ctx + cmdTotal c ≤ 64))

/-- The core whose command the engine starts next, in round-robin order; core 0 of the cluster comes first of all
(notes/assumptions/72.md). -/
def nextCore (s : State) (cl : Nat) : Option Nat :=
  let last := Assoc.getD s.eng.last cl (4 * cl + 3)
  ((List.range 4).map (fun i => 4 * cl + (last % 4 + 1 + i) % 4)).find? (fun core =>
    match fifoHead s core with | some c => mayStart s c | none => false)

/-- The check of the stamp's place (R182): the underlying subcause where it is misplaced; no answer while its context is switched out. -/
def stampCheck (s : State) (c : Command) : Option (Option Nat) × State :=
  if !cwSeq c.word then (some none, s)
  else if cwStampVa c.word % 8 ≠ 0 then (some (some 0), s)
  else match xlateAs s (whoCmd c) (cwStampVa c.word) true .write with
    | (.ok x, s') => (some (if x.tgt = .control ∨ x.tgt = .mem .W then some 0 else none), s')
    | (.error (.fault sub _ _), s') => (some (some sub), s')
    | (.error (.hold _), s') => (none, s')

/-- An MTAG that does not name the issuing cluster (R177). -/
def rootBad (s : State) (c : Command) : Bool :=
  cwOp c.word == 5 && !c.ovld && (bits c.word 31 22 != ownDev s || bits c.word 21 13 != c.cl)

/-- The head of a core's FIFO started: its checks in the order of R184, then its first elements. -/
def startCommand (s : State) (c : Command) : State :=
  let s1 : State := { s with eng := { s.eng with
    fifo := s.eng.fifo.filter (fun x => x.id != c.id), last := Assoc.set s.eng.last c.cl c.core } }
  match startCheck s1 c with
  | some (sub, dest, idx) => endCommand s1 c (some (cmdFault c sub 0 dest idx 0))
  | none =>
    match stampCheck s1 c with
    | (none, s2) => post { s2 with eng := s.eng } (startEvent c.cl c.core c.word c.ovld)
    | (some (some usub), s2) => endCommand s2 c (some (cmdFault c 0x09 usub false 0 0))
    | (some none, s2) =>
      if rootBad s2 c then endCommand s2 c (some (cmdFault c 0x0a 0 false (cwSrec c.word) 0))
      else
        let s3 : State := { s2 with eng := { s2.eng with active := s2.eng.active ++ [c] } }
        if cmdTotal c = 0 then finishPayload s3 c else runCommand s3 c

/-- The step that starts a command of a kind on a core: it comes again while that command cannot start. -/
def startAt (s : State) (ev : Event) (cl core : Nat) : State :=
  let kind (c : Command) : Bool := c.core == core && startEvent c.cl c.core c.word c.ovld == ev
  match fifoHead s core with
  | none => s
  | some c =>
    if kind c ∧ nextCore s cl = some core then startCommand s c
    else if s.eng.fifo.any kind then post s ev
    else s

/-- COPY (R167). -/
def execCopy (s : State) : Out :=
  match s.now with
  | some (.copy cl core) => .next (startAt { s with now := none } (.copy cl core) cl core)
  | _ => .next s

/-- GATHER (R172). -/
def execGather (s : State) : Out :=
  match s.now with
  | some (.gather cl core) => .next (startAt { s with now := none } (.gather cl core) cl core)
  | _ => .next s

/-- FILL (R168). -/
def execFill (s : State) : Out :=
  match s.now with
  | some (.fill cl core) => .next (startAt { s with now := none } (.fill cl core) cl core)
  | _ => .next s

/-- READQ (R173). -/
def execReadq (s : State) : Out :=
  match s.now with
  | some (.readq cl core) => .next (startAt { s with now := none } (.readq cl core) cl core)
  | _ => .next s

/-- MCAST (R179). -/
def execMcast (s : State) : Out :=
  match s.now with
  | some (.mcast cl core) => .next (startAt { s with now := none } (.mcast cl core) cl core)
  | _ => .next s

/-- MARK (R181). -/
def execMark (s : State) : Out :=
  match s.now with
  | some (.mark cl core) => .next (startAt { s with now := none } (.mark cl core) cl core)
  | _ => .next s

/-- OVLD_COMMAND (R383). -/
def execOvldCommand (s : State) : Out :=
  match s.now with
  | some (.ovldCommand cl core) => .next (startAt { s with now := none } (.ovldCommand cl core) cl core)
  | _ => .next s

/-- A command in progress on a cluster. -/
def activeOf (s : State) (cl id : Nat) : Option Command := s.eng.active.find? (fun c => c.cl = cl ∧ c.id = id)

/-- A command whose payload is performed (R181, R182): once its writes are acknowledged, its stamp; once that is, its tag. A stamp that faults
now ends the command with that fault (notes/assumptions/73.md). -/
def commandCompletionAt (s : State) (cl id : Nat) : State :=
  match activeOf s cl id with
  | none => s
  | some c =>
    let again (s : State) : State := post s (.commandCompletion cl id)
    if !c.finished then s
    else if engStopped s cl || engWrites s cl then again s
    else if c.fault.isSome || !cwSeq c.word || c.stamped then endCommand s c c.fault
    else match engWrite (whoCmd c) (cwStampVa c.word) (leBytes 8 (bits c.word 127 64)) s with
      | .ok _ s1 => if engWrites s1 cl then again (setActive s1 { c with stamped := true }) else endCommand s1 c none
      | .error (.fault sub usub _) s1 => endCommand s1 c (some (cmdFault c sub usub true 0 (cmdTotal c)))
      | .error _ s1 => again s1

/-- COMMAND_COMPLETION (R181). -/
def execCommandCompletion (s : State) : Out :=
  match s.now with
  | some (.commandCompletion cl id) => .next (commandCompletionAt { s with now := none } cl id)
  | _ => .next s

/-- A command that waited goes on from the index it reached (R175). -/
def channelResumeAt (s : State) (cl id : Nat) : State :=
  match activeOf s cl id with
  | none => s
  | some c => if c.finished then s else runCommand s c

/-- CHANNEL_RESUME (R175). -/
def execChannelResume (s : State) : Out :=
  match s.now with
  | some (.channelResume cl id) => .next (channelResumeAt { s with now := none } cl id)
  | _ => .next s

/-! ### Multicast (R178, R179) -/

/-- The root has acknowledged a join (R178). -/
def multicastJoinAt (s : State) (cl entry : Nat) : State :=
  match subAt s cl entry with
  | some e => setSub s { e with joined := true }
  | none => s

/-- A subscription of another device at the root (R178, R456). -/
def farJoinAt (s : State) (e : FarSub) : State :=
  { s with eng := { s.eng with farSubs := s.eng.farSubs.filter (fun x => !(x.dev == e.dev && x.id == e.id)) ++ [e] } }

/-- One that is no longer there: it has left, or a multicast has consumed it. -/
def dropFarSub (s : State) (dev id : Nat) : State :=
  { s with eng := { s.eng with farSubs := s.eng.farSubs.filter (fun x => !(x.dev == dev && x.id == id)) } }

/-- MULTICAST_JOIN (R178): of a subscription of this package, or of another device. -/
def execMulticastJoin (s : State) : Out :=
  match s.now with
  | some (.farMulticastJoin dev id mtag job) => .next (farJoinAt { s with now := none } { dev := dev, id := id, mtag := mtag, job := job })
  | some (.multicastJoin cl entry) => .next (multicastJoinAt { s with now := none } cl entry)
  | _ => .next s

/-- MULTICAST_LEAVE (R178): the port bits that no remaining subscriber needs are those of the match tables, which `unsub` has changed. -/
def execMulticastLeave (s : State) : Out :=
  match s.now with
  | some (.multicastLeave _ _) => .next { s with now := none }
  | some (.farMulticastLeave dev id) => .next (dropFarSub { s with now := none } dev id)
  | _ => .next s

/-- The checks of a subscriber's record against the sender's shape and format (R179, R184). -/
def deliveryCheck (s : State) (e : Sub) (m : Mcast) : Option Nat :=
  let w := e.layout.word
  if lyReserved w then some 2
  else if e.layout.ctx ≠ some e.ctx then some 3
  else if lyMalformed s w e.cl e.ctx true then some 4
  else if lyNdim w ≠ lyNdim m.srcRec ∨ lyWins w ≠ lyWins m.srcRec then some 5
  else if m.fmt.any (fun f => f != lyFmt w) then some 6
  else if ringSizeBad w then some 7
  else if lyMisplaced w (lyWidth w) then some 8
  else none

def setMcast (s : State) (m : Mcast) : State :=
  { s with eng := { s.eng with mcasts := s.eng.mcasts.map (fun x =>
      if x.cl = m.cl ∧ x.cmd = m.cmd ∧ x.sub = m.sub ∧ x.entry = m.entry then m else x) } }

/-- A delivery is over: the subscription is consumed, its tag set, and with the last one the sender's completion is due. -/
def endDelivery (s : State) (m : Mcast) (e : Option Sub) (fault : Option (Trap × Word)) : State :=
  let s1 : State := { s with eng := { s.eng with mcasts := s.eng.mcasts.filter (fun x =>
    !(x.cl == m.cl && x.cmd == m.cmd && x.sub == m.sub && x.entry == m.entry)) } }
  let s2 := match e with
    | some e => finishTag (dropSub s1 e.cl e.entry) e.core e.ctx e.tag e.lnum e.index fault
    | none => s1
  if mcastPending s2 m.cl m.cmd then s2 else post s2 (.commandCompletion m.cl m.cmd)

/-- One element or group of a delivery. -/
def deliveryUnit (e : Sub) (m : Mcast) : E Mcast := do
  let s ← get
  let w := e.layout.word
  match ringOf s (whoSub e) w with
  | some r =>
    let g := sideGroup (lyWidth w)
    writeGroup (whoSub e) r (m.slot.getD 0) (lyWidth w) m.pos ((m.data.drop m.pos).take g)
    pure { m with pos := m.pos + g }
  | none =>
    let v := (m.data[m.pos]?).map (fun x => x.val)
    let _ ← writeMem (whoSub e) w (coords (lyWins w) m.pos) (v.getD 0)
    pure { m with pos := m.pos + 1 }

def deliverUnits (e : Sub) : Nat → Mcast → State → Mcast × State × Option EStop
  | 0, m, s => (m, s, none)
  | n + 1, m, s =>
    if m.data.length ≤ m.pos then (m, s, none)
    else match deliveryUnit e m s with
      | .ok m1 s1 => deliverUnits e n m1 s1
      | .error x s1 => (m, s1, some x)

/-- A ring entry for a delivery; none while the ring is full. -/
def needSlot (s : State) (e : Sub) (m : Mcast) : Option (State × Mcast) :=
  match ringOf s (whoSub e) e.layout.word, m.slot with
  | some r, none => if r.room then some (setRing s r.reserve, { m with slot := some r.next }) else none
  | _, _ => some (s, m)

/-- A subscriber whose context is switched out, or whose cluster takes nothing now (R96, R179). -/
def subHeld (s : State) (e : Sub) : Bool := !(ccOf s e.core e.ctx).resident || engStopped s e.cl

/-- A delivery to one subscriber (R179): as a COPY through its record, over once its writes have been performed; held while its context is
switched out. A subscription that is gone
receives nothing. A fault's report holds 0 for the command word that a `sub` has not, and the destination side (notes/assumptions/70.md). -/
def multicastDeliveryAt (s : State) (cl id sub : Nat) : State :=
  match s.eng.mcasts.find? (fun m => m.cl = cl ∧ m.cmd = id ∧ m.sub * 32 + m.entry = sub) with
  | none => s
  | some m =>
    match (subAt s m.sub m.entry).filter (fun e => e.id == m.id) with
    | none => endDelivery s m none none
    | some e =>
      let again (s : State) : State := post s (.multicastDelivery cl id sub)
      if subHeld s e then again s else
      let report (sb us off : Nat) : Trap × Word := faultReport sb us e.pc 0 true e.layout.idx off
      match (if m.pos = 0 then deliveryCheck s e m else none) with
      | some sb => endDelivery s m (some e) (some (report sb 0 0))
      | none =>
        if m.fault.isSome then (if engWrites s e.cl then again s else endDelivery s m (some e) m.fault) else
        match needSlot s e m with
        | none => again s
        | some (s1, m1) =>
          let r := deliverUnits e ((freeWord s1).toNat + 1) m1 (tickFree s1)
          let s2 := setMcast r.2.1 r.1
          match r.2.2 with
          | some (.fault sb us _) =>
            if engWrites s2 e.cl then again (setMcast s2 { r.1 with fault := some (report sb us r.1.pos) })
            else endDelivery s2 r.1 (some e) (some (report sb us r.1.pos))
          | some _ => again s2
          | none =>
            if r.1.data.length ≤ r.1.pos && !engWrites s2 e.cl then
              let s3 := match ringOf s2 (whoSub e) e.layout.word, r.1.slot with
                | some x, some i => setRing s2 { x with ents := x.ents.set i .filled }
                | _, _ => s2
              endDelivery s3 r.1 (some e) none
            else again s2

/-- A copy leaves for a subscriber of another device once the log behind it is acknowledged (R439) and a route is live (R458). -/
def farSendAt (s : State) (dev id : Nat) : State :=
  match s.eng.farMcasts.find? (fun m => m.dev = dev ∧ m.id = id ∧ !m.sent) with
  | none => s
  | some m =>
    if ackedTo s m.part m.upTo && routeLive s m.part dev then
      let s1 : State := { s with eng := { s.eng with farMcasts := s.eng.farMcasts.map (fun x => if x = m then { x with sent := true } else x) } }
      noteOut (fabricCount s1 m.part m.vf 0 0) m.part (.mcast dev id m.data)
    else post s (.farMulticastSend dev id)

/-- That subscriber has written or faulted (R179): its subscription is consumed, and with the last one the sender's completion is due. -/
def farDoneAt (s : State) (dev id : Nat) : State :=
  match s.eng.farMcasts.find? (fun m => m.dev = dev ∧ m.id = id ∧ m.sent) with
  | none => s
  | some m =>
    let s1 := dropFarSub { s with eng := { s.eng with farMcasts := s.eng.farMcasts.filter (fun x => x != m) } } dev id
    if mcastPending s1 m.cl m.cmd then s1 else post s1 (.commandCompletion m.cl m.cmd)

/-- Another device's multicast at the root (R179, R456): the subscriptions of each partition are served, and its log takes the input (R438).
While one of them replays it waits; a replay partition takes it from its log alone (R442). -/
def farMulticastAt (s : State) (dev id mtag job src : Nat) (fmt : Option Nat) (data : List SrcElem) : State :=
  let ps := (List.range 20).filter (fun p => !replayPart s p && !(farServed s p mtag job).isEmpty)
  if ps.any (fun p => (replayOf s p).isSome) then post s (.farMulticast dev id mtag job src fmt data)
  else ps.foldl (fun s p => logOutside (farServe s p dev id mtag job src fmt data) p 5 0 (mcastWords dev id mtag job src fmt data)) s

/-- MULTICAST_DELIVERY (R179): to a subscriber of this package; to one of another device, and its answer; from another device. -/
def execMulticastDelivery (s : State) : Out :=
  match s.now with
  | some (.multicastDelivery cl id sub) => .next (multicastDeliveryAt { s with now := none } cl id sub)
  | some (.farMulticastSend dev id) => .next (farSendAt { s with now := none } dev id)
  | some (.farMulticastDone dev id) => .next (farDoneAt { s with now := none } dev id)
  | some (.farMulticast dev id mtag job src fmt data) => .next (farMulticastAt { s with now := none } dev id mtag job src fmt data)
  | _ => .next s

end Sys2Proof.Machine
end

