-- ==== Sys2Proof/Machine/EngineEnd.lean ====
section
/-! DEFINITION. EngineEnd.lean: the start and retirement of an `mma` and the swap of tiles as steps of the matrix unit (R369-R372, R411);
the kill of a context and the quiescing of what works for it (R185, R414, R415); completion blocks (R191, R405). -/

namespace Sys2Proof.Machine

/-! ### The matrix unit -/

/-- The fields of an `mma` in any form: rings, accumulator, formats, rounding, kept entries. -/
def mmaFields : Instr → Option (Nat × Nat × Nat × FFmt × FFmt × Rm × Bool × Bool)
  | .mma a b c f => some (a.val, b.val, c.val, f, f, .rne, false, false)
  | .mmaKeepa a b c f => some (a.val, b.val, c.val, f, f, .rne, true, false)
  | .mmaKeepb a b c f => some (a.val, b.val, c.val, f, f, .rne, false, true)
  | .mmaKeep a b c f => some (a.val, b.val, c.val, f, f, .rne, true, true)
  | .mmaLong a b c fa fb rm ka kb => some (a.val, b.val, c.val, fa, fb, rm, ka, kb)
  | _ => none

/-- The `mma` at which a thread waits, from the words latched for it. -/
def waitingMma (t : Thread) : Option (Nat × Nat × Nat × FFmt × FFmt × Rm × Bool × Bool) :=
  match t.status with
  | .waiting (.ring _) =>
    (match decodeWords (t.words % 2 ^ 32) (t.words / 2 ^ 32 % 2 ^ 32) with
      | .ok i => mmaFields i
      | .error _ => none)
  | _ => none

/-- A waiting `mma` starts once both head entries are filled and its tile is present (R369); until then the step comes again. -/
def mmaStartAt (s : State) (uid : Nat) : State :=
  match findThread s uid with
  | none => s
  | some t =>
    match waitingMma t, t.crew with
    | some (ra, rb, acc, fa, fb, rm, ka, kb), some (cl, e, _) =>
      (match ringAt s cl (ctxOf t) ra, ringAt s cl (ctxOf t) rb with
      | some a, some b =>
        if (ringReadable s a && entryPoisoned s a) || (ringReadable s b && entryPoisoned s b) then
          postOnce (post s (.mmaStart uid)) (.rollback t.part [] [])
        else if clusterHalted s cl || (mmaCanStart s a b).isSome then post (askEntry (askEntry s a) b) (.mmaStart uid)
        else onThread s uid (fun s =>
          match bringTile s cl e acc with
          | none => post s (.mmaStart uid)
          | some s1 =>
            startMma s1 { uid := uid, cl := cl, ra := ra, rb := rb, acc := acc, fa := fa, fb := fb, rm := rm, ka := ka, kb := kb,
                          dataA := [], dataB := [] } a b)
      | _, _ => s)
    | _, _ => s

/-- MMA_START (R369). -/
def execMmaStart (s : State) : Out :=
  match s.now with
  | some (.mmaStart uid) => .next (mmaStartAt { s with now := none } uid)
  | _ => .next s

/-- The retirement of a thread's started `mma` (R370); a debug halt holds it (R371). -/
def mmaRetirementAt (s : State) (uid : Nat) : State :=
  match s.eng.mma.find? (fun m => m.uid = uid) with
  | none => s
  | some m => if clusterHalted s m.cl then post s (.mmaRetirement uid) else retireMma s m

/-- MMA_RETIREMENT (R370). -/
def execMmaRetirement (s : State) : Out :=
  match s.now with
  | some (.mmaRetirement uid) => .next (mmaRetirementAt { s with now := none } uid)
  | _ => .next s

/-- A tile that a waiting issuer has named is brought in (R411); while no save block can be had the step comes again. -/
def tileSwapAt (s : State) (crew acc : Nat) : State :=
  match (threads s).find? (fun t => t.status == .waiting .saveBlock &&
      (match t.crew with | some (cl, e, _) => cl * 4 + e == crew | none => false)) with
  | none => s
  | some t => onThread s t.uid (fun s => (bringTile s (crew / 4) (crew % 4) acc).getD (post s (.tileSwap crew acc)))

/-- TILE_SWAP (R411). -/
def execTileSwap (s : State) : Out :=
  match s.now with
  | some (.tileSwap crew acc) => .next (tileSwapAt { s with now := none } crew acc)
  | _ => .next s

/-! ### Completion blocks (R191, R405) -/

/-- The fault record of a launch as 64 bytes. -/
def faultBits : Option FaultRec → Nat
  | none => 0
  | some f =>
    f.trap.cause + f.trap.sub * 2 ^ 8 + f.trap.usub * 2 ^ 16 + f.count * 2 ^ 32 + f.index % 2 ^ 48 * 2 ^ 64 + f.core % 2 ^ 11 * 2 ^ 128 +
      f.pc.toNat * 2 ^ 192 + f.trap.i0.toNat * 2 ^ 256 + f.trap.i1.toNat * 2 ^ 320 + f.trap.i2.toNat * 2 ^ 384 + f.trap.i3.toNat * 2 ^ 448

/-- The context under which the master translates for a launch: user mode (R188). -/
def whoLaunch (s : State) (p ctx vf : Nat) : Who :=
  { cl := ((clustersOf s p).head?).getD 0, part := p, ctx := (cdXlctx s ctx).bits 63 52,
    root := (cdXlctx s ctx).bits 51 13 * 2 ^ 13, user := true, vf := vf }

/-- A write performed at its home or bank by the device. -/
def placeWrite (s : State) (pa : Nat) (data : List Byte) : State :=
  match region (paLocal pa) with
  | .scratch _ => writeBank s pa (data.map some) (max (stampOf s (lineOf pa)) (clockOf s (homeOf pa)) + 1)
  | _ => homeWriteOrPost s pa (data.map some) (homeOf pa)

/-- A write that is read by the host: held while the partition's log is not acknowledged (R439). One that was released before a rollback
is put back at once, so that the host never sees it withdrawn. -/
def emitWrite (s : State) (p pa : Nat) (data : List Byte) : State :=
  match takeSkip s p (.write pa data) with
  | some s1 => placeWrite s1 pa data
  | none => if ackedTo s p (logPos s p) then placeWrite (noteOut s p (.write pa data)) pa data else holdOut s p (.write pa data)

/-- A write of the device, for a launch, to another device: it waits for the log and for a route, and is checked there (R439, R455, R458). -/
def emitStore (s : State) (w : Who) (lnum : Nat) (x : Xl) (data : List Byte) : State :=
  let r := skipBytes w.part x.pa (data.map some) s.rep.skips
  let s1 : State := { s with rep := { s.rep with skips := r.2 } }
  if r.1.all Option.isNone then s1
  else postOut (fabricCount (ctlCount (dueDt s1 linkClock (lineOf x.pa) x.leafPa) (vfAddr w.vf 0x118) 1) w.part w.vf 0 data.length)
    { part := w.part, upTo := logPos s w.part, lnum := lnum, index := 0, va := x.va, uid := 0, dev := paDev x.pa, pa := x.pa, data := r.1,
      core := 2048, lc := clockOf s linkClock, inc := 0, back := false, pc := 0, desc := 1 }

/-- A write of the device through a translation: at its home, at its bank, or at the device that owns the place; the line takes the
context's tag (R65). What a replay partition would release is discarded (R442). -/
def deviceWrite (s : State) (w : Who) (lnum : Nat) (x : Xl) (data : List Byte) : State :=
  if replayPart s w.part then s
  else match x.tgt with
    | .mem _ =>
      if isLocal s x.pa then emitWrite (retag (dueDt s (homeOf x.pa) (lineOf x.pa) x.leafPa) (lineOf x.pa) w.ctx) w.part x.pa data
      else emitStore s w lnum x data
    | _ => emitWrite s w.part x.pa data

/-- A VA of a launch's or queue's context translated for a write of the device, which writes neither control space nor the weight store. -/
def writeXlate (s : State) (w : Who) (va : Nat) : XRes :=
  match xlateAs s w va false .write with
  | (.ok x, s1) => if x.tgt = .control ∨ x.tgt = .mem .W then (.error (.fault 0x07 0 x.leafPa), s1) else (.ok x, s1)
  | r => r

/-- The completion block of a launch sent, with its status (1 no fault, 2 faults, 3 killed); none while its place cannot be translated now.
One whose place no longer translates is not written. -/
def sendBlock (s : State) (l : Launch) (status : Nat) : Option (List Nat) × State :=
  if l.cblk = 0 then (some [], s)
  else
    let w := whoLaunch s l.part l.ctx l.vf
    match writeXlate s w l.cblk with
    | (.error (.hold _), s1) => (none, s1)
    | (.error (.fault ..), s1) => (some [], s1)
    | (.ok x, s1) =>
      let s2 := deviceWrite s1 w l.lnum x (leBytes 64 (bits l.record 31 0 + status * 2 ^ 32))
      (some [x.pa, x.pa + 64], deviceWrite s2 w l.lnum { x with va := x.va + 64, pa := x.pa + 64 } (leBytes 64 (faultBits l.faults)))

/-- A launch leaves the launch table (R191). -/
def freeLaunch (s : State) (lnum : Nat) : State :=
  { s with wk := { s.wk with launches := s.wk.launches.filter (fun l => l.lnum != lnum) } }

def setBlock (s : State) (lnum : Nat) (pas : List Nat) : State :=
  { s with wk := { s.wk with launches := s.wk.launches.map (fun l => if l.lnum = lnum then { l with block := some pas } else l) } }

/-- Whether a launch's completion block is written. -/
def blockDone (s : State) (l : Launch) : Bool := l.block.any (fun pas => pas.all (fun pa => !writeDue s pa))

/-- The completion block of a launch written, and its entry freed once it is (R191, R415); true once that is so. -/
def endLaunch (s : State) (lnum status : Nat) : Bool × State :=
  match launchOf s lnum with
  | none => (true, s)
  | some l =>
    let s1 := if l.block.isSome then s
      else match sendBlock s l status with
        | (some pas, s1) => setBlock s1 lnum pas
        | (none, s1) => s1
    if (launchOf s1 lnum).all (blockDone s1) then (true, freeLaunch s1 lnum) else (false, s1)

/-! ### The kill of a context (R414) -/

/-- Launches of a context. -/
def launchesOf (s : State) (ctx : Nat) : List Launch := s.wk.launches.filter (fun l => l.ctx = ctx)

/-- Records, ranges, crews and tiles of a context removed (R414). -/
def dropWork (s : State) (ctx : Nat) : State :=
  let mine (n : Nat) : Bool := (launchesOf s ctx).any (fun l => l.lnum == n)
  let crews := s.eng.crews.filter (fun c => mine c.lnum)
  let gone (t : Tile) : Bool := crews.any (fun c => c.cl == t.cl && c.entry == t.crew)
  { s with
    wk := { s.wk with
      shares := s.wk.shares.filter (fun g => !mine g.lnum)
      cl := s.wk.cl.map (fun e => (e.1, { e.2 with
        deque := e.2.deque.filter (fun r => !mine r.lnum), resume := e.2.resume.filter (fun r => !mine r.lnum)
        ranges := e.2.ranges.filter (fun g => !mine g.lnum) })) }
    eng := { s.eng with
      crews := s.eng.crews.filter (fun c => !mine c.lnum), tiles := s.eng.tiles.filter (fun t => !gone t)
      mma := s.eng.mma.filter (fun m => (anyThread s m.uid).isSome) } }

/-- Every thread of a context killed where it stands, and its records, crews, tiles and forks removed (R414); its engines and routers are
then quiesced. -/
def killWriteAt (s : State) (ctx : Nat) : State :=
  let p := cdPart s ctx
  if s.sys.kills.any (fun k => k.ctx = ctx) then s
  else if !inputTurn s p 2 ctx then post s (.killWrite ctx)
  else
    let s0 := logOutside { s with sys := { s.sys with kills := { ctx := ctx, due := clustersOf s p, blocks := none } :: s.sys.kills } } p 2 0 [BitVec.ofNat 64 ctx]
    let s1 := ((threads s0 ++ s0.wk.saved).filter (fun t => t.status ≠ .vacant ∧ t.ctx = ctx)).foldl
      (fun s t => killThread killDepth s t.uid) s0
    post (dropWork s1 ctx) (.contextKill ctx)

/-- KILL_WRITE (R414, R454). -/
def execKillWrite (s : State) : Out :=
  match s.now with
  | some (.killWrite ctx) => .next (killWriteAt { s with now := none } ctx)
  | _ => .next s

/-- The context's engine work dropped everywhere (R185 steps 1 and 2): commands, result elements, match-table entries, multicasts. Its
tags are not set. -/
def dropEngine (s : State) (tag : Nat) : State :=
  let mine (c : Command) : Bool := c.ctx == tag
  { s with
    coh := { s.coh with net := s.coh.net.filter (fun m => m.ctx != tag) }
    eng := { s.eng with
      fifo := s.eng.fifo.filter (fun c => !mine c)
      active := s.eng.active.filter (fun c => !mine c)
      subs := s.eng.subs.filter (fun e => e.ctx != tag)
      mcasts := s.eng.mcasts.filter (fun m => !s.eng.active.any (fun c => mine c && c.cl == m.cl && c.id == m.cmd))
      farMcasts := s.eng.farMcasts.filter (fun m => !s.eng.active.any (fun c => mine c && c.cl == m.cl && c.id == m.cmd))
      cc := s.eng.cc.map (fun e => if e.1.2 = tag then (e.1, { e.2 with elems := [] }) else e) } }

/-- The committed guarded bytes of a context that its cores still hold dirty are sent, so that none is written later (R185,
notes/assumptions/63.md). -/
def sendDirty (s : State) (part tag : Nat) : State :=
  (s.coh.l1.filter (fun l => l.cls == .G && l.ctx == tag && l.dirty != 0 && inPart s part (clusterOf l.core))).foldl
    (fun s l => gWriteBack s l fullMask (Cause.ofLaunch l.last.1 l.last.2)) s

/-- Lines reserved for reads of the engines of some clusters are free. -/
def freeFetches (s : State) (cls : List Nat) : State := cls.foldl (fun s cl => freeReserved s (Held.isFetch (engineClock cl))) s

/-- The engines and routers quiesced, and the context's rings removed (R360, R371); each agent's acknowledgement is then due (R185 steps 1
to 3). -/
def contextKillAt (s : State) (ctx : Nat) : State :=
  match s.sys.kills.find? (fun k => k.ctx = ctx) with
  | none => s
  | some k =>
    let tag := (cdXlctx s ctx).bits 63 52
    let s1 := sendDirty (freeFetches (dropRings (dropEngine s tag) ctx) k.due) (cdPart s ctx) tag
    if k.due.isEmpty then post s1 (.killStampWrite ctx) else postAll s1 (k.due.map (fun a => Event.fenceOutAcknowledgement ctx a))

/-- CONTEXT_KILL (R185, R414). -/
def execContextKill (s : State) : Out :=
  match s.now with
  | some (.contextKill ctx) => .next (contextKillAt { s with now := none } ctx)
  | _ => .next s

/-- An access of a killed thread of a cluster that its home has still to perform (R414). -/
def orphanAccess (s : State) (cl : Nat) : Bool :=
  s.agenda.any (fun e => match e with
      | .singletonAccess _ _ core uid _ => clusterOf core == cl && orphaned s uid
      | _ => false) ||
    s.coh.dir.any (fun d => (d.busy.toList ++ d.queue).any (fun h => match h with
      | .turn uid core _ _ _ => clusterOf core == cl && orphaned s uid
      | _ => false))

/-- A write of a context that a cluster's engine, network interface or routers have under way (R185): the engine's, guarded bytes of its
L1s, posted stores, and accesses whose thread is gone. -/
def engineWriting (s : State) (ctx cl : Nat) : Bool :=
  engWrites s cl || (coresOf cl).any (coreWritesPending s) ||
    s.coh.posted.any (fun p => clusterOf p.core == cl && (launchesOf s ctx).any (fun l => l.lnum == p.lnum)) || orphanAccess s cl

/-- An acknowledgement arrives at the recovery controller, once nothing of the context's is under way there; the last one makes the stamp
due (R185 steps 3 and 4). -/
def fenceOutAt (s : State) (ctx agent : Nat) : State :=
  if engineWriting s ctx agent then post s (.fenceOutAcknowledgement ctx agent)
  else
    let kills := s.sys.kills.map (fun k => if k.ctx = ctx then { k with due := k.due.filter (fun a => a != agent) } else k)
    let s1 : State := { s with sys := { s.sys with kills := kills } }
    if kills.any (fun k => k.ctx = ctx ∧ k.due.isEmpty) then postOnce s1 (.killStampWrite ctx) else s1

/-- FENCE_OUT_ACKNOWLEDGEMENT (R185). -/
def execFenceOutAcknowledgement (s : State) : Out :=
  match s.now with
  | some (.fenceOutAcknowledgement ctx agent) => .next (fenceOutAt { s with now := none } ctx agent)
  | _ => .next s

/-- The completion blocks of a killed context's launches are written (R415); then its granules are free. -/
def killBlocks (s : State) (ctx : Nat) (lnums : List Nat) : State :=
  let r := lnums.foldl (fun a n => let e := endLaunch a.2 n 3; (if e.1 then a.1 else a.1 ++ [n], e.2)) (([] : List Nat), s)
  if r.1.isEmpty then
    { r.2 with
      wk := { r.2.wk with allocs := r.2.wk.allocs.filter (fun a => a.ctx != (cdXlctx s ctx).bits 63 52) }
      sys := { r.2.sys with kills := r.2.sys.kills.filter (fun k => k.ctx != ctx) } }
  else
    post { r.2 with sys := { r.2.sys with kills := r.2.sys.kills.map (fun k => if k.ctx = ctx then { k with blocks := some r.1 } else k) } }
      (.killStampWrite ctx)

/-- The launches of a context that have not written their completion blocks. -/
def unfinished (s : State) (ctx : Nat) : List Nat := ((launchesOf s ctx).filter (fun l => l.block.isNone)).map (fun l => l.lnum)

/-- The kill stamp, a value that the spec leaves open (notes/assumptions/3.md), written as a home-performed write (R185 step 4); then the
completion blocks (R415), and the context's granules. -/
def killStampAt (s : State) (ctx : Nat) : State :=
  match s.sys.kills.find? (fun k => k.ctx = ctx ∧ k.due.isEmpty) with
  | none => s
  | some k =>
    match k.blocks with
    | some lnums => killBlocks s ctx lnums
    | none =>
      let pa := cdKillPa s ctx
      if lineHeld s (lineOf pa) || !canHomeWrite s (lineOf pa) then post (prepareLine s (lineOf pa) (homeOf pa)) (.killStampWrite ctx)
      else killBlocks (homeApply (tickFree s) pa ((leBytes 8 (freeWord s).toNat).map some) (homeOf pa)) ctx (unfinished s ctx)

/-- Whether every acknowledgement of a context's kill is in and its stamp is still to be written. -/
def killDone (s : State) (ctx : Nat) : Bool := s.sys.kills.any (fun k => k.ctx = ctx ∧ k.due.isEmpty ∧ k.blocks.isNone)

/-- KILL_STAMP_WRITE (R185, R415): a KILLPA in a hole has no memory to write. -/
def execKillStampWrite (s : State) : Out :=
  match s.now with
  | some (.killStampWrite ctx) =>
    if killDone s ctx ∧ atHole s (cdKillPa s ctx) then .fault (.hole (cdKillPa s ctx))
    else .next (killStampAt { s with now := none } ctx)
  | _ => .next s

end Sys2Proof.Machine
end

