-- ==== Sys2Proof/Machine/Commit.lean ====
section
/-! DEFINITION. Commit.lean: the steps of a commit: request, grant, confirmation, invalidation and its answers, commit point, and the pin
token (R100-R102, R110-R116, R141). A request that its home holds for another of lower key comes again as COMMIT_REQUEST; one that
waits for a line is held at the line in order of arrival. -/

namespace Sys2Proof.Machine

/-! ### Requests (R111, R112) -/

/-- Whether two requests intersect (R109, exact sets); a rival's request is not ordered against any other (R141). -/
def CommitReq.meets (a b : CommitReq) : Bool :=
  a.view.isNone && b.view.isNone && (a.writes.any (fun l => b.reads.contains l || b.writes.contains l) || b.writes.any a.reads.contains)

/-- Key order (R6, R112). -/
def CommitReq.below (a b : CommitReq) : Bool := decide (a.stamp < b.stamp) || (a.stamp == b.stamp && decide (a.core < b.core))

/-- The request of a thread's chunk at a home. -/
def reqOf (t : Thread) (home : Nat) : CommitReq :=
  { home := home, uid := t.uid, stamp := t.chunk.key, core := t.core, lines := t.chunk.lines.filter (fun l => homeOf l = home),
    reads := t.chunk.reads, writes := t.chunk.lines, view := t.chain.head?, pinned := t.pinned, granted := false, confirmed := false }

def setReq (s : State) (r : CommitReq) : State :=
  { s with coh := { s.coh with reqs := r :: s.coh.reqs.filter (fun x => !(x.home == r.home && x.uid == r.uid)) } }
def reqAt (s : State) (home uid : Nat) : Option CommitReq := s.coh.reqs.find? (fun r => r.home = home ∧ r.uid = uid)
def reqsAt (s : State) (home : Nat) : List CommitReq := s.coh.reqs.filter (fun r => r.home = home)

/-- A thread's chunk changed. -/
def updChunkOf (s : State) (uid : Nat) (f : Chunk → Chunk) : State := updThread s uid (fun t => { t with chunk := f t.chunk })

/-- A request that its home refuses: a line whose stamp is not below its own, or that another core owns (R86, R112 item 2). A pinned
attempt's and a rival's are not refused. -/
def refusedReq (s : State) (r : CommitReq) : Bool :=
  !r.pinned && r.view.isNone && r.lines.any (fun l => decide (r.stamp ≤ stampOf s l) || ((dirOf s l).st == .O && (dirOf s l).owner != r.core))

/-- The grants of a chunk that is not committing revoked: it releases every grant and its requests stay held (R112 item 3). -/
def revoke (s : State) (uid : Nat) : State :=
  let held := s.coh.reqs.filter (fun r => r.uid = uid ∧ r.granted)
  let reqs := s.coh.reqs.map (fun r => if r.uid = uid then { r with granted := false } else r)
  postAll (updChunkOf { s with coh := { s.coh with reqs := reqs } } uid (fun c => { c with granted := [] }))
    (held.map (fun r => Event.commitRequest r.home r.uid (incOf s (clusterOf r.core))))

/-- Whether a chunk is committing. -/
def committing (s : State) (uid : Nat) : Bool := (findThread s uid).any (fun t => t.chunk.phase == .committing)

/-- Grants of higher key revoked by an arriving request that they meet. -/
def revokeAbove (s : State) (r : CommitReq) : State :=
  ((reqsAt s r.home).filter (fun x => x.granted && r.below x && x.meets r && !committing s x.uid)).foldl (fun s x => revoke s x.uid) s

/-- Whether a home may grant a request now: it meets no granted one, and no grantable one of lower key (R112 item 1). -/
def grantable (s : State) (r : CommitReq) : Bool :=
  let clear (x : CommitReq) : Bool := (reqsAt s r.home).all (fun y => !y.granted || y.uid == x.uid || !y.meets x)
  clear r && (reqsAt s r.home).all (fun x => x.granted || x.uid == r.uid || !(x.below r && x.meets r && clear x))

/-- A message of a fenced or restarted cluster dropped at a home and counted (R95, R97). -/
def dropStale (s : State) (line : Nat) : State := ctlCount s (slCounter line 8) 1

/-- A write of a stale agent dropped, with the DT bits that were due with it. -/
def dropWrite (s : State) (line agent : Nat) : State := dropStale (dropDts s agent line) line

/-- A request refused: the refusal carries the home's clock (R110), and the chunk is squashed. -/
def refuse (s : State) (home uid core : Nat) : State := squash (bumpLc s core (clockOf s home)) uid true

/-- A line of a request for which its slice has no room (R64, R66). -/
def wantsRoom (s : State) (r : CommitReq) : Option Nat := if r.view.isNone then r.lines.find? (fun l => !sliceRoom s l) else none

/-- A line of a request that its home cannot take up yet, and that is not reserved for it (R85). -/
def busyLine (s : State) (r : CommitReq) : Option Nat :=
  if r.view.isNone then r.lines.find? (fun l => lineBusy s l && !reservedFor s l (Held.isAsk r.uid)) else none

/-- A commit request or confirmation held at a busy line in order of arrival (R85). -/
def queueCommit (s : State) (line uid inc : Nat) : State :=
  if heldAt s line (Held.isAsk uid) then s else queueAt s line (.asks uid inc)

/-- What a request or confirmation of a chunk does at a home: nothing where the home's die has been fenced (R98); dropped where its cluster has
been (R95, R97). The lines that were reserved for it are then free. -/
def atCommitHome (s : State) (home uid core inc : Nat) (lines : List Nat) (f : State) : State :=
  freeReserved (if deadHome s home then s else if !freshAnswer s (clusterOf core) inc then dropStale s (lines.headD 0) else f) (Held.isAsk uid)

/-- A request at a home, or looked at again. -/
def requestAtHome (s : State) (home uid inc : Nat) (t : Thread) : State :=
  let r := reqOf t home
  if t.chunk.phase ≠ .requesting ∨ !t.chunk.asked.contains home ∨ (reqAt s home uid).any (fun r => r.granted) then s
  else if refusedReq s r then refuse s home uid t.core
  else
    let s1 := match reqAt s home uid with
      | some _ => s
      | none => revokeAbove (setReq (bumpClock s home r.stamp) r) r
    match busyLine s1 r with
    | some l => queueCommit s1 l uid inc
    | none =>
      if grantable s1 r then post (setReq s1 { r with granted := true }) (.commitGrant home uid) else post s1 (.commitRequest home uid inc)

/-- A request arrives at a home, or is looked at again. -/
def commitRequestAt (s : State) (home uid inc : Nat) : State :=
  match findThread s uid with
  | none => freeReserved s (Held.isAsk uid)
  | some t => atCommitHome s home uid t.core inc (reqOf t home).lines (requestAtHome s home uid inc t)

/-- COMMIT_REQUEST (R112). -/
def execCommitRequest (s : State) : Out :=
  match s.now with
  | some (.commitRequest home uid inc) => .next (commitRequestAt { s with now := none } home uid inc)
  | _ => .next s

/-- A grant reaches its chunk: with the last one the chunk is committing and confirms to every home (R111, R113). A fenced cluster sends
nothing more (R96). -/
def commitGrantAt (s : State) (home uid : Nat) : State :=
  match findThread s uid, reqAt s home uid with
  | some t, some r =>
    if t.chunk.phase ≠ .requesting ∨ !r.granted ∨ deadHome s home ∨ s.coh.fencedCl.contains (clusterOf t.core) then s
    else
      let granted := home :: t.chunk.granted.filter (fun h => h != home)
      let whole := t.chunk.asked.all granted.contains
      let s1 := bumpLc (updChunkOf s uid (fun c =>
        { c with granted := granted, seen := max c.seen (clockOf s home), phase := if whole then .committing else c.phase }))
        t.core (clockOf s home)
      if whole then postAll s1 (t.chunk.asked.map (fun h => Event.commitConfirmation h uid (incOf s (clusterOf t.core)))) else s1
  | _, _ => s

/-- COMMIT_GRANT (R111). -/
def execCommitGrant (s : State) : Out :=
  match s.now with
  | some (.commitGrant home uid) => .next (commitGrantAt { s with now := none } home uid)
  | _ => .next s

/-! ### Invalidations (R86, R87, R113) -/

/-- The lines that an invalidation carries as written (R87). -/
def causeLines (s : State) (line : Nat) : InvCause → List Nat
  | .commit uid => (findThread s uid).elim [line] (fun t => t.chunk.lines)
  | _ => [line]

/-- The committing chunk behind an invalidation. -/
def causeUid : InvCause → Nat
  | .commit uid => uid
  | _ => 0

/-- Its thread; a write or a replacement at the home has none. -/
def causeThread (s : State) : InvCause → Option Thread
  | .commit uid => findThread s uid
  | _ => none

/-- Uncommitted chunks of a core that have touched one of some lines, but those of `but`. -/
def localTouching (s : State) (core : Nat) (lines : List Nat) (but : Nat) : List Thread :=
  (threads s).filter (fun u => u.uid ≠ but ∧ u.core = core ∧ lines.any u.chunk.touches)

/-- Whether a local chunk makes its L1 refuse an invalidation (R87, R113, R116); `inv` is the committing thread, none for a write or a
replacement at the home, which only a pinned attempt bars. -/
def refusesInv (inv : Option Thread) (u : Thread) : Bool :=
  match inv with
  | none => u.pinned
  | some t =>
    !t.pinned && (u.pinned ||
      (u.chunk.phase == .committing && (decide (u.chunk.key < t.chunk.key) || (u.chunk.key == t.chunk.key && decide (u.core < t.core)))))

/-- The test of an L1 (R87, R113): none where it refuses, else the state with the intersecting chunks squashed. -/
def testLocal (s : State) (core : Nat) (lines : List Nat) (inv : Option Thread) : Option State :=
  let us := localTouching s core lines ((inv.map (fun t => t.uid)).getD 0)
  if us.any (refusesInv inv) then none else some (us.foldl (fun s u => squash s u.uid true) s)

/-- An invalidation reaches an L1: it drops its copy and acknowledges, or refuses; the committing core keeps its own line. A fenced
cluster answers nothing (R96). -/
def invalidationAt (s : State) (core line : Nat) (cause : InvCause) : State :=
  let inc := incOf s (clusterOf core)
  if s.coh.fencedCl.contains (clusterOf core) then s
  else
    let s0 := bumpLc s core (clockOf s (homeOf line))
    match testLocal s0 core (causeLines s line cause) (causeThread s cause) with
    | none => post s0 (.invalidationRefusal core line (causeUid cause) (lcOf s0 core) inc)
    | some s1 =>
      let own := (causeThread s cause).any (fun t => t.core == core)
      let drop := !own && (match l1Get s1 core line with | some l => l.cls == .D | none => false)
      let s2 := if drop then l1Drop s1 core line else s1
      post s2 (.invalidationAcknowledgement core line (lcOf s2 core) inc)

/-- INVALIDATION (R113). -/
def execInvalidation (s : State) : Out :=
  match s.now with
  | some (.invalidation core line cause) => .next (invalidationAt { s with now := none } core line cause)
  | _ => .next s

/-- Whether a line awaits an answer to a commit's invalidations. -/
def awaitsCommit (s : State) (uid line : Nat) : Bool := (dirOf s line).st == .IA && (dirOf s line).busy == some (.commit uid)

/-- A home that holds a commit's lines reports once none of them awaits an answer to it; with the last report the commit point is due
(R114). -/
def reportIfDone (s : State) (home uid : Nat) : State :=
  match findThread s uid, reqAt s home uid with
  | some t, some r =>
    if t.chunk.phase ≠ .committing ∨ !r.confirmed ∨ r.lines.any (awaitsCommit s uid) then s
    else
      let reported := home :: t.chunk.reported.filter (fun h => h != home)
      let s1 := updChunkOf s uid (fun c => { c with reported := reported })
      if t.chunk.asked.all reported.contains then postOnce s1 (.commitPoint uid) else s1
  | _, _ => s

/-- A line of a confirmed commit at its home (R86): sharers are sent invalidations, an unshared line is owned by the committing core, one
that it owns stays owned. -/
def confirmLine (uid core ctx : Nat) (s0 : State) (line : Nat) : State :=
  let s := retag s0 line ctx
  let d := dirOf s line
  let owned : DirEnt := { d with st := .O, owner := core, ptrs := [], bc := false, before := [], busy := some (.commit uid) }
  match d.st with
  | .S =>
    if (sharerCores s d).isEmpty then setDir s owned
    else awaitSharers s { d with owner := core } .IA (.commit uid) (.commit uid)
  | .O => setDir s { d with before := [clusterOf d.owner], busy := some (.commit uid) }
  | _ => setDir s owned

/-- A confirmation taken up by a home: it waits while a line of it is not stable (R85); other chunks of the committing core are tested as by
an invalidation. A rival's needs none (R141). -/
def confirmAtHome (s : State) (home uid inc : Nat) (t : Thread) (r : CommitReq) : State :=
  if t.chunk.phase ≠ .committing ∨ r.confirmed then s
  else match busyLine s r, wantsRoom s r with
    | some l, _ => queueCommit s l uid inc
    | none, some l => post (makeRoom s l) (.commitConfirmation home uid inc)
    | none, none =>
      let s1 := setReq s { r with confirmed := true }
      if r.view.isSome then reportIfDone s1 home uid
      else match testLocal s1 t.core r.lines (some t) with
        | none => squash s1 uid true
        | some s2 => reportIfDone (r.lines.foldl (confirmLine uid t.core (t.xlctx.bits 63 52)) s2) home uid

/-- A confirmation at a home (R113). -/
def commitConfirmationAt (s : State) (home uid inc : Nat) : State :=
  match findThread s uid, reqAt s home uid with
  | some t, some r => atCommitHome s home uid t.core inc r.lines (confirmAtHome s home uid inc t r)
  | _, _ => freeReserved s (Held.isAsk uid)

/-- COMMIT_CONFIRMATION (R113). -/
def execCommitConfirmation (s : State) : Out :=
  match s.now with
  | some (.commitConfirmation home uid inc) => .next (commitConfirmationAt { s with now := none } home uid inc)
  | _ => .next s

/-- A line leaves its home slice (R86); what its home holds for it is then served. -/
def leaveSlice (s : State) (line : Nat) : State :=
  let q := (dirOf s line).queue
  let s1 : State := { s with coh := { s.coh with dir := s.coh.dir.filter (fun d => d.line != line), tags := Assoc.erase s.coh.tags line } }
  if q.isEmpty then s1 else serveHeld (setDir s1 { DirEnt.fresh line with queue := q }) line

/-- A line that nothing is served at any more, in a stable state with the pointers `ptrs`: what its home holds for it is served. -/
def settled (s : State) (d : DirEnt) (st : DirState) (ptrs : List Nat) : State :=
  serveHeld (setDir s { d with st := st, ptrs := ptrs, bc := d.bc && st == .S, before := [], pend := 0, due := [], busy := none, gotWb := false,
                               gotNack := false, resent := false }) d.line

/-- Whether a request for whose turn a line was brought still wants it. -/
def wanted (s : State) (line : Nat) : Held → Bool
  | .turn uid _ _ _ _ => waitsFor s uid line || orphaned s uid
  | .fetch a _ => engineAtWork s a
  | .walk .. => true
  | _ => false

/-- A line brought to where a request can be performed: reserved for it while it is wanted, served further where it is not. -/
def giveTurn (s : State) (d : DirEnt) (h : Held) (st : DirState) (ptrs : List Nat) : State :=
  if wanted s d.line h then reserveFor s d h st ptrs else settled s d st ptrs

/-- The last answer for a line has arrived (R86): the commit's core owns it, a written line is in state I, a held write is applied, a
replaced line leaves. -/
def lastAnswer (s : State) (d : DirEnt) : State :=
  match d.st, d.busy with
  | .IA, some (.commit uid) =>
    reportIfDone (setDir s { d with st := .O, ptrs := [], bc := false, before := [], pend := 0, due := [] }) (homeOf d.line) uid
  | _, some (.turn uid core pa op inc) => giveTurn s d (.turn uid core pa op inc) .I []
  | .RC, some (.write data agent inc) =>
    settled (if agentFresh s agent inc then homeApply s d.line data agent else dropWrite s d.line agent) d .I []
  | .RC, _ => leaveSlice s d.line
  | _, _ => settled s d .I []

/-- An answer at the home to one of the messages that a line awaits. -/
def awaits (d : DirEnt) (core : Nat) : Bool := (d.st == .IA || d.st == .RC) && d.due.contains core

/-- An acknowledgement at the home, with the clock of the core that sent it (R86, R114). -/
def invalidationAckAt (s : State) (core line stamp inc : Nat) : State :=
  let d := dirOf s line
  if !freshAnswer s (clusterOf core) inc then dropStale s line
  else if !awaits d core || deadHome s (homeOf line) then s
  else
    let s1 := bumpClock s (homeOf line) stamp
    let s2 := match d.busy with
      | some (.commit uid) => updChunkOf s1 uid (fun c => { c with seen := max c.seen stamp })
      | _ => s1
    let d' : DirEnt := { dirOf s2 line with pend := d.pend - 1, due := d.due.filter (fun c => c != core) }
    if d'.pend = 0 then lastAnswer s2 d' else setDir s2 d'

/-- INVALIDATION_ACKNOWLEDGEMENT (R86). -/
def execInvalidationAcknowledgement (s : State) : Out :=
  match s.now with
  | some (.invalidationAcknowledgement core line stamp inc) => .next (invalidationAckAt { s with now := none } core line stamp inc)
  | _ => .next s

/-- A refusal at the home (R113, R116): a committing chunk is squashed and the line is shared as before; a replacement is given up; a recall
for a write is made again when the pinned attempt is over, and the write is held till then; an invalidation for a write is sent again. -/
def invalidationRefusalAt (s : State) (core line uid stamp inc : Nat) : State :=
  let d := dirOf s line
  if !freshAnswer s (clusterOf core) inc then dropStale s line
  else if !awaits d core || deadHome s (homeOf line) then s
  else
    let s1 := bumpClock s (homeOf line) stamp
    match d.busy with
    | some (.commit v) => if v = uid then (findThread s1 v).elim s1 (fun t => refuse s1 (homeOf line) v t.core) else s1
    | some .replace =>
      settled (dropInvalidations s1 line) d (if d.recalled then .O else .S) d.ptrs
    | some h =>
      if d.recalled then
        setDir s1 { d with st := .O, pend := 0, due := [], busy := none, resent := false, queue := h :: d.queue }
      else post s1 (.invalidation core line .homeWrite)
    | none => s1

/-- INVALIDATION_REFUSAL (R113). -/
def execInvalidationRefusal (s : State) : Out :=
  match s.now with
  | some (.invalidationRefusal core line uid stamp inc) => .next (invalidationRefusalAt { s with now := none } core line uid stamp inc)
  | _ => .next s

/-! ### The commit point (R114) -/

/-- Pending requests that a commit's write signature meets are refused, a pinned attempt's held (R112). -/
def refuseMet (s : State) (r : CommitReq) : State :=
  (s.coh.reqs.filter (fun x => x.uid ≠ r.uid ∧ !x.granted ∧ !x.pinned ∧ r.view.isNone ∧ x.view.isNone ∧
      r.writes.any (fun l => x.reads.contains l || x.writes.contains l))).foldl (fun s x => refuse s x.home x.uid x.core) s

/-- A chunk whose commit point may be due: all its homes have reported, or it asked none and awaited only its release (R114, R124). -/
def commitDue (c : Chunk) : Bool :=
  (c.phase == .committing && c.asked.all c.reported.contains) || (c.phase == .requesting && c.asked.isEmpty && !c.poison)

/-- A chunk whose homes have all reported reaches its commit point, unless a leaf that it stored through has changed (R37); a release that it
asked is performed and acknowledged first (R124). A trap pending behind it is then delivered. A fenced cluster commits no chunk that had to
ask a home (R96). -/
def commitPointAt (s : State) (uid : Nat) : State :=
  match findThread s uid with
  | none => s
  | some t =>
    if !commitDue t.chunk ∨ s.coh.fencedCl.contains (clusterOf t.core) then s
    else if !dirtyPasses s t then squashStale s uid t.chunk
    else if !releaseReady s t then post (prepareRelease s t) (.commitPoint uid)
    else match (if t.chain.isEmpty then testLocal s t.core t.chunk.lines (some t) else some s) with
      | none => squash s uid true
      | some s1 =>
        let r := reqOf t 0
        let s2 := refuseMet (onThread s1 uid (fun s => commitAt s (max (lcOf s s.th.core) s.th.chunk.seen + 1) (!s.th.chunk.sub))) r
        let s3 := if t.pendTrap.isSome then post s2 (.trapDelivery uid) else s2
        if s3.coh.pinQueue.isEmpty then s3 else postOnce s3 (.pinTokenGrant t.part)

/-- COMMIT_POINT (R114). -/
def execCommitPoint (s : State) : Out :=
  match s.now with
  | some (.commitPoint uid) => .next (commitPointAt { s with now := none } uid)
  | _ => .next s

/-! ### The pin token (R116) -/

/-- A thread granted the token: its next attempt is pinned and takes its key now. -/
def pinThread (key : Nat) (t : Thread) : Thread :=
  { t with
    pinned := true, chunk := { t.chunk with key := key }
    status := match t.status with
      | .waiting .pin => .running
      | .halted (some .pin) => .halted none
      | st => st }

/-- The token of a partition granted to the first thread that asked. -/
def pinTokenGrantAt (s : State) (part : Nat) : State :=
  match s.coh.pinQueue.find? (fun e => e.1 = part) with
  | none => s
  | some e =>
    if s.coh.pinHolder.any (fun h => h.1 = part) then post s (.pinTokenGrant part)
    else
      let s1 : State := { s with coh := { s.coh with pinQueue := s.coh.pinQueue.erase e } }
      match anyThread s e.2 with
      | none => if s1.coh.pinQueue.any (fun x => x.1 = part) then post s1 (.pinTokenGrant part) else s1
      | some t =>
        let key := lcOf s1 t.core + 1
        let s2 := setLc { s1 with coh := { s1.coh with pinHolder := e :: s1.coh.pinHolder } } t.core key
        let s3 := ctlCount (perfTh (updAny s2 e.2 (pinThread key)) t 8 1) (pcPin part) 1
        if (findThread s3 e.2).isNone then postOnce s3 (.wakeConditionMet e.2) else s3

/-- PIN_TOKEN_GRANT (R116). -/
def execPinTokenGrant (s : State) : Out :=
  match s.now with
  | some (.pinTokenGrant part) => .next (pinTokenGrantAt { s with now := none } part)
  | _ => .next s

/-! ### Chunk ends (R102) -/

/-- The running chunk of a thread ends (R102). -/
def chunkEndAt (s : State) (uid : Nat) : State :=
  match findThread s uid with
  | none => s
  | some t =>
    if t.status = .running ∧ t.chunk.phase = .running ∧ !t.boundary ∧ 0 < t.chunk.count then onThread s uid endChunk else s

/-- CHUNK_END (R102). -/
def execChunkEnd (s : State) : Out :=
  match s.now with
  | some (.chunkEnd uid) => .next (chunkEndAt { s with now := none } uid)
  | _ => .next s

end Sys2Proof.Machine
end

