-- ==== Sys2Proof/Machine/Sync.lean ====
section
/-! DEFINITION. Sync.lean: sync objects (R90-R92, R125, R338, R339). -/

namespace Sys2Proof.Machine

/-! ### The object (R90) -/

/-- The 512 bits of a sync object, as its home has them. -/
def syncBits (s : State) (x : Xl) : Nat := leNat (homeBytes s (lineOf x.pa) 64)

/-- The ranges in use: base and length. -/
def syncRanges (o : Nat) : List (Nat × Nat) :=
  (List.range (bits o 65 64)).map (fun i => (bits o (191 + 128 * i) (128 + 128 * i), bits o (255 + 128 * i) (192 + 128 * i)))

/-- Whether an object is malformed. -/
def syncBad (x : Xl) (o : Nat) : Bool :=
  x.tgt != .mem .U || x.va % 64 != 0 || bits o 70 66 != 0 || bits o 127 72 != 0 ||
    (syncRanges o).any (fun r => bits r.1 63 57 != 0 || bits r.2 63 48 != 0 || decide (2 ^ 57 < r.1 + r.2))

/-- The offsets of a G line that lie in a range, by its recorded VA (R91). -/
def rangeMask (rs : List (Nat × Nat)) (l : L1Line) : Nat :=
  maskOf (fun i => rs.any (fun r => decide (r.1 ≤ l.va + i ∧ l.va + i < r.1 + r.2)))

/-- The release's effect on the L1 (R91). -/
def releaseRanges (s : State) (rs : List (Nat × Nat)) : State :=
  (gLines s s.th.core (ctxOf s.th)).foldl (fun s l => gWriteBack s l (rangeMask rs l) s.th.cause) s

/-- The acquire's effect on the L1 (R92). -/
def acquireRanges (s : State) (rs : List (Nat × Nat)) : State :=
  (gLines s s.th.core (ctxOf s.th)).foldl (fun s l => invalidateG s l.line (rangeMask rs l)) s

/-! ### The operation at the home (R338, R339) -/

/-- Whether the home performs a waiter's acquire when its turn comes: a rival's only on an arbiter object, whose ARB it reads then (R148). -/
def mayGrant (s : State) (w : Waiter) : Bool :=
  (anyThread s w.uid).all (fun t => t.chain.isEmpty) || bitAt (homeByte s (w.line + 8)).toNat 7

/-- The first waiter of an object whose acquire the home performs. -/
def firstWaiter (s : State) (line : Nat) : Option Waiter := s.coh.waiters.find? (fun w => w.line = line ∧ mayGrant s w)

/-- Waiters before it, rivals for which ARB is clear by now, try again and meet the view-external fault (R148). -/
def passWaiters (s : State) (line : Nat) : State :=
  { s with coh := { s.coh with waiters := s.coh.waiters.filter (fun w => !(w.line == line && !mayGrant s w)) } }

/-- What an operation leaves in SYNCWORD: a 0 with a waiter queued becomes the waiter's 1, in the same operation. -/
def syncLeaves (queued : Bool) (old : Nat) (new : Option Nat) : Option Nat :=
  if queued ∧ new.getD old = 0 then some 1 else new

/-- The first waiter leaves the list with its acquire performed. -/
def grantWaiter (s : State) (w : Waiter) : State :=
  answerThread { s with coh := { s.coh with waiters := s.coh.waiters.erase w } } w.uid 1

/-- What an operation of R338 makes of SYNCWORD; `queued` says that a waiter is queued. -/
def syncNew (f : SyncFn) (x : Word) (queued : Bool) (old : Nat) : Option Nat :=
  match f with
  | .lock => if old = 0 ∧ !queued then some 1 else none
  | .try_ => if old = 0 then some 1 else none
  | .store => some x.toNat
  | .add => some ((old + x.toNat) % 2 ^ 64)

/-- After an operation that has left SYNCWORD = 0, the acquire of the first waiter, if there is one. -/
def syncGrant (s : State) (line : Nat) (w : Option Waiter) : State := w.elim (passWaiters s line) (grantWaiter (passWaiters s line))

/-- Numbers recorded in the order log; in replay the logged ones. -/
def logList : List Nat → Nat → M (List Nat)
  | _, 0 => pure []
  | d, n + 1 => do
    let v ← logValue (BitVec.ofNat 64 (d.headD 0))
    let r ← logList d.tail n
    pure (v.toNat :: r)

/-- The waiter that an operation would grant, recorded by its thread identity (R438); in replay it is the logged one (R441). -/
def logWaiter (line : Nat) (w : Option Waiter) : M (Option Waiter) := do
  let s ← get
  let o := w.elim [] (fun w => (anyThread s w.uid).elim [] (fun t => t.origin))
  let replayed := (replayedVal s).isSome
  let n ← logValue (BitVec.ofNat 64 (if w.isSome then o.length + 1 else 0))
  let ids ← logList o (n.toNat - 1)
  if !replayed then pure w
  else if n = 0 then pure none
  else pure (((threads s ++ s.wk.saved).find? (fun t => t.origin = ids)).map (fun t => { line := line, uid := t.uid }))

/-- An operation on SYNCWORD at the object's home: the old value, and whether a waiter was queued. -/
def syncHome (x : Xl) (op : HomeOp) (f : Bool → Nat → Option Nat) : M (Nat × Bool) := do
  let s ← get
  let w ← logWaiter (lineOf x.pa) (firstWaiter s (lineOf x.pa))
  let old ← atHome x 8 op (fun old => syncLeaves w.isSome old (f w.isSome old))
  if (f w.isSome old).getD old = 0 then modify (fun s => syncGrant s (lineOf x.pa) w) else pure ()
  pure (old, w.isSome)

/-- A release or an acquire of R338 at the object's home. -/
def syncAt (x : Xl) (f : SyncFn) (v : Word) : M (Nat × Bool) := syncHome x (.sync f v) (syncNew f v)

/-- A failed `syncacq.lk` joins the waiter list of the home slice, which holds 4,096; without room it tries again later (R339). -/
def queueWaiter (line : Nat) : M Unit := modify (fun s =>
  if s.coh.waiters.any (fun w => w.line = line ∧ w.uid = s.th.uid) then s
  else if (s.coh.waiters.filter (fun w => homeOf w.line = homeOf line)).length < 4096 then
    { s with coh := { s.coh with waiters := s.coh.waiters ++ [{ line := line, uid := s.th.uid }] } }
  else ctlCount s (slCounter line 0x10) 1)

/-- Whether the front thread stands in an object's waiter list. -/
def queuedAt (s : State) (line : Nat) : Bool := s.coh.waiters.any (fun w => w.line == line && w.uid == s.th.uid)

/-- The front thread leaves an object's waiter list. -/
def unqueue (s : State) (line : Nat) : State :=
  { s with coh := { s.coh with waiters := s.coh.waiters.filter (fun w => !(w.line == line && w.uid == s.th.uid)) } }

/-- The bits of an object as an operation's check reads them. Those of one on another device are recorded (R438). -/
def objBits (x : Xl) : M Nat := do
  let s ← get
  if isLocal s x.pa then pure (syncBits s x)
  else
    let bs ← logBytes (leBytes 64 (syncBits s x))
    pure (leNat bs)

/-- The translation of a sync object, reported as kind 4 (R400); an operation that writes needs WR (R49). -/
def xlateSync (va : Word) (writes : Bool) : M Xl := xlateRep va (if writes then .rmw else .read) .sync 3

/-- A sync operation: translation, the arbiter rule of a rival (R148), the object's check (R90), then `m` with the object. A queued waiter has
passed both checks, and its acquire is the home's. -/
def syncOp (a : Opnd) (vals : List Opnd) (d : Dest) (writes : Bool) (m : Xl → List (Nat × Nat) → M Ret) (s : State) : Out :=
  singleOp [a] vals d (do
      let s ← get
      let x ← xlateSync (opnd s a) writes
      let s ← get
      if inView s && !isArbiter s x && s.th.answered.isNone && !queuedAt s (lineOf x.pa) then external 0x01 (opnd s a) else pure ()) (do
    let s ← get
    let x ← xlateSync (opnd s a) writes
    let o ← objBits x
    let s ← get
    if syncBad x o && s.th.answered.isNone && !queuedAt s (lineOf x.pa) then misuse 0x01 (opnd s a)
    else m x (syncRanges o)) s

/-- SYNCACQ_LK (R338, R339). The log says whether the acquire was a grant (R438); a replay performs itself a grant that no logged operation
made. -/
def execSyncacqLk (a : Opnd) (_scope : Scope) (s : State) : Out :=
  syncOp a [] .drop true (fun x rs => do
    let s ← get
    if s.th.answered.isSome then
      let _ ← logValue 1
      modify (fun s => bumpLc s s.th.core (stampOf s (lineOf x.pa)))
      modify (fun s => acquireRanges s rs)
      pure .access
    else if replayedVal s = some 1 then
      let _ ← logValue 1
      let _ ← atHome x 8 (.sync .try_ 0) (fun _ => some 1)
      modify (fun s => acquireRanges (unqueue s (lineOf x.pa)) rs)
      pure .access
    else if queuedAt s (lineOf x.pa) then throw (.wait (.sync (lineOf x.pa)))
    else
      let _ ← logValue 0
      let r ← syncAt x .lock 0
      if r.1 = 0 ∧ !r.2 then
        modify (fun s => acquireRanges s rs)
        pure .access
      else
        queueWaiter (lineOf x.pa)
        throw (.wait (.sync (lineOf x.pa)))) s

/-- SYNCACQ_GE (R338, R339): each attempt is an operation at the home. -/
def execSyncacqGe (a : Opnd) (_scope : Scope) (s : State) : Out :=
  syncOp a [.q 0] .drop false (fun x rs => do
    let s ← get
    let r ← syncHome x (.read 8) (fun _ _ => none)
    if (opnd s (.q 0)).toNat ≤ r.1 then
      modify (fun s => acquireRanges s rs)
      pure .access
    else throw (.wait (.sync (lineOf x.pa)))) s

/-- SYNCACQ_TRY (R338): its outcome is recorded (R438). -/
def execSyncacqTry (d : Dest) (a : Opnd) (_scope : Scope) (s : State) : Out :=
  syncOp a [] d true (fun x rs => do
    let r ← syncAt x .try_ 0
    let v ← logValue (Word.ofBool (decide (r.1 = 0)))
    if v = 1 then modify (fun s => acquireRanges s rs) else pure ()
    modify (fun s => pushResult s d v 0)
    pure .access) s

/-- A release: the thread's posted stores and the guarded bytes reach memory before SYNCWORD changes (R91, R338). -/
def syncRelease (x : Xl) (rs : List (Nat × Nat)) (f : SyncFn) (v : Word) : M Nat := do
  postedDone
  modify (fun s => releaseRanges s rs)
  writesDone
  let r ← syncAt x f v
  pure r.1

/-- SYNCREL_ST (R338). -/
def execSyncrelSt (a : Opnd) (_scope : Scope) (s : State) : Out :=
  syncOp a [.q 0] .drop true (fun x rs => do
    let s ← get
    let _ ← syncRelease x rs .store (opnd s (.q 0))
    pure .access) s

/-- SYNCREL_ADD (R338). -/
def execSyncrelAdd (d : Dest) (a : Opnd) (_scope : Scope) (s : State) : Out :=
  syncOp a [.q 0] d true (fun x rs => do
    let s ← get
    let old ← syncRelease x rs .add (opnd s (.q 0))
    modify (fun s => pushResult s d (BitVec.ofNat 64 old) 0)
    pure .access) s

/-- SYNCREL_CLR (R338). -/
def execSyncrelClr (a : Opnd) (_scope : Scope) (s : State) : Out :=
  syncOp a [] .drop true (fun x rs => do
    let _ ← syncRelease x rs .store 0
    pure .access) s

end Sys2Proof.Machine
end

