-- ==== Sys2Proof/Machine/Coherence.lean ====
section
/-! DEFINITION. Coherence.lean: the steps of homes, L1s, routers and memory devices (R57, R70-R75, R81-R99, R115, R120, R126, R127, R141,
R341, R342). A request that meets a line that is not stable joins the line's queue (R85). -/

namespace Sys2Proof.Machine

/-! ### Reads (R86, R88) -/

/-- The pointers after an answer to a reader: a D reader's cluster is a sharer. -/
def readerPtrs (cls : MemClass) (core : Nat) (ptrs : List Nat) : List Nat :=
  if cls = .D ∧ !ptrs.contains (clusterOf core) then ptrs ++ [clusterOf core] else ptrs

/-- A read by a core, or by a copy engine under its agent number, reaches a home (R85, R86, R95). -/
def readMissAt (s : State) (core line : Nat) (cls : MemClass) (inc : Nat) : State :=
  if 2 ^ 20 ≤ core then (if agentFresh s core inc then arriveAt s line (.fetch core inc) else dropStale s line)
  else if !freshAnswer s (clusterOf core) inc then dropStale s line
  else arriveAt s line (.read core cls inc)

/-- READ_MISS (R86). -/
def execReadMiss (s : State) : Out :=
  match s.now with
  | some (.readMiss core line cls inc) => .next (readMissAt { s with now := none } core line cls inc)
  | _ => .next s

/-- A forwarded read at the owner (R86, R88): its data, its copy then read only; or a negative acknowledgement. A fenced cluster answers
nothing (R96). -/
def forwardedReadAt (s : State) (line : Nat) : State :=
  let d := dirOf s line
  let cl := clusterOf d.owner
  let inc := incOf s cl
  if (d.st ≠ .FW ∧ d.st ≠ .WP) ∨ s.coh.fencedCl.contains cl then s
  else match (l1Get s d.owner line).filter (fun l => l.cls == .D) with
    | some l => post (l1Put s { l with dirty := 0 }) (.ownerData line cl inc l.data)
    | none => post s (.negativeAcknowledgement line cl inc (writeBackSent s d.owner line || (d.st == .WP && d.gotWb)))

/-- FORWARDED_READ (R88). -/
def execForwardedRead (s : State) : Out :=
  match s.now with
  | some (.forwardedRead line) => .next (forwardedReadAt { s with now := none } line)
  | _ => .next s

/-- The reader that a line's home serves; one whose cluster has been fenced since is answered no more (R97). -/
def servedReader (s : State) (d : DirEnt) : Option (Nat × MemClass) :=
  match d.busy with
  | some (.read core cls inc) => if freshAnswer s (clusterOf core) inc then some (core, cls) else none
  | _ => none

/-- The home answers the reader that it serves. -/
def answerReader (s : State) (d : DirEnt) : State :=
  match servedReader s d with
  | some (core, cls) => giveData s core d.line cls
  | none => s

/-- The line of a forwarded read is stable again (R86), with the owner's cluster among the pointers where it keeps a copy; one that was
forwarded for a thread's access, an engine or a walk is reserved for it. -/
def endForward (s : State) (d : DirEnt) (kept : List Nat) : State :=
  let ptrs := match servedReader s d with
    | some (core, cls) => readerPtrs cls core kept
    | none => kept
  let st : DirState := if ptrs.isEmpty then .I else .S
  match d.busy with
  | some h => if wanted s d.line h then giveTurn s d h st ptrs else settled s d st ptrs
  | none => settled s d st ptrs

/-- The owner's data at the home (R86): in FW the reader is answered and both share the line; in RC the data are merged and the held
write applied, or the line leaves. -/
def ownerDataAt (s : State) (line cl inc : Nat) (data : List Byte) : State :=
  let d := dirOf s line
  if !freshAnswer s cl inc || (d.st.transient && d.inc != inc) then dropStale s line
  else match d.st with
    | .FW => endForward (answerReader (memWrite s line data) d) d [cl]
    | .RC => if d.recalled then lastAnswer (l1Drop (memWrite s line data) d.owner line) { d with pend := 0, due := [] } else s
    | _ => s

/-- OWNER_DATA (R86). -/
def execOwnerData (s : State) : Out :=
  match s.now with
  | some (.ownerData line cl inc data) => .next (ownerDataAt { s with now := none } line cl inc data)
  | _ => .next s

/-- Partition of a die's stack or of a cluster: whose memory or thread a failure meets. -/
def partOfStack (s : State) (st : Nat) : Option Nat := (List.range 20).find? (fun p => pdValid s p && bitAt (pdStacks s p) st)
def partOfDie (s : State) (d : Nat) : Option Nat := (List.range 20).find? (fun p => dieInPart s p d)

/-- The partition whose memory holds a line. -/
def partOfLine (s : State) (line : Nat) : Option Nat :=
  match region (paLocal line) with
  | .hbm st => partOfStack s st
  | .weight d => partOfDie s d
  | .scratch c => (List.range 20).find? (fun p => inPart s p c)
  | _ => none

/-- A line marked poisoned and its partition rolled back (R70). -/
def markPoisoned (s : State) (line : Nat) : State :=
  let s1 : State := { s with mem := { s.mem with poisoned := line :: s.mem.poisoned.filter (fun l => l != line) } }
  match partOfLine s line with
  | some p => postOnce s1 (.rollback p [] [])
  | none => s1

/-- An error of a line that its memory's codes do not correct: an HBM stack counts it (R70). -/
def poisonLine (s : State) (line : Nat) : State :=
  match region (paLocal line) with
  | .hbm st => ctlCount (markPoisoned s line) (cntAddr (0x2108 + 0x10 * st)) 1
  | _ => markPoisoned s line

/-- A negative acknowledgement at the home (R88); one without "write-back sent" is an uncorrectable error. -/
def negativeAckAt (s : State) (line cl inc : Nat) (sent : Bool) : State :=
  let d := dirOf s line
  if !freshAnswer s cl inc || (d.st.transient && d.inc != inc) then dropStale s line
  else if !d.st.transient then s
  else if !sent then poisonLine s line
  else match d.st with
    | .FW => setDir s { d with st := .WP, gotNack := true }
    | .WP => if d.gotWb then endForward s d [] else s
    | _ => s

/-- NEGATIVE_ACKNOWLEDGEMENT (R88). -/
def execNegativeAcknowledgement (s : State) : Out :=
  match s.now with
  | some (.negativeAcknowledgement line cl inc sent) => .next (negativeAckAt { s with now := none } line cl inc sent)
  | _ => .next s

/-- A write-back at the home (R86, R88, R93): an owner's line, or bytes of a G line under their mask. -/
def writeBackAt (s : State) (core line : Nat) (cls : MemClass) (inc mask : Nat) (data : List Byte) : State :=
  let d := dirOf s line
  if !freshAnswer s (clusterOf core) inc then dropStale s line
  else if deadHome s (homeOf line) then s
  else if cls ≠ .D then
    homeWriteOrPost s line ((List.range 64).map (fun i => if bitAt mask i then some (data.getD i 0) else none)) (coreAgent core)
  else if d.owner ≠ core then s
  else match d.st with
    | .O => settled (memWrite s line data) d .I []
    | .FW => setDir (answerReader (memWrite s line data) d) { dirOf s line with st := .WP, gotWb := true }
    | .WP =>
      let s1 := answerReader (memWrite s line data) d
      if d.gotNack then endForward s1 d [] else setDir s1 { d with gotWb := true }
    | .RC => if d.recalled then lastAnswer (memWrite s line data) { d with pend := 0, due := [] } else s
    | _ => s

/-- WRITE_BACK (R86). -/
def execWriteBack (s : State) : Out :=
  match s.now with
  | some (.writeBack core line cls inc mask data) => .next (writeBackAt { s with now := none } core line cls inc mask data)
  | some (.awaitEntry h e) => .next (leaveWaiting { s with now := none } h e)
  | _ => .next s

/-! ### Replacement and recall (R57, R66, R86, R142) -/

/-- An L1 replaces a line that it need not keep (R56, R57, R118). -/
def l1ReplacementAt (s : State) (core line : Nat) : State :=
  match l1Get s core line with
  | none => s
  | some l => if l1Bound s l then s else l1Replace s l

/-- L1_REPLACEMENT (R57). -/
def execL1Replacement (s : State) : Out :=
  match s.now with
  | some (.l1Replacement core line) => .next (l1ReplacementAt { s with now := none } core line)
  | _ => .next s

/-- A recall at the owner (R86): its chunks are tested as by an invalidation, its copy is dropped, its data go to the home; a copy that has
been written back meanwhile has sent them. A fenced cluster answers nothing (R96). -/
def recallAt (s : State) (line : Nat) : State :=
  let d := dirOf s line
  let cl := clusterOf d.owner
  let inc := incOf s cl
  if !d.recalled || s.coh.fencedCl.contains cl then s
  else match testLocal s d.owner [line] none with
    | none => post s (.invalidationRefusal d.owner line 0 (lcOf s d.owner) inc)
    | some s1 =>
      match (l1Get s1 d.owner line).filter (fun l => l.cls == .D) with
      | some l => post (l1Drop s1 d.owner line) (.ownerData line cl inc l.data)
      | none => if writeBackSent s1 d.owner line then s1 else post s1 (.negativeAcknowledgement line cl inc false)

/-- RECALL (R86). -/
def execRecall (s : State) : Out :=
  match s.now with
  | some (.recall line) => .next (recallAt { s with now := none } line)
  | _ => .next s

/-- A line replaced in its slice (R86, R87, R116 item 4): copies are called back and it leaves. While a pinned attempt has touched it, it
stays. -/
def sliceReplacementAt (s : State) (line : Nat) : State :=
  let d := dirOf s line
  if lineBusy s line || (touching s line 0).any (fun t => t.pinned) then s
  else match d.st with
    | .S => if (sharerCores s d).isEmpty then leaveSlice s line else awaitSharers s d .RC .replace .replace
    | .O => awaitOwner s d .RC .replace (.recall line)
    | _ => leaveSlice s line

/-- SLICE_REPLACEMENT (R86). -/
def execSliceReplacement (s : State) : Out :=
  match s.now with
  | some (.sliceReplacement line) => .next (sliceReplacementAt { s with now := none } line)
  | _ => .next s

/-! ### Writes and operations at homes (R86, R115, R116, R120) -/

/-- The memory of another device written there, by an agent of that device or of a third: this package sees the bytes and the line's stamp
(R82, R341, R471). -/
def farWrite (s : State) (pa : Nat) (data : List (Option Byte)) : State :=
  wakeWatchers (setStamp (memWriteMask s pa data) (lineOf pa) (stampOf s (lineOf pa) + 1)) (lineOf pa)

/-- A write reaches its home (R86, R95): performed, or held (R85, R116). -/
def homePerformedWriteAt (s : State) (pa : Nat) (data : List (Option Byte)) (agent inc : Nat) : State :=
  let line := lineOf pa
  if !isLocal s pa then farWrite s pa data
  else if !agentFresh s agent inc then dropWrite s line agent
  else if !sliceRoom s line then post (makeRoom s line) (.homePerformedWrite pa data agent inc)
  else arriveAt s line (.write (lineData pa data) agent inc)

/-- HOME_PERFORMED_WRITE (R86). -/
def execHomePerformedWrite (s : State) : Out :=
  match s.now with
  | some (.homePerformedWrite pa data agent inc) => .next (homePerformedWriteAt { s with now := none } pa data agent inc)
  | some (.awaitEntry h e) => .next (leaveWaiting { s with now := none } h e)
  | _ => .next s

/-- What an operation at a home reads, and the bytes that it writes. -/
def homeOpResult (s : State) (pa : Nat) : HomeOp → List Byte × List (Option Byte)
  | .read n => (homeBytes s pa n, [])
  | .write data => ([], data)
  | .amo w op x =>
    let n := amoBits w / 8
    let old := leNat (homeBytes s pa n)
    (leBytes n old, (leBytes n (amoNew w op old x.toNat)).map some)
  | .cas w c x =>
    let n := amoBits w / 8
    let old := leNat (homeBytes s pa n)
    (leBytes n old, match casNew w c.toNat x.toNat old with | some v => (leBytes n v).map some | none => [])
  | .sync f x =>
    let old := leNat (homeBytes s pa 8)
    let queued := (firstWaiter s (lineOf pa)).isSome
    (leBytes 8 old, match syncLeaves queued old (syncNew f x queued old) with | some v => (leBytes 8 v).map some | none => [])

/-- After a sync operation that has left SYNCWORD = 0 for its waiter's 1, that waiter has the object (R339). -/
def homeOpGrant (s : State) (pa : Nat) (op : HomeOp) (old : List Byte) (s1 : State) : State :=
  match op with
  | .sync f x =>
    let w := firstWaiter s (lineOf pa)
    if (syncNew f x w.isSome (leNat old)).getD (leNat old) = 0 then syncGrant s1 (lineOf pa) w else s1
  | _ => s1

/-- A stable line that no L1 holds in class D. -/
def emptyLine (s : State) (line : Nat) : State :=
  if (dirOf s line).st = .I then s else setDir s { dirOf s line with st := .I, ptrs := [], bc := false }

/-- An operation performed at a home or bank with a stamp. -/
def homeOpAt (s : State) (pa : Nat) (op : HomeOp) (st : Nat) : List Byte × State :=
  let r := homeOpResult s pa op
  if r.2.isEmpty then (r.1, homeOpGrant s pa op r.1 (bumpClock s (homeOf pa) st))
  else match region (paLocal pa) with
    | .scratch _ => (r.1, writeBank s pa r.2 st)
    | _ => (r.1, homeOpGrant s pa op r.1 (homeStore (emptyLine s (lineOf pa)) pa r.2 st))

/-- The access of a killed thread performed at the line that is reserved for it, with stamp max(LC, line stamp) + 1; its result goes nowhere
(R115, R153, R414). -/
def orphanAt (s : State) (pa : Nat) (op : HomeOp) (core uid : Nat) : State :=
  let st := max (lcOf s core) (stampOf s (lineOf pa)) + 1
  endTurn (setLc (homeOpAt s pa op st).2 core st) uid (lineOf pa)

/-- An access of R104 by a core reaches its home (R85, R95, R104, R115). The line is brought to where the thread that waits for it performs
it; that of a thread that has been killed since is performed by the home. -/
def singletonAccessAt (s : State) (pa : Nat) (op : HomeOp) (core uid inc : Nat) : State :=
  let line := lineOf pa
  if !freshAnswer s (clusterOf core) inc then dropStale s line
  else if orphaned s uid && turnOf s uid line then orphanAt s pa op core uid
  else if !sliceRoom s line then post (makeRoom s line) (.singletonAccess pa op core uid inc)
  else if orphaned s uid || waitsFor s uid line then arriveAt s line (.turn uid core pa op inc)
  else s

/-- SINGLETON_ACCESS (R115). -/
def execSingletonAccess (s : State) : Out :=
  match s.now with
  | some (.singletonAccess pa op core uid inc) => .next (singletonAccessAt { s with now := none } pa op core uid inc)
  | _ => .next s

/-- The cluster that has sent a posted write; the device itself has none. -/
def Posted.cluster (p : Posted) : Option Nat := if p.core < 2048 then some (clusterOf p.core) else if p.core < 4096 then none else some (p.core - 4096)

/-- The agent whose leaves a posted write dirties, where it is not a thread's (R37). -/
def Posted.agent (p : Posted) : Nat := if p.core < 4096 then linkClock else engineClock (p.core - 4096)

/-- The reply to a posted write that its device has performed returns the stamp to its sender (R110, R115). -/
def postedReply (s : State) (p : Posted) : State :=
  let st := stampOf s (lineOf p.pa)
  let s1 := bumpClock s linkClock st
  if p.core < 2048 then bumpLc s1 p.core st else setDts (bumpClock s1 p.agent st) p.agent (lineOf p.pa)

/-- A posted write that its device refuses changes nothing. A thread's, or a write-back, is logged with the launch that caused it (R405,
R455). -/
def postedRefused (s : State) (p : Posted) : State :=
  if p.core < 2048 then
    logFault s p.lnum { cause := 7, sub := 7, usub := 0, i0 := BitVec.ofNat 64 p.va, i1 := p.desc, i2 := 0, i3 := 0 } p.pc p.core p.index
  else dropDts s p.agent (lineOf p.pa)

/-- The oldest posted write to a device performed there, once a route is live and the log is acknowledged (R120, R439, R458). One of a dead
incarnation is dropped and counted by a router (R97); a replay partition's is discarded (R442). -/
def postedStorePerformAt (s : State) (dev : Nat) : State :=
  match s.coh.posted.find? (fun p => p.dev = dev) with
  | none => s
  | some p =>
    let s0 : State := { s with coh := { s.coh with posted := s.coh.posted.erase p } }
    if replayPart s p.part then s0
    else if !p.cluster.all (fun cl => freshAnswer s cl p.inc) then
      ctlCount (if p.core < 4096 then s0 else dropDts s0 p.agent (lineOf p.pa)) (cntAddr (0x2000 + 8 * (p.cluster.elim 0 dieOf))) 1
    else if !routeLive s p.part dev || !ackedTo s p.part p.upTo then post s (.postedStorePerform dev)
    else
      let s1 := noteOut s0 p.part (.store p.pa p.data)
      match remoteWrite s1 p.pa p.data (pdJob s p.part) p.lc with
      | some s2 => postedReply s2 p
      | none => postedRefused s1 p

/-- POSTED_STORE_PERFORM (R120). -/
def execPostedStorePerform (s : State) : Out :=
  match s.now with
  | some (.postedStorePerform dev) => .next (postedStorePerformAt { s with now := none } dev)
  | _ => .next s

/-! ### Watches and tickets -/

/-- WATCH_ARRIVAL (R341): the home records the line's stamp. -/
def execWatchArrival (s : State) : Out :=
  match s.now with
  | some (.watchArrival uid line) =>
    .next (if (anyThread s uid).isSome then armWatch { s with now := none } uid line else { s with now := none })
  | _ => .next s

def isMwait : Wait → Bool
  | .mwait _ => true
  | _ => false

/-- The limit of a `mwait` has passed (R342); a halted thread meets it after the release (R420). -/
def mwaitLimitAt (s : State) (uid : Nat) : State :=
  match anyThread s uid with
  | some t => if waitsIn t isMwait then answerThread s uid 0 else s
  | none => s

/-- MWAIT_LIMIT_EXPIRY (R342). -/
def execMwaitLimitExpiry (s : State) : Out :=
  match s.now with
  | some (.mwaitLimitExpiry uid) => .next (mwaitLimitAt { s with now := none } uid)
  | _ => .next s

def isTicket : Wait → Bool
  | .ticket => true
  | _ => false

/-- Whether a partition's tickets are held by a checkpoint (R437 item 2). -/
def ticketsHeld (s : State) (t : Thread) : Bool := s.agenda.contains (.checkpoint t.part)

/-- The sequencer's head request takes the next ticket; it leaves when its operation has been performed, so that tickets are performed in
their order (R126). -/
def sequencerTicketAt (s : State) (uid : Nat) : State :=
  let again (s : State) : State := if s.sys.ticketQueue.contains uid then post s (.sequencerTicket uid) else s
  if s.sys.ticketQueue.head? ≠ some uid then again s
  else match anyThread s uid with
    | none => { s with sys := { s.sys with ticketQueue := s.sys.ticketQueue.tail } }
    | some t =>
      if t.answered.isSome then again s
      else if waitsIn t isTicket then
        if ticketsHeld s t then again s
        else
          let s1 : State := { s with sys := { s.sys with ticket := s.sys.ticket + 1 } }
          again (perfTh (answerThread s1 uid (BitVec.ofNat 64 s.sys.ticket)) t 0x24 1)
      else { s with sys := { s.sys with ticketQueue := s.sys.ticketQueue.tail } }

/-- SEQUENCER_TICKET (R126). -/
def execSequencerTicket (s : State) : Out :=
  match s.now with
  | some (.sequencerTicket uid) => .next (sequencerTicketAt { s with now := none } uid)
  | _ => .next s

/-- Whether a device of the domain is live (R126, R476): this one, or one to which a partition's route is. -/
def deviceLive (s : State) (n : Nat) : Bool :=
  Config.inDomain n && !s.sys.fencedDev.contains n &&
    (n == ownDev s || (List.range 20).any (fun p => pdValid s p && routeLive s p n))

/-- The elected device: the live one with the lowest number (R126). -/
def electedDev (s : State) : Option Nat := (List.range 1024).find? (deviceLive s)

/-- The highest ticket that any home of this device has performed (R127). -/
def performedMost (s : State) : Nat := s.sys.performed.foldl (fun m e => max m e.2) 0

/-- A thread whose ticketed request has not been performed issues it again, under the rollback of its partition (R127). -/
def reissueTicket (s : State) (uid : Nat) : State :=
  match anyThread s uid with
  | none => s
  | some t => if t.answered.isSome then postOnce (updAny s uid (fun t => { t with answer := none })) (.rollback t.part [] []) else s

/-- The elected device has been fenced, and the live device with the next number takes over (R127): tickets go on from 2^32 above the greatest
that a home has performed, here or, as `highest` says, elsewhere in the domain. -/
def sequencerTakeoverAt (s : State) (failed highest : Nat) : State :=
  if electedDev s ≠ some failed then s
  else
    let s1 : State := { s with sys := { s.sys with fencedDev := failed :: s.sys.fencedDev, ticket := max (performedMost s) highest + 2 ^ 32 } }
    s1.sys.ticketQueue.foldl reissueTicket s1

/-- SEQUENCER_TAKEOVER (R127). -/
def execSequencerTakeover (s : State) : Out :=
  match s.now with
  | some (.sequencerTakeover failed highest) => .next (sequencerTakeoverAt { s with now := none } failed highest)
  | _ => .next s

/-! ### Clusters that do not answer (R95-R99) -/

/-- The cores whose answer a line awaits. -/
def awaited (d : DirEnt) : List Nat := if d.st = .FW ∨ d.st = .WP then [d.owner] else if d.st.transient then d.due else []

/-- The message that a home awaits an answer to from a core. -/
def awaitedMessage (d : DirEnt) (core : Nat) : Event :=
  if d.st = .FW ∨ d.st = .WP then .forwardedRead d.line
  else if d.recalled then .recall d.line
  else .invalidation core d.line (match d.busy with
    | some (.commit uid) => .commit uid
    | some .replace => .replace
    | _ => .homeWrite)

/-- Whether the message to a core or its answer is still on its way. -/
def answerUnderWay (s : State) (d : DirEnt) (core : Nat) : Bool :=
  s.agenda.contains (awaitedMessage d core) || writeBackSent s core d.line || s.agenda.any (fun e => match e with
    | .ownerData l cl _ _ => l == d.line && cl == clusterOf core
    | .negativeAcknowledgement l cl _ _ => l == d.line && cl == clusterOf core
    | .invalidationAcknowledgement c l _ _ => l == d.line && c == core
    | .invalidationRefusal c l _ _ _ => l == d.line && c == core
    | _ => false)

/-- After 5 us the home sends its message again with the same incarnation to each that has not answered (R96); one still under way is not
doubled. -/
def answerResendAt (s : State) (line : Nat) : State :=
  let d := dirOf s line
  if !d.st.transient then s
  else postAll (setDir s { d with resent := true }) (((awaited d).filter (fun c => !answerUnderWay s d c)).map (awaitedMessage d))

/-- ANSWER_RESEND (R96). -/
def execAnswerResend (s : State) : Out :=
  match s.now with
  | some (.answerResend line) => .next (answerResendAt { s with now := none } line)
  | _ => .next s

/-- A cluster reported to the recovery controller: it is fenced, and four of a die within 100 us fence the die (R96, R98). -/
def reportCluster (s : State) (cl : Nat) : State :=
  let rs := if s.coh.reports.contains cl then s.coh.reports else cl :: s.coh.reports
  let s1 := postOnce { s with coh := { s.coh with reports := rs } } (.clusterFence cl)
  if 4 ≤ (rs.filter (fun c => dieOf c = dieOf cl)).length then postOnce s1 (.dieFence (dieOf cl)) else s1

/-- After 20 us the home reports the clusters whose answers it awaits (R96); of the reports before, the `expired` oldest lie more than 100 us
back. -/
def clusterReportAt (s : State) (line expired : Nat) : State :=
  let d := dirOf s line
  if !d.st.transient || !d.resent then s
  else
    let s1 : State := { s with coh := { s.coh with reports := s.coh.reports.take (s.coh.reports.length - expired) } }
    (((awaited d).map clusterOf).eraseDups).foldl reportCluster s1

/-- CLUSTER_REPORT (R96). -/
def execClusterReport (s : State) : Out :=
  match s.now with
  | some (.clusterReport line expired) => .next (clusterReportAt { s with now := none } line expired)
  | _ => .next s

/-- A held request of a cluster. -/
def Held.ofCluster (cl : Nat) : Held → Bool
  | .read core _ _ => clusterOf core == cl
  | .write _ a _ => agentCluster a == some cl
  | .wrote a => agentCluster a == some cl
  | .turn _ core _ _ _ => clusterOf core == cl
  | .fetch a _ => agentCluster a == some cl
  | .walk c _ _ _ _ _ _ => c == cl
  | _ => false

/-- Whether a line's home awaits an answer of a cluster, or serves its commit. -/
def awaitsCluster (cl : Nat) (d : DirEnt) : Bool :=
  d.due.any (fun c => clusterOf c == cl) ||
    (d.st == .IA && clusterOf d.owner == cl && (match d.busy with | some (.commit _) => true | _ => false))

/-- A directory entry without a fenced cluster (R96 step 3): the transactions that await it are abandoned and it leaves the pointers, BC
going where they represent every cluster that holds the line; a line owned there is in state I, stale until the rollback. -/
def fenceEntry (s : State) (cl : Nat) (d : DirEnt) : DirEnt :=
  let ptrs := d.ptrs.filter (fun c => c != cl)
  let bc := d.bc && !((s.coh.l1.filter (fun l => l.line = d.line ∧ l.cls = .D)).map (fun l => clusterOf l.core)).all (fun c => c == cl || ptrs.contains c)
  let d' : DirEnt := { d with ptrs := ptrs, bc := bc, before := d.before.filter (fun c => c != cl), queue := d.queue.filter (fun h => !h.ofCluster cl) }
  let idle : DirEnt := { d' with before := [], pend := 0, due := [], busy := none, gotWb := false, gotNack := false, resent := false }
  if clusterOf d.owner == cl && (d.st == .O || d.st == .FW || d.st == .WP || d.recalled) then
    { idle with st := .I, ptrs := [], bc := false, stale := true }
  else if awaitsCluster cl d then { idle with st := if ptrs.isEmpty && !bc then .I else .S }
  else if !d.st.transient && d.busy.any (Held.ofCluster cl) then { d' with busy := none }
  else d'

/-- Steps 1 to 3 of R96 for one cluster. -/
def fenceCl (s : State) (cl : Nat) : State :=
  { s with coh := { s.coh with
      fencedCl := cl :: s.coh.fencedCl.filter (fun c => c != cl)
      inc := Assoc.set s.coh.inc cl ((incOf s cl + 1) % 256)
      l1 := s.coh.l1.filter (fun l => clusterOf l.core != cl)
      dts := s.coh.dts.filter (fun d => d.1 != engineClock cl)
      dir := s.coh.dir.map (fenceEntry s cl) } }

/-- What homes hold for lines that are stable again is served. -/
def serveAll (s : State) : State := (s.coh.dir.map (fun d => d.line)).foldl serveHeld s

/-- A fenced cluster's lines served again, and the rollback of its partition (R96 step 4). -/
def clusterFenceAt (s : State) (cl : Nat) : State :=
  if s.coh.fencedCl.contains cl then s
  else
    let s1 := serveAll (fenceCl s cl)
    match (List.range 20).find? (fun p => inPart s p cl) with
    | some p => postOnce s1 (.rollback p [] [])
    | none => s1

/-- CLUSTER_FENCE (R96). -/
def execClusterFence (s : State) : Out :=
  match s.now with
  | some (.clusterFence cl) => .next (clusterFenceAt { s with now := none } cl)
  | _ => .next s

/-- UCIE_LINK_FAILURE (R98): retraining has not cleared it within 10 us, and the die is fenced. -/
def execUcieLinkFailure (s : State) : Out :=
  match s.now with
  | some (.ucieLinkFailure die) => .next (postOnce { s with now := none } (.dieFence die))
  | _ => .next s

/-- A die is fenced (R98): its clusters are, and its home slices and stacks answer nothing more; the supervisor is notified and each of
its partitions rolls back. -/
def dieFenceAt (s : State) (die : Nat) : State :=
  if s.coh.fencedDie.contains die then s
  else
    let cls := (List.range 64).map (fun i => 64 * die + i)
    let s1 := cls.foldl (fun s c => if s.coh.fencedCl.contains c then s else fenceCl s c) s
    let s2 : State := { s1 with coh := { s1.coh with
      fencedDie := die :: s1.coh.fencedDie
      dir := s1.coh.dir.filter (fun d => homeDie (paLocal d.line) != die) } }
    let parts := (List.range 20).filter (fun p => dieInPart s p die)
    parts.foldl (fun s p => postOnce s (.rollback p [] [])) (giveAnswer (serveAll s2) (.dieFenced die))

/-- DIE_FENCE (R98). -/
def execDieFence (s : State) : Out :=
  match s.now with
  | some (.dieFence die) => .next (dieFenceAt { s with now := none } die)
  | _ => .next s

/-- MESSAGE_AGE_DISCARD (R97): a router discards a message that has been in the network for 1 ms; one of an old incarnation is counted. -/
def messageAgeDiscardAt (s : State) (router pos : Nat) : State :=
  match s.coh.net[pos]? with
  | none => s
  | some m =>
    let s1 : State := { s with coh := { s.coh with net := s.coh.net.eraseIdx pos } }
    if freshAnswer s m.cl m.inc then s1 else ctlCount s1 (cntAddr (0x2000 + 8 * (router % 10))) 1

def execMessageAgeDiscard (s : State) : Out :=
  match s.now with
  | some (.messageAgeDiscard router pos) => .next (messageAgeDiscardAt { s with now := none } router pos)
  | _ => .next s

/-- CLUSTER_READMISSION (R97): the supervisor readmits a fenced cluster of a die that is not fenced; it takes work again. -/
def clusterReadmissionAt (s : State) (cl : Nat) : State :=
  if !s.coh.fencedCl.contains cl || s.coh.fencedDie.contains (dieOf cl) then s
  else
    let s1 : State := { s with coh := { s.coh with
      fencedCl := s.coh.fencedCl.filter (fun c => c != cl), reports := s.coh.reports.filter (fun c => c != cl) } }
    postOnce (offer s1 cl) (.rangeRequest cl)

def execClusterReadmission (s : State) : Out :=
  match s.now with
  | some (.clusterReadmission cl) => .next (clusterReadmissionAt { s with now := none } cl)
  | _ => .next s

/-! ### Memory devices (R70-R75) -/

/-- A line scrubbed (R70, R71): a corrected error is counted where it stood, an uncorrectable one poisons the line. -/
def hbmScrubAt (s : State) (line : Nat) (found : ScrubResult) : State :=
  match found with
  | .clean => s
  | .corrected =>
    (match region (paLocal line) with
      | .hbm st => ctlCount s (cntAddr (0x2100 + 0x10 * st)) 1
      | .weight d => ctlCount s (cntAddr (0x2200 + 8 * d)) 1
      | .scratch c => ctlCount s (cntAddr (0x2300 + 8 * dieOf c)) 1
      | _ => s)
  | .uncorrectable => poisonLine s line
  | .l2Corrected => ctlCount s (cntAddr (0x2300 + 8 * homeDie (paLocal line))) 1
  | .l2Uncorrectable => markPoisoned s line

/-- HBM_SCRUB (R70). -/
def execHbmScrub (s : State) : Out :=
  match s.now with
  | some (.hbmScrub line found) => .next (hbmScrubAt { s with now := none } line found)
  | _ => .next s

/-- HBM_REFRESH (R71): invisible to programs. -/
def execHbmRefresh (s : State) : Out :=
  match s.now with
  | some (.hbmRefresh _) => .next { s with now := none }
  | _ => .next s

/-- Whether the window of a bank may open: none of its die is open, and its turn has come in the die's epoch, banks 0 to 63 round and round
(R74). -/
def mayOpen (s : State) (die bank : Nat) : Bool :=
  decide (die < 8 ∧ bank < 64) && !s.sys.wsOpen.any (fun e => e.1 == die) &&
    (match Assoc.get s.sys.wsLast die with
      | some b => bank == (b + 1) % 64
      | none => true)

/-- WEIGHT_STORE_WINDOW_OPEN (R74). -/
def execWeightStoreWindowOpen (s : State) : Out :=
  match s.now with
  | some (.weightStoreWindowOpen die bank) =>
    .next (if mayOpen s die bank then
        { s with now := none, sys := { s.sys with wsOpen := (die, bank) :: s.sys.wsOpen, wsLast := Assoc.set s.sys.wsLast die bank } }
      else { s with now := none })
  | _ => .next s

/-- WEIGHT_STORE_WINDOW_CLOSE (R75). -/
def execWeightStoreWindowClose (s : State) : Out :=
  match s.now with
  | some (.weightStoreWindowClose die bank) =>
    .next { s with now := none, sys := { s.sys with wsOpen := s.sys.wsOpen.filter (fun e => e != (die, bank)) } }
  | _ => .next s

/-! ### Walks -/

/-- The root of a context tag's page tables, as its threads or its descriptor have it (R25, R454). -/
def rootOf (s : State) (part tag : Nat) : Nat :=
  match (threads s).find? (fun t => t.status ≠ .vacant ∧ t.part = part ∧ ctxOf t = tag) with
  | some t => t.xlctx.bits 51 13 * 2 ^ 13
  | none => (cdXlctx s tag).bits 51 13 * 2 ^ 13

/-- For whom a walk of a cluster is made: the core that translates, or the core of an engine's command (R40). -/
def whoWalks (s : State) (p cl : Nat) (core : Option Nat) (ctx : Nat) (user : Bool) : Who :=
  { core := core.filter (fun c => c < 4096), by_ := (core.filter (fun c => 4096 ≤ c)).map (fun c => c - 4096), cl := cl, part := p, ctx := ctx,
    root := rootOf s p ctx, user := user, vf := cdVf s ctx }

/-- PAGE_WALK (R50): a walk for a cluster and context installs the translation that it reaches, or finds a fault, which the access that
needs it raises. One of a dead incarnation is dropped (R97); a line that was reserved for it is free. -/
def pageWalkAt (s : State) (cl : Nat) (core : Option Nat) (ctx va : Nat) (kind : AccKind) (user : Bool) (inc : Nat) : State :=
  freeReserved (if !freshAnswer s cl inc then ctlCount s (cntAddr (0x2000 + 8 * dieOf cl)) 1
    else match (List.range 20).find? (fun p => inPart s p cl) with
      | none => s
      | some p => (xlateAs s (whoWalks s p cl core ctx user) va false kind).2) (Held.isWalk cl ctx va)

def execPageWalk (s : State) : Out :=
  match s.now with
  | some (.pageWalk cl core ctx va kind user inc) => .next (pageWalkAt { s with now := none } cl core ctx va kind user inc)
  | some (.awaitEntry h e) => .next (leaveWaiting { s with now := none } h e)
  | _ => .next s

end Sys2Proof.Machine
end

