-- ==== Sys2Proof/Machine/Sched.lean ====
section
/-! DEFINITION. Sched.lean: the steps of the queue scanner, the distributors and the clusters' schedulers: launches, ranges, stealing,
admission, eviction, waking, switching and completion (R77-R79, R186-R214, R390, R409, R450, R453). -/

namespace Sys2Proof.Machine

/-! ### Reads by the device (R188, R453) -/

/-- Bytes of a launch's or queue's context read through a translation: the line takes the context's tag (R65); those of another device are
asked for there, over a live route (R455, R458). -/
def deviceFetch (s : State) (w : Who) (x : Xl) (n : Nat) : Except XErr (List Byte × State) :=
  match x.tgt with
  | .control => .error (.fault 0x07 0 x.leafPa)
  | .win _ => .ok (cellsRead s.mem.cells x.pa n, s)
  | .mem _ =>
    if isLocal s x.pa then .ok (homeBytes s x.pa n, retag s (lineOf x.pa) w.ctx)
    else if !routeLive s w.part (paDev x.pa) then .error (.hold (.route (paDev x.pa)))
    else if Config.remoteGrants x.pa (pdJob s w.part) then
      .ok (cellsRead s.mem.cells x.pa n, fabricCount (ctlCount s (vfAddr w.vf 0x110) 1) w.part w.vf n 0)
    else .error (.fault 0x07 0 x.leafPa)

/-- The bytes at a VA of a launch's or queue's context, within one page; the fault or the hold where they cannot be read. -/
def deviceRead (s : State) (w : Who) (va n : Nat) : Except XErr (List Byte × State) :=
  match xlateAs s w va false .read with
  | (.error e, _) => .error e
  | (.ok x, s1) => deviceFetch s1 w x n

/-- Pieces of `n` bytes read one after another. -/
def deviceReads (w : Who) (n : Nat) : List Nat → State → Except XErr (List Byte × State)
  | [], s => .ok ([], s)
  | va :: vas, s => do
    let a ← deviceRead s w va n
    let b ← deviceReads w n vas a.2
    pure (a.1 ++ b.1, b.2)

/-- Whether a VA translates for a kind of access. -/
def deviceProbe (s : State) (w : Who) (va : Nat) (kind : AccKind) : Except XErr State :=
  match xlateAs s w va false kind with
  | (.error e, _) => .error e
  | (.ok _, s1) => .ok s1

/-- Who the scanner and the master translate as for a queue: its context, in user mode (R188). -/
def whoQueue (s : State) (q : Nat) : Who := whoLaunch s (cdPart s (qtCtx s q)) (qtCtx s q) (qtVf s q)

/-! ### The queue scanner (R187, R453) -/

/-- The scanner begins or ends the read of a queue's next record (R452). -/
def setReading (s : State) (q : Nat) (b : Bool) : State := if (qsOf s q).reading = b then s else setQs s { qsOf s q with reading := b }

/-- An overrun or a faulting tail or slot stops a queue. -/
def stopQueue (s : State) (q : Nat) : State := vfInterrupt (ctlPut (setReading s q false) (qtAddr q 0) 0 0 0) (qtVf s q) 4

/-- Whether a queue is scanned: enabled, its context valid, its partition in run state (R448, R452). -/
def scanned (s : State) (q : Nat) : Bool :=
  qtEn s q && cdValid s (qtCtx s q) && pdValid s (cdPart s (qtCtx s q)) && pdState s (cdPart s (qtCtx s q)) == 1

/-- The records between a queue's head and its tail, with the scanner's monitor on the tail's line; none on a fault. -/
def tailDiff (s : State) (q : Nat) : Except XErr (Nat × State) :=
  match xlateAs s (whoQueue s q) (qtTail s q) false .read, deviceRead s (whoQueue s q) (qtTail s q) 8 with
  | (.ok x, _), .ok (b, s1) =>
    .ok ((leNat b + 2 ^ 64 - (qsOf s q).head % 2 ^ 64) % 2 ^ 64, setQs s1 { qsOf s1 q with tailPa := some x.pa })
  | (.error e, _), _ => .error e
  | _, .error e => .error e

/-- A change of a tail, or a queue that starts to be scanned. -/
def queueTailChangeAt (s : State) (q : Nat) : State :=
  if !scanned s q then s
  else if statusDue s q then post s (.queueTailChange q)
  else match tailDiff s q with
    | .error (.hold _) => post s (.queueTailChange q)
    | .error _ => stopQueue s q
    | .ok (n, s1) =>
      if n = 0 then s1 else if 2 ^ qtLogn s1 q < n then stopQueue s1 q else postOnce s1 (.launchRecordTake q)

/-- QUEUE_TAIL_CHANGE (R187). -/
def execQueueTailChange (s : State) : Out :=
  match s.now with
  | some (.queueTailChange q) => .next (queueTailChangeAt { s with now := none } q)
  | _ => .next s

/-! ### The choice of the queue served next (R194) -/

/-- The number of the scanner among the servers, and of a die's distributor as it serves a partition, whose launches alone its clusters
take. -/
def scannerNo : Nat := 0
def distributorNo (p d : Nat) : Nat := 16 * (p + 1) + d

/-- A queue's priority level now. -/
def levelOf (s : State) (q : Nat) : Nat :=
  min 3 (qtPrio s q + (if (qsOf s q).raised || (qsOf s q).raisedFor.isSome then 1 else 0))

/-- The queue after one in ring order. -/
def ringNext (last : Nat) (qs : List Nat) : Option Nat :=
  let up := sortBy id (qs.filter (fun q => decide (last < q)))
  (up ++ sortBy id qs).head?

def deficitOf (s : State) (server q : Nat) : Nat := Assoc.getD s.wk.deficits (server, q) 0

/-- The queue that a server serves next among those with work: of the highest level, by deficit round robin; every round's weight × 256
covers any cost. -/
def chooseQueue (s : State) (server : Nat) (qs : List Nat) (cost : Nat → Nat) : Option Nat :=
  let top := qs.foldl (fun m q => max m (levelOf s q)) 0
  let cand := qs.filter (fun q => levelOf s q = top)
  let last := Assoc.get s.wk.rr server
  match last with
  | some l => if cand.contains l && decide (cost l ≤ deficitOf s server l) then some l else ringNext l cand
  | none => (sortBy id cand).head?

/-- The queue served: its deficit pays, and a queue left without work keeps none. -/
def served (s : State) (server : Nat) (qs : List Nat) (q cost : Nat) : State :=
  let stay := decide (Assoc.get s.wk.rr server = some q) && decide (cost ≤ deficitOf s server q)
  let d := deficitOf s server q + (if stay then 0 else qtWeight s q * 256) - cost
  let kept := s.wk.deficits.filter (fun e => e.1.1 != server || (qs.contains e.1.2 && e.1.2 != q))
  { s with wk := { s.wk with rr := Assoc.set s.wk.rr server q, deficits := ((server, q), d) :: kept } }

/-- A record has been taken, or a range of a launch handed out: a level raised for it ends (R194). -/
def endRaised (s : State) (q : Nat) : State := setQs s { qsOf s q with raised := false }
def endRaisedFor (s : State) (q lnum : Nat) : State :=
  if (qsOf s q).raisedFor = some lnum then setQs s { qsOf s q with raisedFor := none } else s

/-! ### Acceptance (R188-R190, R192, R204) -/

/-- Set bits of a bitmap of `n` bits, as a list. -/
def bitmapOf (bytes : List Byte) (n : Nat) : List Bool :=
  (List.range n).map (fun j => ((bytes.getD (j / 8) 0).toNat / 2 ^ (j % 8)) % 2 == 1)

/-- A group rule read (R204): the group, none where the rule refuses the launch. -/
def readGroup (w : Who) (ibase icount rule : Nat) (s : State) : Except XErr (Option Group × State) :=
  let kind := bits rule 1 0
  let count := bits rule 95 64
  let stride := bits rule 143 96
  let base := bits rule 191 144
  let bmap := bits rule 255 192
  let inside (i : Nat) : Bool := decide (ibase ≤ i) && decide (i < ibase + icount)
  if bits rule 63 2 ≠ 0 ∨ 2 ≤ kind ∨ count = 0 then .ok (none, s)
  else if kind = 0 then
    if bmap ≠ 0 ∨ stride = 0 ∨ !inside base ∨ !inside (base + (count - 1) * stride) then .ok (none, s)
    else .ok (some { kind := 0, base := base, stride := stride, count := count, bitmap := [], phase := 0, arrived := 0 }, s)
  else if stride ≠ 0 ∨ 65536 < count ∨ bmap % 8 ≠ 0 then .ok (none, s)
  else
    match deviceReads w 8 ((List.range ((count + 63) / 64)).map (fun i => bmap + 8 * i)) s with
    | .error (.hold h) => .error (.hold h)
    | .error _ => .ok (none, s)
    | .ok (bytes, s1) =>
      let bm := bitmapOf bytes count
      if !bm.any id || !(bm.zipIdx.all (fun e => !e.1 || inside (base + e.2))) then .ok (none, s1)
      else .ok (some { kind := 1, base := base, stride := 0, count := count, bitmap := bm, phase := 0, arrived := 0 }, s1)

/-- The rules of a launch in order; none at the first that refuses it. -/
def readGroups (w : Who) (ibase icount : Nat) : List Nat → State → Except XErr (Option (List Group) × State)
  | [], s => .ok (some [], s)
  | r :: rs, s => do
    let g ← readGroup w ibase icount r s
    match g.1 with
    | none => pure (none, g.2)
    | some x =>
      let t ← readGroups w ibase icount rs g.2
      pure (t.1.map (fun xs => x :: xs), t.2)

/-- What a record's checks give: its STATUS and, where accepted, its groups (R189). -/
abbrev Checked := Nat × List Group × State

/-- Malformed without a translation (R189, 0x04). -/
def malformed (r : Nat) : Bool :=
  let ngrp := bits r 79 71
  bits r 87 80 != 0 || bits r 50 32 != 0 || bits r 143 96 == 0 || decide (2 ^ 48 < bits r 191 144 + bits r 143 96) || decide (256 < ngrp) ||
    bits r 255 192 % 4 != 0 || (ngrp != 0 && bits r 319 256 % 32 != 0) || bits r 447 384 % 128 != 0

/-- The translations of KPC, CBLK and the group rules, then the rules (R188, R189). -/
def checkTranslated (w : Who) (r : Nat) (s : State) : Except XErr Checked := do
  let s1 ← deviceProbe s w (bits r 255 192) .exec
  let s2 ← if bits r 447 384 = 0 then pure s1 else deviceProbe s1 w (bits r 447 384) .write
  let g ← deviceReads w 32 ((List.range (bits r 79 71)).map (fun i => bits r 319 256 + 32 * i)) s2
  let rules := (List.range (bits r 79 71)).map (fun i => leNat ((g.1.drop (32 * i)).take 32))
  match readGroups w (bits r 191 144) (bits r 143 96) rules g.2 with
  | .error e => throw e
  | .ok (none, s3) => pure (5, [], s3)
  | .ok (some gs, s3) => pure (1, gs, s3)

/-- The checks of R189 in table order; a hold makes the record wait. -/
def checkRecord (s : State) (w : Who) (r : Nat) : Except Wait Checked :=
  if 44 < bits r 63 58 ∨ bits r 63 58 < bits r 57 52 then .ok (2, [], s)
  else if 96 < bits r 70 64 then .ok (3, [], s)
  else if malformed r then .ok (4, [], s)
  else match checkTranslated w r s with
    | .ok c => .ok c
    | .error (.hold h) => .error h
    | .error (.fault ..) => .ok (4, [], s)

/-- Clusters of a partition on a die that are not fenced. -/
def clustersOn (s : State) (p d : Nat) : Nat :=
  ((List.range 64).filter (fun i => inPart s p (64 * d + i) && !s.coh.fencedCl.contains (64 * d + i))).length

/-- Ranges that each die of a partition receives of `n` (R192). -/
def dieShares (s : State) (p n : Nat) : List (Nat × Nat) :=
  let ms := ((List.range 8).map (fun d => (d, clustersOn s p d))).filter (fun e => e.2 ≠ 0)
  let m := ms.foldl (fun a e => a + e.2) 0
  let first := ms.map (fun e => (e.1, n * e.2 / m))
  let left := n - first.foldl (fun a e => a + e.2) 0
  let extra := ((sortBy (fun e => 64 - e.2) ms).take left).map (fun e => e.1)
  first.map (fun e => (e.1, e.2 + (if extra.contains e.1 then 1 else 0)))

/-- An index range divided among the dies, in die order (notes/assumptions/14.md). -/
def divide (lnum : Nat) : List (Nat × Nat) → Nat → Nat → List Range
  | [], _, _ => []
  | (d, k) :: ds, first, left =>
    let n := min (256 * k) left
    if n = 0 then divide lnum ds first left
    else { place := d, lnum := lnum, first := first, count := n } :: divide lnum ds (first + n) (left - n)

/-- A free number of the launch table: the lowest; a partition's share of the table (R192) is the whole of it (DESIGN CHOICE,
notes/assumptions/32.md). -/
def freeLnum (s : State) : Option Nat := (List.range 4096).find? (fun n => (launchOf s n).isNone)

/-- A launch accepted (R190, R192): sequence number, table entry, groups, shares; the clusters ask for ranges. A function that waits for
its slice has the slice's end due (R450). -/
def acceptLaunch (s : State) (q r lnum : Nat) (gs : List Group) : State :=
  let p := cdPart s (qtCtx s q)
  let n := Assoc.getD s.wk.seqs p 0
  let l : Launch :=
    { lnum := lnum, part := p, ctx := qtCtx s q, vf := qtVf s q, queue := q, record := r, seqno := n, groups := gs, recipes := [], faults := none,
      block := none }
  let shares := divide lnum (dieShares s p ((bits r 143 96 + 255) / 256)) (bits r 191 144) (bits r 143 96)
  let s1 : State := { s with wk := { s.wk with
    launches := s.wk.launches ++ [l], shares := s.wk.shares ++ shares, seqs := Assoc.set s.wk.seqs p ((n + 1) % 2 ^ 32) } }
  let s2 := match Assoc.get s1.sys.curVf p with
    | none => { s1 with sys := { s1.sys with curVf := Assoc.set s1.sys.curVf p l.vf } }
    | some v => if v = l.vf then s1 else postOnce s1 (.vfSliceEnd p)
  (clustersOf s2 p).foldl (fun s c => postOnce s (.rangeRequest c)) s2

/-- A record's STATUS written at its place and HEAD advanced (R189, R453); a refusal is reported (R451). -/
def takeRecord (s : State) (q : Nat) (x : Xl) (r lnum : Nat) (c : Nat × List Group) : State :=
  let e := qsOf s q
  let s1 := deviceWrite s (whoQueue s q) lnum x [BitVec.ofNat 8 c.1]
  let s2 := ctlPut (setQs s1 { e with head := (e.head + 1) % 2 ^ 64, statusPa := some x.pa, reading := false }) (qtAddr q 5) 63 32
    ((e.head + 1) % 2 ^ 32)
  let s3 := if c.1 = 1 then acceptLaunch s2 q r lnum c.2 else vfInterrupt s2 (qtVf s q) 4
  logOutside (postOnce (endRaised s3 q) (.queueTailChange q)) (cdPart s (qtCtx s q)) 3 0 [BitVec.ofNat 64 q]

/-- Whether a queue has a record to take. -/
def hasRecord (s : State) (q : Nat) : Bool :=
  scanned s q && (match tailDiff s q with
    | .ok (n, _) => decide (n ≠ 0) && decide (n ≤ 2 ^ qtLogn s q)
    | .error _ => false)

/-- Queues with a record to take, among those whose tail or next record the scanner has still to look at. -/
def takeable (s : State) (q : Nat) : List Nat :=
  q :: ((s.agenda.filterMap (fun e => match e with
    | .launchRecordTake x => some x
    | .queueTailChange x => some x
    | _ => none)).eraseDups).filter (fun x => x != q && hasRecord s x)

/-- The scanner takes a queue's next record, once it has written STATUS in the one before (R187), if it is the queue served next (in replay,
if the log has its take next) and the launch table has room; else the step comes again. R194 prices only an accepted record: a refused one
costs its queue as much (notes/assumptions/74.md). -/
def launchRecordTakeAt (s : State) (q : Nat) : State :=
  if !scanned s q then setReading s q false
  else if statusDue s q then post s (.launchRecordTake q)
  else match tailDiff s q, freeLnum s with
    | .error (.hold _), _ => post s (.launchRecordTake q)
    | .error _, _ => stopQueue s q
    | .ok _, none => post s (.launchRecordTake q)
    | .ok (n, s1), some lnum =>
      if n = 0 then s1
      else if 2 ^ qtLogn s1 q < n then stopQueue s1 q
      else if !inputTurn s1 (cdPart s1 (qtCtx s1 q)) 3 q then post s1 (.launchRecordTake q)
      else if (replayOf s1 (cdPart s1 (qtCtx s1 q))).isNone ∧ chooseQueue s1 scannerNo (takeable s1 q) (fun _ => 256) ≠ some q then
        post s1 (.launchRecordTake q)
      else
        let va := qtBase s1 q + 64 * ((qsOf s1 q).head % 2 ^ qtLogn s1 q)
        let again (s : State) : State := post (setReading s q true) (.launchRecordTake q)
        match deviceRead s1 (whoQueue s1 q) va 64 with
        | .error (.hold _) => again s1
        | .error _ => stopQueue s1 q
        | .ok (b, s2) =>
          match checkRecord s2 (whoQueue s2 q) (leNat b) with
          | .error _ => again s2
          | .ok c =>
            -- the place of STATUS translates for the scanner's write as well (R453)
            match writeXlate c.2.2 (whoQueue s2 q) (va + 11) with
            | (.error (.hold _), s3) => again s3
            | (.error _, s3) => stopQueue s3 q
            | (.ok x, s3) => takeRecord (served s3 scannerNo (takeable s2 q) q 256) q x (leNat b) lnum (c.1, c.2.1)

/-- LAUNCH_RECORD_TAKE (R189). -/
def execLaunchRecordTake (s : State) : Out :=
  match s.now with
  | some (.launchRecordTake q) => .next (launchRecordTakeAt { s with now := none } q)
  | _ => .next s

/-! ### Ranges (R192-R194) -/

/-- The shares of a partition's launches at a die whose function has its slice. -/
def sharesAt (s : State) (p d : Nat) : List (Launch × Range) :=
  (s.wk.shares.filter (fun g => g.place = d)).filterMap (fun g => match launchOf s g.lnum with
    | some l => if l.part = p ∧ vfTurn s l.part l.vf then some (l, g) else none
    | none => none)

/-- The share that a queue's oldest launch has at a die, first index first. -/
def oldestShare (sh : List (Launch × Range)) (q : Nat) : Option (Launch × Range) :=
  (sortBy (fun e => e.1.seqno * 2 ^ 48 + e.2.first) (sh.filter (fun e => e.1.queue = q))).head?

/-- A share without its first indices. -/
def dropFirst (s : State) (g : Range) (n : Nat) : State :=
  { s with wk := { s.wk with shares := s.wk.shares.flatMap (fun x =>
      if x = g then (if x.count ≤ n then [] else [{ x with first := x.first + n, count := x.count - n }]) else [x]) } }

/-- The distributor of a die hands a range to a cluster (R193, R194). -/
def handOut (s : State) (p cl : Nat) : Option State :=
  let d := dieOf cl
  let sh := sharesAt s p d
  let qs := (sh.map (fun e => e.1.queue)).eraseDups
  let cost (q : Nat) : Nat := ((oldestShare sh q).map (fun e => min 256 e.2.count)).getD 0
  match chooseQueue s (distributorNo p d) qs cost with
  | none => none
  | some q =>
    match oldestShare sh q with
    | none => none
    | some (l, g) =>
      let n := min 256 g.count
      let s1 := endRaisedFor (served (dropFirst s g n) (distributorNo p d) qs q n) q l.lnum
      some (updClWork s1 cl (fun w => { w with ranges := w.ranges ++ [{ place := cl, lnum := l.lnum, first := g.first, count := n }] }))

/-- Clusters that a thief probes, in ring order (R200). -/
def probeRing (s : State) (p thief : Nat) : List Nat :=
  let own := (List.range 63).map (fun i => dieOf thief * 64 + (thief % 64 + 1 + i) % 64)
  let others := (List.range 7).flatMap (fun k => (List.range 64).map (fun i => (dieOf thief + 1 + k) % 8 * 64 + (thief % 64 + i) % 64))
  (own ++ others).filter (inPart s p)

/-- The partition of a cluster. -/
def partOfCl (s : State) (cl : Nat) : Option Nat := (List.range 20).find? (fun p => inPart s p cl)

/-- A cluster asks its distributor for a range (R193, R198): where its die has none the master rebalances, and where the partition has
none an idle cluster steals (R200). -/
def rangeRequestAt (s : State) (cl : Nat) : State :=
  match partOfCl s cl with
  | none => s
  | some p =>
    if !admitting s cl then s
    else if 2 ≤ (clWork s cl).ranges.length then offer s cl
    else match handOut s p cl with
      | some s1 => offer (postOnce s1 (.rangeRequest cl)) cl
      | none =>
        if (List.range 8).any (fun d => d != dieOf cl && !(sharesAt s p d).isEmpty) then
          postOnce (postOnce s (.shareRebalance (dieOf cl))) (.rangeRequest cl)
        else if idle s cl then
          (match (probeRing s p cl).head? with
            | some v => postOnce s (.stealProbe cl v)
            | none => s)
        else offer s cl

/-- RANGE_REQUEST (R193). -/
def execRangeRequest (s : State) : Out :=
  match s.now with
  | some (.rangeRequest cl) => .next (rangeRequestAt { s with now := none } cl)
  | _ => .next s

/-- Ranges of 256 in a share. -/
def Range.units (g : Range) : Nat := (g.count + 255) / 256

/-- The last `k` ranges of some shares, the shares given last first: what stays and what moves to a die. -/
def moveUpper (to_ : Nat) : List Range → Nat → List Range
  | [], _ => []
  | g :: gs, k =>
    if k = 0 then g :: gs
    else if g.units ≤ k then { g with place := to_ } :: moveUpper to_ gs (k - g.units)
    else
      let stay := 256 * (g.units - k)
      { g with count := stay } :: { g with place := to_, first := g.first + stay, count := g.count - stay } :: gs

/-- For one partition, half of the unhandled ranges of the distributor that holds the most move to a die without any (R193). -/
def rebalancePart (d : Nat) (s : State) (p : Nat) : State :=
  let held (x : Nat) : Nat := (sharesAt s p x).foldl (fun a e => a + e.2.units) 0
  let most := (List.range 8).foldl (fun m x => max m (held x)) 0
  if held d ≠ 0 ∨ most = 0 then s
  else match (List.range 8).find? (fun x => held x = most) with
    | none => s
    | some g =>
      let mine := (sharesAt s p g).map (fun e => e.2)
      let moved := (moveUpper d mine.reverse ((most + 1) / 2)).reverse
      { s with wk := { s.wk with shares := s.wk.shares.filter (fun x => !mine.contains x) ++ moved } }

/-- SHARE_REBALANCE (R193). -/
def execShareRebalance (s : State) : Out :=
  match s.now with
  | some (.shareRebalance d) =>
    .next (((List.range 20).filter (fun p => dieInPart s p d)).foldl (rebalancePart d) { s with now := none })
  | _ => .next s

/-- The oldest launch of a queue with unhandled ranges. -/
def oldestLaunch (s : State) (q : Nat) : Option Launch :=
  (sortBy (fun l => l.seqno) (s.wk.launches.filter (fun l => l.queue = q ∧ s.wk.shares.any (fun g => g.lnum == l.lnum)))).head?

/-- A queue whose oldest untaken record, or whose oldest launch with unhandled ranges, has waited 10 ms is raised one level until that is
served (R194). -/
def priorityAgingAt (s : State) (q : Nat) (launch : Bool) : State :=
  if launch then
    (match oldestLaunch s q with
      | some l => setQs s { qsOf s q with raisedFor := some l.lnum }
      | none => s)
  else if hasRecord s q then setQs s { qsOf s q with raised := true } else s

/-- PRIORITY_AGING (R194). -/
def execPriorityAging (s : State) : Out :=
  match s.now with
  | some (.priorityAging q launch) => .next (priorityAgingAt { s with now := none } q launch)
  | _ => .next s

/-! ### Stealing (R200) -/

/-- Whether a cluster may host a record's context (R201). -/
def mayHost (s : State) (cl : Nat) (r : Rec) : Bool :=
  match recNeeds s r with
  | some (_, ctx, scrg) => (provide s cl ctx scrg).isSome
  | none => false

/-- What a victim gives a thief: unbound records from the bottom, or the upper half of a range. -/
def steal (s : State) (thief victim : Nat) : Option State :=
  let w := clWork s victim
  let free := w.deque.filter (fun r => !r.bound && mayHost s thief r)
  if !free.isEmpty then
    let got := free.drop (free.length - (free.length + 1) / 2)
    let s1 := updClWork s victim (fun w => { w with deque := w.deque.filter (fun r => !got.contains r) })
    some (updClWork s1 thief (fun w => { w with deque := w.deque ++ got }))
  else if !w.deque.isEmpty then none
  else match w.ranges.find? (fun g => decide (2 ≤ g.count) && (launchOf s g.lnum).any (fun l => mayHost s thief (rangeRec l g))) with
    | none => none
    | some g =>
      let stay := g.count - g.count / 2
      let s1 := updClWork s victim (fun w => { w with ranges := w.ranges.map (fun x => if x = g then { g with count := stay } else x) })
      some (updClWork s1 thief (fun w =>
        { w with ranges := w.ranges ++ [{ g with place := thief, first := g.first + stay, count := g.count / 2 }] }))

/-- A probe of a victim; one that gives nothing goes on to the next cluster of the ring. -/
def stealProbeAt (s : State) (thief victim : Nat) : State :=
  match partOfCl s thief with
  | none => s
  | some p =>
    if !idle s thief || !admitting s thief then s
    else
      let out := if clusterHalted s victim || s.coh.fencedCl.contains victim || !inPart s p victim then none else steal s thief victim
      match out with
      | some s1 => offer s1 thief
      | none =>
        match ((probeRing s p thief).dropWhile (fun c => c != victim)).drop 1 with
        | [] => s
        | v :: _ => postOnce s (.stealProbe thief v)

/-- STEAL_PROBE (R200). -/
def execStealProbe (s : State) : Out :=
  match s.now with
  | some (.stealProbe thief victim) => .next (stealProbeAt { s with now := none } thief victim)
  | _ => .next s

/-! ### Admission (R198-R203) -/

/-- The records that a cluster would take next: its resume list, the deque's top, the range's next index. -/
def waitingRecs (s : State) (cl : Nat) : List Rec :=
  let w := clWork s cl
  (w.resume ++ (w.deque.find? (recTurn s)).toList ++ ((firstRange s cl).map (fun e => rangeRec e.1 e.2)).toList).filter (recTurn s)

/-- A record that has a slot and pool entries and lacks granules (R203). -/
def lacksGranules (s : State) (cl : Nat) (r : Rec) : Bool :=
  match recNeeds s r with
  | none => false
  | some (regs, ctx, scrg) =>
    (coresFor cl r).any (fun c => (freeSlot s c).isSome && decide (poolUsed s c + regs ≤ 6144)) && (provide s cl ctx scrg).isNone

/-- A free slot takes work (R198); work that waits for granules or slots is looked at, and a cluster without any asks (R193). -/
def recordAdmissionAt (s : State) (core slot : Nat) : State :=
  let cl := clusterOf core
  if (onCore s core).any (fun t => t.slot = slot) || !admitting s cl then s
  else match admitOne s core slot with
    | some s1 => offer s1 cl
    | none =>
      let s1 := if (clWork s cl).ranges.length < 2 && (idle s cl) then postOnce s (.rangeRequest cl) else s
      if (waitingRecs s cl).any (lacksGranules s cl) then postOnce s1 (.granulePlacementEviction cl) else s1

/-- RECORD_ADMISSION (R201, R202). -/
def execRecordAdmission (s : State) : Out :=
  match s.now with
  | some (.recordAdmission core slot) => .next (recordAdmissionAt { s with now := none } core slot)
  | _ => .next s

/-- Threads marked for eviction, their evictions due (R214). -/
def markAll (s : State) (ts : List Thread) : State :=
  ts.foldl (fun s t => postOnce (updThread s t.uid (fun t => { t with marked := true })) (.threadEviction t.uid)) s

/-- Threads to be evicted at their next pre-emption points (R203). -/
def leaveAll (s : State) (ts : List Thread) : State :=
  ts.foldl (fun s t => postOnce (updThread s t.uid (fun t => { t with leave := true })) (.threadEviction t.uid)) s

/-- After 100 us without granules, every thread of the context whose earliest resident thread was admitted longest ago is evicted at its
next pre-emption point (R203). -/
def granulePlacementAt (s : State) (cl : Nat) : State :=
  if !(waitingRecs s cl).any (lacksGranules s cl) || clusterHalted s cl then s
  else match (sortBy (fun t => t.since) (threadsOf s cl)).head? with
    | none => s
    | some t => leaveAll s ((threadsOf s cl).filter (fun u => ctxOf u = ctxOf t))

/-- GRANULE_PLACEMENT_EVICTION (R203). -/
def execGranulePlacementEviction (s : State) : Out :=
  match s.now with
  | some (.granulePlacementEviction cl) => .next (granulePlacementAt { s with now := none } cl)
  | _ => .next s

/-- Whether an access waits for a granule (R79). -/
def granuleAwaited (s : State) (a : Alloc) (off : Nat) : Bool :=
  a.asked.contains off || (threads s ++ s.wk.saved).any (fun t => t.status == .waiting (.granule a.cl a.ctx off))

/-- Whether a due granule is the one restored next (R79): an awaited one, or else the lowest. -/
def restoreNext (s : State) (a : Alloc) (off : Nat) : Bool :=
  granuleAwaited s a off || a.due.all (fun e => decide (off ≤ e.1) && !granuleAwaited s a e.1)

/-- A due restore completes (R79): the granule's 16 KiB come from the save area, and its lines take the greatest stamp of the cluster (R475).
Another goes first where an access waits for it; nothing is written while the context is switched out (R80). -/
def granuleRestoreAt (s : State) (cl ctx off : Nat) : State :=
  match allocOf s cl ctx with
  | none => s
  | some a =>
    match Assoc.get a.due off with
    | none => s
    | some g =>
      if !a.resident || !restoreNext s a off then post s (.granuleRestore cl ctx off)
      else
        let s1 := memWrite s (localPa s (scratchPa cl (g * granuleBytes))) (cellsRead s.mem.cells (savePa s cl ctx off) granuleBytes)
        stampGranule (setAlloc s1 { a with due := Assoc.erase a.due off, present := (off, g) :: a.present,
                                           saved := a.saved.filter (fun o => o ≠ off), asked := a.asked.filter (fun o => o ≠ off) }) cl g

/-- GRANULE_RESTORE (R79). -/
def execGranuleRestore (s : State) : Out :=
  match s.now with
  | some (.granuleRestore cl ctx off) => .next (granuleRestoreAt { s with now := none } cl ctx off)
  | _ => .next s

/-! ### Eviction (R210-R214) -/

/-- An eviction due for a thread: made where it stands, else again while it is marked. Without a save block none is made, unless the
supervisor has ordered it, when it waits for one (R212). -/
def threadEvictionAt (s : State) (uid : Nat) : State :=
  match findThread s uid with
  | none => s
  | some t =>
    if clusterHalted s (clusterOf t.core) then post s (.threadEviction uid)
    else match evictable s t with
      | none => if t.marked || t.leave then post s (.threadEviction uid) else s
      | some w =>
        if !blockFree s t then
          let s1 := countNoBlock s t.part
          if orderedOut s t then post s1 (.threadEviction uid) else s1
        else match t.status with
          | .parent _ => onThread s uid (fun s => evictFront s none)
          | _ => onThread s uid (fun s => evict s w)

/-- THREAD_EVICTION (R211). -/
def execThreadEviction (s : State) : Out :=
  match s.now with
  | some (.threadEviction uid) => .next (threadEvictionAt { s with now := none } uid)
  | _ => .next s

/-- For each record of a cluster that waits for a slot, the cores that may take it; a range counts its indices, up to the threads of a
cluster. -/
def slotWaits (s : State) (cl : Nat) : List (List Nat) :=
  let w := clWork s cl
  ((w.resume ++ w.deque).filter (fun r => recTurn s r && slotless s cl r)).map (coresFor cl) ++
    (w.ranges.filter (fun g => (launchOf s g.lnum).any (fun l => vfTurn s l.part l.vf && slotless s cl (rangeRec l g)))).flatMap
      (fun g => List.replicate (min 1024 g.count) (coresOf cl))

/-- Whether a thread waits at a pre-emption point (R213). -/
def waitsAtPoint (s : State) (t : Thread) : Bool :=
  match t.status with
  | .waiting _ => (evictable s t).isSome
  | _ => false

/-- Waiting threads that give up their slots, those that have waited longest first: one for each record, of a core that may take it. -/
def giveUp : List (List Nat) → List Thread → List Thread
  | [], _ => []
  | cs :: rest, ts =>
    match ts.find? (fun t => cs.contains t.core) with
    | some t => t :: giveUp rest (ts.erase t)
    | none => giveUp rest ts

/-- A thread that runs, or awaits a memory access of its chunk or its commit: it may be marked (R214). -/
def runsOn (s : State) (t : Thread) : Bool :=
  !t.marked && (match t.status with
    | .running => true
    | .waiting _ => (evictable s t).isNone
    | _ => false)

/-- The running threads that a core marks: one for each record that it may take and for which none is marked yet, those first whose
residency began earliest (R214). -/
def toMark (s : State) (ws : List (List Nat)) (c : Nat) : List Thread :=
  let n := (ws.filter (fun cs => cs.contains c)).length - ((onCore s c).filter (fun t => t.marked)).length
  (sortBy (fun t => t.since) ((onCore s c).filter (runsOn s))).take n

/-- Waiting threads give up their slots first (R213); after 100 us on a cluster without any, each core marks, for each record that it may
take, the running thread that has been resident longest (R214). -/
def slotWaitMarkAt (s : State) (cl : Nat) : State :=
  let ws := slotWaits s cl
  if ws.isEmpty || clusterHalted s cl || !admitting s cl then s
  else
    let out := giveUp ws (sortBy (fun t => t.waited) ((threadsOf s cl).filter (waitsAtPoint s)))
    if !out.isEmpty then out.foldl (fun s t => postOnce s (.threadEviction t.uid)) s
    else if (threadsOf s cl).any (waitsAtPoint s) then s
    else (coresOf cl).foldl (fun x c => markAll x (toMark s ws c)) s

/-- SLOT_WAIT_MARK (R214). -/
def execSlotWaitMark (s : State) : Out :=
  match s.now with
  | some (.slotWaitMark cl) => .next (slotWaitMarkAt { s with now := none } cl)
  | _ => .next s

/-- A load's wait for its line, also held for a translation or an entry (R40, R68, R210). -/
def Wait.isMiss : Wait → Bool
  | .memory _ => true
  | .lineEntry => true
  | .walk _ => true
  | _ => false

/-- A load's miss outstanding for 2 us (R210): the thread may be evicted at it, unless it runs pinned. -/
def longMissAt (s : State) (uid : Nat) : State :=
  match findThread s uid with
  | none => s
  | some t =>
    (match t.status with
      | .waiting w =>
        if w.isMiss && atLoad t && !t.pinned then
          let s1 := perfTh (updThread s uid (fun t => { t with longMiss := true })) t 0x18 1
          if (slotWaits s (clusterOf t.core)).isEmpty then s1 else postOnce s1 (.threadEviction uid)
        else s
      | _ => s)

/-- LONG_MISS_TIMEOUT (R210). -/
def execLongMissTimeout (s : State) : Out :=
  match s.now with
  | some (.longMissTimeout uid) => .next (longMissAt { s with now := none } uid)
  | _ => .next s

/-! ### Waking (R210, R212) -/

/-- Whether the ring that an evicted thread's instruction waits for lets it go on. -/
def ringWakes (s : State) (t : Thread) (g : Nat) : Bool :=
  match decodeWords (t.words % 2 ^ 32) (t.words / 2 ^ 32 % 2 ^ 32), ringAt s (homeCluster t) (ctxOf t) g with
  | .ok (.rpushRes _ _), some r => r.room
  | .ok (.rpop _), some r => r.ready && !ringHeld s r.cl r.ctx g
  | .ok i, some r =>
    (match mmaFields i with
      | some (ra, rb, _) =>
        (match ringAt s r.cl r.ctx ra, ringAt s r.cl r.ctx rb with
          | some a, some b => (mmaCanStart s a b).isNone
          | _, _ => true)
      | none => true)
  | _, _ => true

/-- The event that a thread waits for on a completion tag: the bit, or an element or the fault of a READQ. -/
def tagWakes (s : State) (t : Thread) (g : Nat) : Bool :=
  let c := ccOf s t.core (ctxOf t)
  bitAt c.tagmap.toNat g || c.elems.any (fun e => e.1 == g) || (tagOf c g).isNone

/-- Whether the wake condition of an evicted thread holds (R210). -/
def wakes (s : State) (t : Thread) : Wait → Bool
  | .commit => false
  | .pin => false
  | .mma => false
  | .memory line => !lineHeld s line
  | .mwait _ => t.answered.isSome || (match watchOf s t.uid with | some w => triggered s w | none => true)
  | .recv mask => !(boxesReady s t.core (ctxOf t) mask).isEmpty || (replayOf s t.part).isSome
  | .sendRoom core box => (ccOf s core (mailCtx s t core)).resident && decide (boxCount s core (mailCtx s t core) box < 4)
  | .barrier lnum g phase =>
    (match launchOf s lnum with
      | some l => decide (phase < (l.groups.getD g Group.none).phase)
      | none => true)
  | .tag g => tagWakes s t g
  | .convene lnum g =>
    (match crewOf s t with
      | some c => c.convened
      | none => (freeCrew s (clusterOf t.core)).isSome || (convening s lnum g).isSome)
  | .ring g => ringWakes s t g
  | .fifo core => decide ((s.eng.fifo.filter (fun c => c.core = core)).length < 16)
  | .freeTag => (pickTag s (ccOf s t.core (ctxOf t))).isSome
  | .deque => dequeRoom s (clusterOf t.core)
  | .choice f => t.answered.isSome || (forkAt s f).all (fun x => x.choice.isNone)
  | .deferred => true
  | .context cl ctx => (allocOf s cl ctx).any (fun a => a.resident)
  | .sync line => t.answered.isSome || ((replayOf s t.part).isSome && replayTurn s t) || s.coh.waiters.all (fun w => w.line != line || w.uid != t.uid)
  | .ticket => t.answered.isSome
  | .route dev => routeLive s t.part dev
  | .saveBlock => blockFree s t
  | .granule cl ctx off => (allocOf s cl ctx).all (fun a => (Assoc.get a.due off).isNone)
  | .room => true
  | .lineEntry => entryFree s (clusterOf t.core) t.core
  | .walk va => !walkPending s (whoOf t) va
  | .posted => s.coh.posted.all (fun p => p.uid != t.uid) && !coreWritesPending s t.core
  | .acked => ackedTo s t.part (logPos s t.part) && !replayPart s t.part
  | .subJoin e => (subAt s (clusterOf t.core) e).all (fun x => x.joined)
  | .checkpoint => t.answered.isSome

/-- Whether a record of an evicted thread is already on a list. -/
def listed (s : State) (uid : Nat) : Bool := s.wk.cl.any (fun e => (e.2.resume ++ e.2.deque).any (fun r => r.saved == some uid))

/-- An evicted thread whose wake condition holds goes to its resume list (R212); until then the step comes again. -/
def wakeConditionMetAt (s : State) (uid : Nat) : State :=
  match s.wk.saved.find? (fun t => t.uid = uid) with
  | none => s
  | some t =>
    if listed s uid then s
    else
      let go := pushResume s (homeCluster t) (savedRec s t t.boundCore t.crew.isSome)
      match t.status with
      | .running => go
      | .waiting w => if wakes s t w then go else postOnce s (.wakeConditionMet uid)
      | _ => s

/-- WAKE_CONDITION_MET (R212). -/
def execWakeConditionMet (s : State) : Out :=
  match s.now with
  | some (.wakeConditionMet uid) => .next (wakeConditionMetAt { s with now := none } uid)
  | _ => .next s

/-! ### Context switches (R77, R409, R450) -/

/-- The function's saved images of a context's counters (R409, R450). -/
def savePerf (s : State) (core ctx : Nat) : State :=
  let v := cdVf s ctx
  ((ccOf s core ctx).perf.zipIdx).foldl (fun s e => ctlSet s (vfAddr v (0x200 + 8 * e.2)) (BitVec.ofNat 64 e.1)) s

/-- The last thread of a context has left a core: its per-core state is saved, and written to the context's state area; with the last core of the cluster its scratchpad is
switched out (R77, R409). The freed slot is offered. -/
def contextSwitchOutAt (s : State) (core ctx : Nat) : State :=
  let cl := clusterOf core
  let s0 := postOnce (offer s cl) (.traceStateChange core)
  if (onCore s core).any (fun t => ctxOf t = ctx) || !(ccOf s core ctx).resident then s0
  else
    let s1 := writeArea (updCc (savePerf s0 core ctx) core ctx (fun c => { c with resident := false })) (cdState s ctx + 0x2000 * core) 0x2000
    if (threadsOf s cl).any (fun t => ctxOf t = ctx) then s1
    else match allocOf s1 cl ctx with
      | none => s1
      | some a => { setAlloc s1 { a with resident := false, outAt := s1.wk.outCount } with
          wk := { (setAlloc s1 { a with resident := false, outAt := s1.wk.outCount }).wk with outCount := s1.wk.outCount + 1 } }

/-- CONTEXT_SWITCH_OUT (R409). -/
def execContextSwitchOut (s : State) : Out :=
  match s.now with
  | some (.contextSwitchOut core ctx) => .next (contextSwitchOutAt { s with now := none } core ctx)
  | _ => .next s

/-- A context with a thread on a core is switched in there (R409); admission does so as it places the thread. -/
def contextSwitchInAt (s : State) (core ctx : Nat) : State :=
  if (onCore s core).any (fun t => ctxOf t = ctx) then switchIn s core ctx else s

/-- CONTEXT_SWITCH_IN (R409). -/
def execContextSwitchIn (s : State) : Out :=
  match s.now with
  | some (.contextSwitchIn core ctx) => .next (contextSwitchInAt { s with now := none } core ctx)
  | _ => .next s

/-! ### Completion and slices (R191, R450) -/

/-- Whether anything of a launch is left: indices, records, threads, engine commands (R191). -/
def launchBusy (s : State) (n : Nat) : Bool :=
  s.wk.shares.any (fun g => g.lnum == n) ||
    s.wk.cl.any (fun e => e.2.ranges.any (fun g => g.lnum == n) || (e.2.deque ++ e.2.resume).any (fun r => r.lnum == n)) ||
    (threads s ++ s.wk.saved).any (fun t => t.status != .vacant && t.lnum == n) || (s.eng.fifo ++ s.eng.active).any (fun c => c.lnum == n)

/-- The cores whose L1s hold dirty guarded bytes of a launch's context. -/
def dirtyCores (s : State) (l : Launch) : List Nat :=
  ((s.coh.l1.filter (fun x => x.cls = .G ∧ x.ctx = (cdXlctx s l.ctx).bits 63 52 ∧ x.dirty ≠ 0 ∧ inPart s l.part (clusterOf x.core))).map
    (fun x => x.core)).eraseDups

/-- The release that goes with a launch's completion block (R122, R191): the guarded bytes of its context are written back and its posted
stores performed; none while one of them is not acknowledged. -/
def launchRelease (s : State) (l : Launch) : State :=
  (dirtyCores s l).foldl (fun s c => releaseG s c ((cdXlctx s l.ctx).bits 63 52) (Cause.ofLaunch l.lnum 0)) s

def launchReleased (s : State) (l : Launch) : Bool :=
  s.coh.posted.all (fun p => p.lnum != l.lnum) && ((clustersOf s l.part).flatMap coresOf).all (fun c => !coreWritesPending s c)

/-- The completion block of a complete launch is written and then its entry freed; DONE where its queue asks (R191, R452). -/
def finishLaunch (s : State) (l : Launch) : State :=
  let r := endLaunch s l.lnum (if l.faults.isSome then 2 else 1)
  if !r.1 then post r.2 (.launchCompletion l.lnum) else if qtIrq s l.queue then vfInterrupt r.2 l.vf 0 else r.2

/-- A launch that is complete writes its completion block as a release and frees its entry once that is written (R191). -/
def launchCompletionAt (s : State) (n : Nat) : State :=
  match launchOf s n with
  | none => s
  | some l =>
    if l.block.isSome then finishLaunch s l
    else if launchBusy s n || s.sys.kills.any (fun k => k.ctx = l.ctx) then s
    else
      let s0 := launchRelease s l
      if launchReleased s0 l then finishLaunch s0 l else post s0 (.launchCompletion n)

/-- LAUNCH_COMPLETION (R191). -/
def execLaunchCompletion (s : State) : Out :=
  match s.now with
  | some (.launchCompletion n) => .next (launchCompletionAt { s with now := none } n)
  | _ => .next s

/-- Whether a function has a pending record or a resident thread in a partition (R450). -/
def vfWork (s : State) (p v : Nat) : Bool :=
  (threads s).any (fun t => t.status != .vacant && t.part == p && t.vf == v) ||
    s.wk.launches.any (fun l => l.part == p && l.vf == v && (s.wk.shares.any (fun g => g.lnum == l.lnum) ||
      s.wk.cl.any (fun e => e.2.ranges.any (fun g => g.lnum == l.lnum) || (e.2.deque ++ e.2.resume).any (fun r => r.lnum == l.lnum))))

/-- The end of a slice (R450): the next function in ring order with work takes the partition; the outgoing one's threads are evicted as
marked threads are. -/
def vfSliceEndAt (s : State) (p : Nat) : State :=
  let cur := Assoc.getD s.sys.curVf p 0
  match ringNext cur ((List.range 256).filter (fun v => v ≠ cur ∧ vfWork s p v)) with
  | none => s
  | some v =>
    let s1 := markAll { s with sys := { s.sys with curVf := Assoc.set s.sys.curVf p v } }
      ((threads s).filter (fun t => t.status ≠ .vacant ∧ t.part = p ∧ t.vf = cur))
    let s2 := (clustersOf s1 p).foldl (fun s c => postOnce (offer s c) (.rangeRequest c)) s1
    if vfWork s2 p cur then postOnce s2 (.vfSliceEnd p) else s2

/-- VF_SLICE_END (R450). -/
def execVfSliceEnd (s : State) : Out :=
  match s.now with
  | some (.vfSliceEnd p) => .next (vfSliceEndAt { s with now := none } p)
  | _ => .next s

/-! ### Trap delivery -/

/-- A pending trap is delivered once the chunk before its instruction has reached its commit point (R390); a debug halt holds it (R419). -/
def trapDeliveryAt (s : State) (uid : Nat) : State :=
  match findThread s uid with
  | none => s
  | some t =>
    match t.status, t.pendTrap with
    | .waiting .commit, some tr =>
      if t.chunk.phase = .running then onThread s uid (fun s => deliverTrap s tr s.th.a.pc) else s
    | _, _ => s

/-- TRAP_DELIVERY (R390). -/
def execTrapDelivery (s : State) : Out :=
  match s.now with
  | some (.trapDelivery uid) => .next (trapDeliveryAt { s with now := none } uid)
  | _ => .next s

end Sys2Proof.Machine
end

