-- ==== Sys2Proof/Machine/Telemetry.lean ====
section
/-! DEFINITION. Telemetry.lean: the steps of debug modules, core trace, sampling and Sillage (R416-R436, R462). -/

namespace Sys2Proof.Machine

/-! ### Halts (R419-R421) -/

/-- DCTL_HALT (R419). -/
def execDctlHalt (s : State) : Out :=
  match s.now with
  | some (.dctlHalt cl) => .next (haltCluster { s with now := none } cl 0 0)
  | _ => .next s

/-- DCTL_REL (R420). -/
def execDctlRel (s : State) : Out :=
  match s.now with
  | some (.dctlRel cl) => .next (releaseCluster { s with now := none } cl)
  | _ => .next s

/-- A halt arrives from the cross-trigger bus (R421): a subscribing module notes it and halts its cluster. -/
def crossTriggerAt (s : State) (cl : Nat) : State :=
  if ctlBits s (dmAddr cl 0x90) 0 0 = 0 then s else haltCluster (ctlPut s (dmAddr cl 0x88) 2 2 1) cl 4 0

/-- CROSS_TRIGGER_HALT (R421). -/
def execCrossTriggerHalt (s : State) : Out :=
  match s.now with
  | some (.crossTriggerHalt cl) => .next (crossTriggerAt { s with now := none } cl)
  | _ => .next s

/-- DTDATA_ACCESS (R418): a read answers the debugger. -/
def execDtdataAccess (s : State) : Out :=
  match s.now with
  | some (.dtdataAccess cl w) =>
    let r := dtdataAt { s with now := none } cl w
    .next (if w.isNone then giveAnswer r.2 (.value r.1) else r.2)
  | _ => .next s

/-- TRBASE_WRITE (R418). -/
def execTrbaseWrite (s : State) : Out :=
  match s.now with
  | some (.trbaseWrite cl area v) => .next (trbaseWriteAt { s with now := none } cl area v)
  | _ => .next s

/-! ### Core trace (R422, R423, R435) -/

/-- A trace record of a core: a state and a count of cycles. -/
def traceWord (st delta : Nat) : List Byte := leBytes 4 (st * 2 ^ 30 + delta % 2 ^ 30)

/-- The state that a core last traced; none was before the first record. -/
def lastTraced (s : State) (core : Nat) : Nat := Assoc.getD s.dbg.tstate core 3

/-- A record of a core, unless a trigger has stopped its cluster's trace. -/
def tracePut (s : State) (core st delta : Nat) : State :=
  if s.dbg.traceOff.contains (clusterOf core) then s else traceRecord s (clusterOf core) (core % 4) (traceWord st delta)

/-- A change of a core's trace state: a record, whose count of cycles is a free value, and an event of class 0 (R422, R423, R429). Whose context,
launch, index and slot the event of a core carries the spec does not say: those of the first thread on it (notes/assumptions/87.md). -/
def traceStateChangeAt (s : State) (core : Nat) : State :=
  let old := lastTraced s core
  let new := traceState s core
  if old = new then s
  else
    let d := freeWord s
    let s1 := tracePut (tickFree s) core new d.toNat
    let s2 : State := { s1 with dbg := { s1.dbg with tstate := Assoc.set s1.dbg.tstate core new } }
    let owner := (onCore s core).head?
    silPost s2 0 core ((owner.map ctxOf).getD 0) ((owner.map (fun t => t.vf)).getD 0) (owner.map (fun t => t.lnum))
      ((owner.map (fun t => t.index)).getD 0) ((owner.map (fun t => t.slot)).getD 0)
      [BitVec.ofNat 64 old, BitVec.ofNat 64 new, d &&& 0x3fffffff#64]

/-- TRACE_STATE_CHANGE (R423). -/
def execTraceStateChange (s : State) : Out :=
  match s.now with
  | some (.traceStateChange core) => .next (traceStateChangeAt { s with now := none } core)
  | _ => .next s

/-- TRACE_SPAN_RECORD (R423): 2^30 - 1 cycles without a change repeat the state. -/
def execTraceSpanRecord (s : State) : Out :=
  match s.now with
  | some (.traceSpanRecord core) => .next (tracePut { s with now := none } core (lastTraced s core) (2 ^ 30 - 1))
  | _ => .next s

/-! ### Samples (R426) -/

/-- Threads of a core that may issue with the token, lowest slot first. -/
def tokenHolders (s : State) (core : Nat) : List Thread :=
  sortBy (fun t => t.slot) ((onCore s core).filter (fun t => t.status = .running ∧ t.a.token))

/-- A sample of a thread in its cluster's sample area; the cycle count is a free value. -/
def takeSample (s : State) (t : Thread) : State :=
  let seqno := ((launchOf s t.lnum).map (fun l => l.seqno)).getD 0
  traceRecord (tickFree s) (clusterOf t.core) 4
    (leBytes 8 t.a.pc.toNat ++ leBytes 6 t.index ++ leBytes 2 t.core ++ leBytes 4 seqno ++ leBytes 4 t.seq ++ leBytes 8 (freeWord s).toNat)

/-- A core's skip counted (R426). -/
def countSkip (s : State) (core : Nat) : State :=
  { s with dbg := { s.dbg with skipped := Assoc.set s.dbg.skipped core (Assoc.getD s.dbg.skipped core 0 + 1) } }

/-- A core's sample at a period's end: which of its threads issue in that cycle is a free value. -/
def sampleCore (s : State) (core : Nat) : State :=
  let issues (t : Thread) : Bool := bitAt (freeNext s (t.slot / 64)).toNat (t.slot % 64)
  match (tokenHolders s core).find? issues with
  | some t => takeSample { s with free := s.free + 4 } t
  | none => countSkip { s with free := s.free + 4 } core

/-- SAMPLE_PERIOD (R426). -/
def execSamplePeriod (s : State) : Out :=
  match s.now with
  | some (.samplePeriod cl) =>
    .next (if ctlGet s (dmAddr cl 0x98) = 0 then { s with now := none } else (coresOf cl).foldl sampleCore { s with now := none })
  | _ => .next s

/-- A sample that a filter asked for: which token holder issues next on the core, if one does in time, is a free value. -/
def sampleRequestAt (s : State) (core : Nat) : State :=
  if !s.dbg.sampleReq.contains core then s
  else
    let s1 : State := { s with dbg := { s.dbg with sampleReq := s.dbg.sampleReq.erase core } }
    let ts := tokenHolders s core
    match ts[(freeWord s).toNat % (ts.length + 1)]? with
    | some t => takeSample (tickFree s1) t
    | none => countSkip (tickFree s1) core

/-- SAMPLE_REQUEST_TAKE (R426). -/
def execSampleRequestTake (s : State) : Out :=
  match s.now with
  | some (.sampleRequestTake core) => .next (sampleRequestAt { s with now := none } core)
  | _ => .next s

/-! ### Sillage (R428-R431) -/

/-- Whether an attachment of a die matches an event: class, tenant unless the supervisor's, core mask (R428, R430). -/
def attMatches (s : State) (die a : Nat) (ev : SilEvent) : Bool :=
  let c := atctl s die a
  let core := ev.core % 256
  c.bits 0 0 == 1 && c.bits 7 5 == ev.code && (c.bits 16 16 == 1 || c.bits 39 32 == ev.vf) &&
    (c.bits 1 1 == 0 || bitAt (atmask s die a (core / 64)).toNat (core % 64))

/-- Instructions that a tenant's programs in progress on a die may still be charged (R431). -/
def owedRuns (s : State) (die vf : Nat) : Nat :=
  (s.dbg.runs.filter (fun r => r.die = die ∧ r.vf = vf ∧ !r.supv)).foldl (fun n r => n + (spLen (spctl s die r.slot) - r.count)) 0

/-- An attachment's program run for an event, or the event dropped for it for lack of budget, of which programs in progress hold what they
may still be charged (R431). -/
def runAttachment (die : Nat) (ev : SilEvent) (s : State) (a : Nat) : State :=
  let c := atctl s die a
  let slot := c.bits 30 24
  let supv := c.bits 16 16 == 1
  if !supv && decide (leftOf s.dbg.budget die ev.vf < owedRuns s die ev.vf + spLen (spctl s die slot)) then tnSet s die ev.vf 1 (tnReg s die ev.vf 1 + 1)
  else
    let r : FilterRun :=
      { die := die, slot := slot, vf := ev.vf, supv := supv, ev := ev, pc := 0, regs := List.replicate 8 0, count := 0 }
    setRuns s (s.dbg.runs ++ [r])

/-- The oldest pending event of a die offered to its attachments; with four programs running it waits (R429, R430). -/
def sillageEventAt (s : State) (die : Nat) : State :=
  match s.dbg.events.find? (fun e => e.die = die) with
  | none => s
  | some ev =>
    if 4 ≤ (s.dbg.runs.filter (fun r => r.die = die)).length then post s (.sillageEvent die)
    else
      let s1 : State := { s with dbg := { s.dbg with events := s.dbg.events.erase ev } }
      ((List.range 32).filter (fun a => attMatches s die a ev)).foldl (runAttachment die ev) s1

/-- SILLAGE_EVENT (R429). -/
def execSillageEvent (s : State) : Out :=
  match s.now with
  | some (.sillageEvent die) => .next (sillageEventAt { s with now := none } die)
  | _ => .next s

/-- Budgets and export rates of a die's tenants at the start of a microsecond (R428, R431, R436). -/
def budgetRefillAt (s : State) (die : Nat) : State :=
  let fresh (f : Nat → Nat) : List (Nat × Nat × Nat) :=
    ((List.range 256).filter (fun v => f v ≠ 0)).map (fun v => (die, v, f v))
  { s with dbg := { s.dbg with
      budget := fresh (fun v => (tnReg s die v 0).bits 15 0) ++ s.dbg.budget.filter (fun e => e.1 ≠ die)
      exportLeft := fresh (fun v => (tnReg s die v 4).bits 31 16) ++ s.dbg.exportLeft.filter (fun e => e.1 ≠ die) } }

/-- SILLAGE_BUDGET_REFILL (R431). -/
def execSillageBudgetRefill (s : State) : Out :=
  match s.now with
  | some (.sillageBudgetRefill die) => .next (budgetRefillAt { s with now := none } die)
  | _ => .next s

/-! ### Writes of Sillage control as steps (R428, R434) -/

/-- SPCTL_INSTALL (R434). -/
def execSpctlInstall (s : State) : Out :=
  match s.now with
  | some (.spctlInstall die slot v) => .next (spctlInstallAt { s with now := none } die slot v)
  | _ => .next s

/-- SPCTL_UNINSTALL (R428). -/
def execSpctlUninstall (s : State) : Out :=
  match s.now with
  | some (.spctlUninstall die slot v) => .next (if v.bits 7 7 = 0 then spctlWrite { s with now := none } die slot v else { s with now := none })
  | _ => .next s

/-- ATCTL_ATTACH (R428). -/
def execAtctlAttach (s : State) : Out :=
  match s.now with
  | some (.atctlAttach die a v) => .next (atctlAttachAt { s with now := none } die a v)
  | _ => .next s

/-- ATCTL_DETACH (R428). -/
def execAtctlDetach (s : State) : Out :=
  match s.now with
  | some (.atctlDetach die a v) => .next (atctlDetachAt { s with now := none } die a v)
  | _ => .next s

/-- OBJ_VALIDATE (R428). -/
def execObjValidate (s : State) : Out :=
  match s.now with
  | some (.objValidate die o v) => .next (objValidateAt { s with now := none } die o v)
  | _ => .next s

/-- OBJ_REMOVE (R428). -/
def execObjRemove (s : State) : Out :=
  match s.now with
  | some (.objRemove die o v) => .next (if v.bits 0 0 = 0 then objRemoveAt { s with now := none } die o else { s with now := none })
  | _ => .next s

/-- TGCNT_CLEAR (R428). -/
def execTgcntClear (s : State) : Out :=
  match s.now with
  | some (.tgcntClear die t) => .next (tgcntClearAt { s with now := none } die t)
  | _ => .next s

/-- TNEXPBASE_WRITE (R428). -/
def execTnexpbaseWrite (s : State) : Out :=
  match s.now with
  | some (.tnexpbaseWrite die v x) => .next (tnexpbaseWriteAt { s with now := none } die v x)
  | _ => .next s

/-! ### Clock stretching -/

/-- A cluster's clock stretched (R462): DSTRETCH, and event 0x40 of the contexts resident on its cores. -/
def clockStretchAt (s : State) (cl n : Nat) : State :=
  let s1 := ctlCount s (dmAddr cl 0xa8) n
  (s.eng.cc.filter (fun e => clusterOf e.1.1 = cl ∧ e.2.resident)).foldl (fun s e => perfCount s e.1.1 e.1.2 (cdVf s e.1.2) 0x40 n) s1

/-- CLOCK_STRETCH (R462). -/
def execClockStretch (s : State) : Out :=
  match s.now with
  | some (.clockStretch cl n) => .next (clockStretchAt { s with now := none } cl n)
  | _ => .next s

end Sys2Proof.Machine
end

