-- ==== Sys2Proof/Machine/Replay.lean ====
section
/-! DEFINITION. Replay.lean: checkpoints, the acknowledgement of the order log, rollback and replay (R70, R195, R437-R442), and the move of
what a removed or fenced core or cluster holds to its successor (R96, R412). -/

namespace Sys2Proof.Machine

/-! ### Moves to successors (R96, R412)

A map names, for a core, its successor core; for a cluster, its number from 2048 up, its successor cluster. -/

abbrev MoveMap := List (Nat × Nat)

def clTo (m : MoveMap) (cl : Nat) : Nat := ((Assoc.get m (2048 + cl)).map (fun d => d % 2048)).getD cl
def coreTo (m : MoveMap) (c : Nat) : Nat :=
  match Assoc.get m c with
  | some d => d
  | none => 4 * clTo m (clusterOf c) + c % 4

/-- Whether a map moves a core, or its cluster. -/
def movesCore (m : MoveMap) (c : Nat) : Bool := coreTo m c != c
def movesCl (m : MoveMap) (cl : Nat) : Bool := clTo m cl != cl

/-- A record whose binding follows the map. -/
def Rec.moved (m : MoveMap) (r : Rec) : Rec := { r with boundCore := r.boundCore.map (coreTo m) }

/-- Deques, resume lists and range slots appended to the successors' (R412 step 3). -/
def moveWork (m : MoveMap) (s : State) (cl : Nat) : State :=
  let w := clWork s cl
  let d := clTo m cl
  let s1 := setClWork s cl { w with deque := [], resume := [], ranges := [] }
  updClWork s1 d (fun x => { x with
    deque := x.deque ++ w.deque, resume := x.resume ++ w.resume, ranges := x.ranges ++ w.ranges.map (fun g => { g with place := d }) })

/-- Whether a map takes a core of a cluster, or the cluster (R412). -/
def affects (m : MoveMap) (cl : Nat) : Bool := (coresOf cl).any (movesCore m)

/-- What an evicted thread waits for, where it stands on a core or a cluster that is moved: on its successor (R412 steps 3 and 4). -/
def Wait.moved (m : MoveMap) : Wait → Wait
  | .sendRoom core box => .sendRoom (coreTo m core) box
  | .context cl ctx => .context (clTo m cl) ctx
  | .granule cl ctx off => .granule (clTo m cl) ctx off
  | .fifo core => .fifo (coreTo m core)
  | w => w

def Status.moved (m : MoveMap) : Status → Status
  | .waiting w => .waiting (w.moved m)
  | st => st

/-- Bindings of records, evicted threads, commands and messages (R412 steps 3 and 4). -/
def moveBindings (m : MoveMap) (s : State) : State :=
  { s with
    wk := { s.wk with
      cl := s.wk.cl.map (fun e => (e.1, { e.2 with deque := e.2.deque.map (Rec.moved m), resume := e.2.resume.map (Rec.moved m) }))
      saved := s.wk.saved.map (fun t =>
        { t with core := coreTo m t.core, boundCore := t.boundCore.map (coreTo m), status := t.status.moved m }) }
    rest := s.rest.map (fun t => { t with status := t.status.moved m })
    th := { s.th with status := s.th.status.moved m }
    eng := { s.eng with
      fifo := s.eng.fifo.map (fun c => { c with core := coreTo m c.core, cl := clTo m c.cl })
      active := s.eng.active.map (fun c => { c with core := coreTo m c.core, cl := clTo m c.cl })
      subs := s.eng.subs.map (fun e => { e with core := coreTo m e.core, cl := clTo m e.cl })
      mcasts := s.eng.mcasts.map (fun x => { x with cl := clTo m x.cl, sub := clTo m x.sub })
      farMcasts := s.eng.farMcasts.map (fun x => { x with cl := clTo m x.cl }) }
    coh := { s.coh with net := s.coh.net.map (fun x => { x with core := coreTo m x.core }) } }

/-- The TAGMAP image, result elements and mailboxes of a context on a removed core join those on its successor (R412 step 4). -/
def moveCc (m : MoveMap) (s : State) (e : (Nat × Nat) × CoreCtx) : State :=
  if !movesCore m e.1.1 then s
  else
    let s1 : State := { s with eng := { s.eng with cc := Assoc.erase s.eng.cc e.1 } }
    updCc s1 (coreTo m e.1.1) e.1.2 (fun c => { c with
      tagmap := c.tagmap ||| e.2.tagmap, tags := c.tags ++ e.2.tags, elems := c.elems ++ e.2.elems, boxes := c.boxes ++ e.2.boxes })

/-- The tiles of a crew. -/
def crewTiles (s : State) (c : Crew) : List Tile := s.eng.tiles.filter (fun t => t.cl = c.cl ∧ t.crew = c.entry)

/-- The partition of a crew's launch. -/
def crewPart (s : State) (c : Crew) : Nat := ((launchOf s c.lnum).map (fun l => l.part)).getD 0

/-- A block taken for every tile of a crew that has none (R411, R412 step 5); none where the save area has no room. -/
def blocksForCrew (s : State) (c : Crew) : Option State :=
  ((crewTiles s c).filter (fun t => !t.block)).foldl
    (fun o t => o.bind (fun s => takeBlock (setTile s { t with block := true, present := false }) (crewPart s c) tileBytes (.tile t.cl t.crew t.acc)))
    (some s)

/-- A block's owner where its tile goes to another crew entry. -/
def BlockOwner.moved (cl entry d e : Nat) : BlockOwner → BlockOwner
  | .tile c k acc => if c = cl ∧ k = entry then .tile d e acc else .tile c k acc
  | .thread uid => .thread uid

/-- A crew takes a free entry on the successor cluster, its tiles in tile save blocks (R412 step 5); where no entry is free, or the save area
has no block, it stays. -/
def moveCrew (m : MoveMap) (s : State) (c : Crew) : State :=
  let d := clTo m c.cl
  match freeCrew s d, blocksForCrew s c with
  | some e, some s1 =>
    { s1 with
      eng := { s1.eng with
        crews := s1.eng.crews.map (fun x => if x.cl = c.cl ∧ x.entry = c.entry then { x with cl := d, entry := e } else x)
        tiles := s1.eng.tiles.map (fun t => if t.cl = c.cl ∧ t.crew = c.entry then { t with cl := d, crew := e, present := false } else t) }
      wk := { s1.wk with
        blocks := s1.wk.blocks.map (fun b => { b with owner := b.owner.moved c.cl c.entry d e })
        saved := s1.wk.saved.map (fun t => match t.crew with
          | some (x, y, k) => if x = c.cl ∧ y = c.entry then { t with crew := some (d, e, k) } else t
          | none => t) } }
  | some _, none => countNoBlock s (crewPart s c)
  | none, _ => s

/-- The allocation of a context on a cluster after a move: the granules saved at `offs` are its own. -/
def Alloc.joined (a : Alloc) (cl : Nat) (o : Option Alloc) (offs : List Nat) : Alloc :=
  match o with
  | none => { a with cl := cl, present := [], due := [], saved := offs, asked := [], resident := false }
  | some b => { b with size := max a.size b.size, saved := offs ++ b.saved }

/-- A context's granules drained to the save area (R78, R412 step 5); its allocation follows it to the successor. Where the context has one
there already, the granules go to the offsets that it does not hold; the bytes of the others stay in the save area, under the cluster that they
come from (notes/assumptions/9.md). -/
def moveAlloc (m : MoveMap) (s : State) (a : Alloc) : State :=
  let d := clTo m a.cl
  let s1 := a.present.foldl (fun s e => match allocOf s a.cl a.ctx with
    | some v => saveGranule s a.cl e.2 v e.1
    | none => s) s
  let offs := ((allocOf s1 a.cl a.ctx).map (fun v => v.saved)).getD []
  let there := allocOf s1 d a.ctx
  let held (o : Nat) : Bool := there.any (fun b => b.saved.contains o || (b.present ++ b.due).any (fun e => e.1 == o))
  let go := offs.filter (fun o => !held o)
  let stay := offs.filter held
  let s2 : State := { s1 with wk := { s1.wk with allocs := s1.wk.allocs.filter (fun x => !(x.cl == a.cl && x.ctx == a.ctx)) } }
  let s3 := go.foldl (fun s o => memWrite s (savePa s d a.ctx o) (cellsRead s.mem.cells (savePa s a.cl a.ctx o) granuleBytes)) s2
  let s4 := setAlloc s3 (a.joined d there go)
  if stay.isEmpty then s4 else setAlloc s4 { a with present := [], due := [], asked := [], saved := stay, resident := false }

/-- Rings and layout records of a moved cluster on its successor, but for numbers in use there (notes/assumptions/9.md). -/
def moveRings (m : MoveMap) (s : State) : State :=
  let ringUsed (r : Ring) : Bool := s.eng.rings.any (fun x => x.cl == clTo m r.cl && x.ctx == r.ctx && x.g == r.g)
  let recUsed (l : Layout) : Bool := s.eng.layouts.any (fun x => x.cl == clTo m l.cl && x.idx == l.idx)
  { s with eng := { s.eng with
      rings := s.eng.rings.map (fun r => if movesCl m r.cl && !ringUsed r then { r with cl := clTo m r.cl } else r)
      layouts := s.eng.layouts.map (fun l => if movesCl m l.cl && !recUsed l then { l with cl := clTo m l.cl } else l) } }

/-- Crews that a map still has to move. -/
def crewsLeft (s : State) (m : MoveMap) : List Crew := s.eng.crews.filter (fun c => movesCl m c.cl)

/-- Everything that the moved cores and clusters hold goes to their successors. -/
def moveAll (s : State) (m : MoveMap) : State :=
  let s1 := (s.wk.cl.map (fun e => e.1)).foldl (fun s cl => if movesCl m cl then moveWork m s cl else s) s
  let s2 := moveBindings m s1
  let s3 := s2.eng.cc.foldl (moveCc m) s2
  let s4 := (crewsLeft s3 m).foldl (moveCrew m) s3
  moveRings m ((s4.wk.allocs.filter (fun a => movesCl m a.cl)).foldl (moveAlloc m) s4)

/-! ### Images of a partition (R437) -/

/-- Whether a PA lies in a partition's memory. -/
def paInPart (s : State) (p pa : Nat) : Bool := isLocal s pa && partOfLine s pa == some p

/-- Whether a PA lies in the memory of a fenced die (R98). -/
def deadPa (s : State) (pa : Nat) : Bool :=
  isLocal s pa && (match region (paLocal pa) with
    | .hbm st => s.coh.fencedDie.contains (st / 2)
    | .weight d => s.coh.fencedDie.contains d
    | _ => false)

/-- Whether a core, a queue or a launch number is of a partition. -/
def coreInPart (s : State) (p core : Nat) : Bool := inPart s p (clusterOf core)
def queueInPart (s : State) (p q : Nat) : Bool := cdPart s (qtCtx s q) == p

/-- The part of the engines' state on the clusters chosen. -/
def selEng (f : Nat → Bool) (e : EngSt) : EngSt :=
  { e with
    layouts := e.layouts.filter (fun x => f x.cl)
    fifo := e.fifo.filter (fun x => f x.cl)
    active := e.active.filter (fun x => f x.cl)
    cc := e.cc.filter (fun x => f (clusterOf x.1.1))
    subs := e.subs.filter (fun x => f x.cl)
    mcasts := e.mcasts.filter (fun x => f x.sub)
    farMcasts := e.farMcasts.filter (fun x => f x.cl)
    rings := e.rings.filter (fun x => f x.cl)
    crews := e.crews.filter (fun x => f x.cl)
    tiles := e.tiles.filter (fun x => f x.cl)
    mma := e.mma.filter (fun x => f x.cl) }

def addEng (a b : EngSt) : EngSt :=
  { a with
    layouts := a.layouts ++ b.layouts, fifo := a.fifo ++ b.fifo, active := a.active ++ b.active, cc := a.cc ++ b.cc
    subs := a.subs ++ b.subs, mcasts := a.mcasts ++ b.mcasts, farMcasts := a.farMcasts ++ b.farMcasts, rings := a.rings ++ b.rings, crews := a.crews ++ b.crews
    tiles := a.tiles ++ b.tiles, mma := a.mma ++ b.mma }

/-- The part of the work state of the partitions, clusters and queues chosen. -/
def selWork (part cl queue : Nat → Bool) (w : WorkSt) : WorkSt :=
  let mine (n : Nat) : Bool := w.launches.any (fun l => l.lnum == n && part l.part)
  { w with
    launches := w.launches.filter (fun l => part l.part)
    shares := w.shares.filter (fun g => mine g.lnum)
    cl := w.cl.filter (fun e => cl e.1)
    saved := w.saved.filter (fun t => part t.part)
    blocks := w.blocks.filter (fun b => part b.part)
    allocs := w.allocs.filter (fun a => cl a.cl)
    qs := w.qs.filter (fun q => queue q.queue)
    seqs := w.seqs.filter (fun e => part e.1) }

def addWork (a b : WorkSt) : WorkSt :=
  { a with
    launches := a.launches ++ b.launches, shares := a.shares ++ b.shares, cl := a.cl ++ b.cl, saved := a.saved ++ b.saved
    blocks := a.blocks ++ b.blocks, allocs := a.allocs ++ b.allocs, qs := a.qs ++ b.qs, seqs := a.seqs ++ b.seqs }

/-- The part of the view state of the partitions and clusters chosen: view tags are those of their forks' live rivals. -/
def selViews (part cl : Nat → Bool) (v : ViewSt) : ViewSt :=
  let tags := (v.forks.filter (fun f => part f.part)).flatMap (fun f => (f.rivals.filter (fun r => r.2.2.2)).map (fun r => r.2.2.1)) ++
    (v.fallen.filter (fun t => part t.part)).flatMap (fun t => t.chain.take 1)
  { v with
    fallen := v.fallen.filter (fun t => part t.part)
    forks := v.forks.filter (fun f => part f.part)
    tags := v.tags.filter tags.contains
    versions := v.versions.filter (fun x => tags.contains x.tag)
    reserved := v.reserved.filter (fun x => tags.contains x.1)
    spillUsed := v.spillUsed.filter (fun e => part e.1)
    grants := v.grants.filter (fun e => cl e.1)
    dirty := v.dirty.filter (fun x => tags.contains x.1) }

def addViews (a b : ViewSt) : ViewSt :=
  { a with
    fallen := a.fallen ++ b.fallen, forks := a.forks ++ b.forks, tags := a.tags ++ b.tags, versions := a.versions ++ b.versions, reserved := a.reserved ++ b.reserved
    spillUsed := a.spillUsed ++ b.spillUsed, grants := a.grants ++ b.grants, dirty := a.dirty ++ b.dirty }

/-- Waits that an image does not keep: the instruction is performed again, and asks again for what it had not been granted. -/
def Wait.redone : Wait → Bool
  | .pin => true
  | .ticket => true
  | .deferred => true
  | .checkpoint => true
  | w => w.inChunk

/-- A thread as a capture keeps it (R437 step 2): its running chunk is discarded, with a wait for its own access; any other wait stays. What
its chunk's earlier sub-chunks recorded lies before the image's place in the log. -/
def imageOf (t : Thread) : Thread :=
  let keep (w : Wait) : Status := if w.redone then .running else .waiting w
  let st := match t.status with
    | .waiting w => keep w
    | .halted (some w) => keep w
    | .parent f => .parent f
    | _ => .running
  let w := match st with | .waiting w => some w | _ => none
  { t with
    a := t.chunk.start, chunk := { t.chunk.again with passed := 0 }, kept := [], marked := false, leave := false, longMiss := false, pinned := false, squashes := 0, pendTrap := none
    boundCore := bindingOf t w, status := st }

/-- A thread that stands where a capture may take it: at a chunk end, at a wait, at a memory wait of its chunk; not in a pinned attempt. -/
def standsForCut (t : Thread) : Bool :=
  match t.status with
  | .vacant => true
  | .parent _ => true
  | .running => atCut t
  | .waiting w => !t.pinned && w != .commit && w != .mma
  | .halted _ => !t.pinned && t.chunk.phase == .running

/-- A step that writes memory at a PA, also one that waits for an entry (R68). -/
def eventWrites (e : Event) : Option Nat :=
  match Event.inner e with
  | .homePerformedWrite pa _ _ _ => some pa
  | .writeBack _ line _ _ _ _ => some line
  | .ownerData line _ _ _ => some line
  | .singletonAccess pa _ _ _ _ => some pa
  | _ => none

/-- Whether a partition can be captured now: every thread stands, no line of it awaits an answer, no write to it is under way, no kill of
its contexts is in progress. -/
def cutReady (s : State) (p : Nat) : Bool :=
  (threads s).all (fun t => t.part != p || standsForCut t) &&
    s.coh.dir.all (fun d => !(d.st.transient || d.busy.isSome) || !paInPart s p d.line) &&
    s.agenda.all (fun e => match eventWrites e with | some pa => !paInPart s p pa | none => true) &&
    s.sys.kills.all (fun k => cdPart s k.ctx != p)

/-- Committed dirty data of the cores chosen written to the homes (R437 step 3); a guarded write-back whose line is held is performed when it
is free. -/
def cleanL1 (s : State) (which : Nat → Bool) : State :=
  (s.coh.l1.filter (fun l => which l.core)).foldl (fun s l => match l.cls with
    | .D => ownerToHome s l.line
    | .G => gWriteBack s l fullMask (Cause.ofLaunch l.last.1 l.last.2)
    | _ => s) s

/-- Whether a thread of a partition stands at a memory wait of a chunk whose work a capture discards. -/
def redoneAt (p : Nat) (t : Thread) : Bool :=
  match t.status with
  | .waiting w => t.part == p && w.inChunk && t.chunk.count != 0
  | _ => false

/-- A chunk stopped at a memory wait is discarded and done again (R437 step 2). -/
def redoChunk (p : Nat) (t : Thread) : Thread :=
  if redoneAt p t then { t with a := t.chunk.start, chunk := t.chunk.again, kept := [], status := .running } else t

/-- The waits of the chunks that a capture discards are taken back from the homes. -/
def dropAsked (s : State) (p : Nat) : State :=
  ((threads s).filter (redoneAt p)).foldl (fun s t => dropTurns s t.uid) s

/-- The next checkpoint sequence number of a partition. -/
def nextSeqno (s : State) (p : Nat) : Nat := Assoc.getD s.rep.seqnos p 0

/-- Whether a message's sender or its target is of a partition. -/
def sentFrom (s : State) (p : Nat) (m : Mesg) : Bool := m.srcDev == ownDev s && coreInPart s p m.src
def sentTo (s : State) (p : Nat) (m : Mesg) : Bool := m.dev == ownDev s && coreInPart s p m.core

/-- A partition before its capture (R437 steps 2 and 3): its discarded chunks, and its L1s cleaned. -/
def cleanPart (s : State) (p : Nat) : State :=
  let s0 := dropAsked s p
  let s1 : State := { s0 with th := redoChunk p s0.th, rest := s0.rest.map (redoChunk p) }
  cleanL1 s1 (coreInPart s1 p)

/-- The capture of a cleaned partition (R437 steps 4 and 5): its image is taken and its threads go on; those that asked for the checkpoint
have its number. -/
def captureAt (s : State) (p : Nat) : State :=
  let n := nextSeqno s p
  let ck : Ckpt :=
    { part := p, seqno := n, logPos := logPos s p, cells := s.mem.cells.filter (fun c => paInPart s p c.1 && !deadPa s c.1)
      resident := ((threads s).filter (fun t => t.status ≠ .vacant ∧ t.part = p)).map imageOf
      eng := selEng (inPart s p) s.eng, work := selWork (fun x => x == p) (inPart s p) (queueInPart s p) s.wk
      views := selViews (fun x => x == p) (inPart s p) s.vw
      net := s.coh.net.filter (fun m => sentFrom s p m || sentTo s p m), held := s.rep.held.filter (fun h => h.part = p)
      posted := s.coh.posted.filter (fun x => x.part = p), doneLen := s.rep.done.length, complete := false }
  let s1 : State := { s with rep := { s.rep with
    ckpts := s.rep.ckpts ++ [ck]
    stopping := s.rep.stopping.filter (fun x => x ≠ p)
    dirtyPages := s.rep.dirtyPages.filter (fun g => !paInPart s p (g * 4096))
    skips := s.rep.skips.filter (fun h => h.part ≠ p)
    seqnos := Assoc.set s.rep.seqnos p (n + 1) } }
  let asks := (threads s1 ++ s1.wk.saved).filter (fun t => t.part = p ∧ waitsIn t (fun w => w == .checkpoint))
  post (asks.foldl (fun s t => answerThread s t.uid (BitVec.ofNat 64 n)) s1) (.checkpointComplete p)

/-- Whether a rollback of a partition is due. -/
def rollbackDue (s : State) (p : Nat) : Bool :=
  s.agenda.any (fun e => match e with
    | .rollback q _ _ => q == p
    | _ => false)

/-- A checkpoint announced: the partition's threads stop, and once all stand it is captured (R437). In replay, before a rollback, and out of
run state, none is taken (R448). -/
def checkpointAt (s : State) (p : Nat) : State :=
  let stopped (s : State) : State :=
    post { s with rep := { s.rep with stopping := if s.rep.stopping.contains p then s.rep.stopping else p :: s.rep.stopping } } (.checkpoint p)
  if pdState s p ≠ 1 ∧ pdState s p ≠ 3 then s
  else if (replayOf s p).isSome || rollbackDue s p then post s (.checkpoint p)
  else if !cutReady s p then stopped s
  else if cutReady (cleanPart s p) p then captureAt (cleanPart s p) p
  else stopped (cleanPart s p)

/-- CHECKPOINT (R437). -/
def execCheckpoint (s : State) : Out :=
  match s.now with
  | some (.checkpoint p) => .next (checkpointAt { s with now := none } p)
  | _ => .next s

/-- The oldest image that its buddy does not hold marked complete, and only the last 16 complete ones kept. -/
def completeFirst (p : Nat) : List Ckpt → List Ckpt
  | [] => []
  | c :: cs => if c.part = p ∧ !c.complete then { c with complete := true } :: cs else c :: completeFirst p cs

def keepLast (p n : Nat) (cs : List Ckpt) : List Ckpt :=
  let done := (cs.filter (fun c => c.part = p ∧ c.complete)).length
  let old := ((cs.filter (fun c => c.part = p ∧ c.complete)).take (done - n)).map (fun c => c.seqno)
  cs.filter (fun c => !(c.part == p && c.complete && old.contains c.seqno))

/-- CHECKPOINT_COMPLETE (R437): the buddy has acknowledged every page. -/
def checkpointCompleteAt (s : State) (p : Nat) : State :=
  { s with rep := { s.rep with ckpts := keepLast p 16 (completeFirst p s.rep.ckpts), rollbacks := Assoc.erase s.rep.rollbacks p } }

def execCheckpointComplete (s : State) : Out :=
  match s.now with
  | some (.checkpointComplete p) => .next (checkpointCompleteAt { s with now := none } p)
  | _ => .next s

/-! ### The order log acknowledged (R439) -/

/-- A held effect released. -/
def performOut (s : State) (p : Nat) (e : OutEff) : State :=
  let s1 := noteOut s p e
  match e with
  | .answer a => giveAnswer s1 a
  | .write pa data => placeWrite s1 pa data
  | .store pa data => (remoteWrite s1 pa data (pdJob s p) (clockOf s1 linkClock)).getD s1
  | .send .. => s1
  | .mcast .. => s1

/-- The buddy acknowledges a partition's log up to a position: the effects held behind it are released in order. -/
def logAckAt (s : State) (p upTo : Nat) : State :=
  let a := max (Assoc.getD s.rep.acked p 0) (min upTo (logLength s p))
  let due (h : HeldOut) : Bool := decide (h.part = p ∧ h.upTo ≤ a)
  let s1 : State := { s with rep := { s.rep with acked := Assoc.set s.rep.acked p a, held := s.rep.held.filter (fun h => !due h) } }
  (s.rep.held.filter due).foldl (fun s h => performOut s p h.eff) s1

/-- LOG_ACKNOWLEDGEMENT (R439). -/
def execLogAcknowledgement (s : State) : Out :=
  match s.now with
  | some (.logAcknowledgement p upTo) => .next (logAckAt { s with now := none } p upTo)
  | _ => .next s

/-! ### Rollback (R440) -/

/-- The last checkpoint of a partition that its buddy holds. -/
def lastCkpt (s : State) (p : Nat) : Option Ckpt := ((s.rep.ckpts.filter (fun c => c.part = p ∧ c.complete)).reverse).head?

/-- Clusters of a partition that answer. -/
def liveClusters (s : State) (p : Nat) : List Nat := (clustersOf s p).filter (fun c => !s.coh.fencedCl.contains c)

/-- The partition's job is interrupted (R3, R440). -/
def interruptJob (s : State) (p : Nat) : State :=
  { s with sys := { s.sys with interrupted := p :: s.sys.interrupted.filter (fun x => x ≠ p) } }

/-- A view tag or launch number of the image that another partition holds now: the rollback waits for it. -/
def imageBlocked (s : State) (p : Nat) (ck : Ckpt) : Bool :=
  let others := selViews (fun x => x != p) (fun _ => true) s.vw
  ck.views.tags.any others.tags.contains || ck.work.launches.any (fun l => s.wk.launches.any (fun x => x.part != p && x.lnum == l.lnum))

/-- The discarded chunks counted and reported (R424, R429, R440 step 1). -/
def reportDiscards (s : State) (p : Nat) : State :=
  ((threads s).filter (fun t => t.status ≠ .vacant ∧ t.part = p ∧ t.chunk.count ≠ 0)).foldl (fun s t =>
    silOfThread (perfTh s t 7 1) t 2 [3, BitVec.ofNat 64 t.squashes, BitVec.ofNat 64 t.chunk.count]) s

/-! ### Pages of a fenced die (R98, R440 step 2) -/

/-- Where the supervisor puts pages of a fenced die: page number, new page number. -/
abbrev Remap := List (Nat × Nat)

/-- The entries of a remap that put a page of a fenced die into memory that the partition still has: HBM, or, of a page of the weight store,
another die's weight store (R98). -/
def validRemap (s : State) (p : Nat) (r : Remap) : Remap :=
  r.filter (fun e => deadPa s (e.1 * 4096) && paInPart s p (e.2 * 4096) && !deadPa s (e.2 * 4096) &&
    (match region (paLocal (e.1 * 4096)), region (paLocal (e.2 * 4096)) with
      | _, .hbm _ => true
      | .weight _, .weight _ => true
      | _, _ => false))

def remapPa (r : Remap) (pa : Nat) : Nat :=
  match Assoc.get r (pa / 4096) with
  | some n => n * 4096 + pa % 4096
  | none => pa

/-- Whether a remap covers every page of an image that lay on a die now fenced. -/
def covers (s : State) (r : Remap) (ck : Ckpt) : Bool := ck.cells.all (fun c => !deadPa s c.1 || (Assoc.get r (c.1 / 4096)).isSome)

def Wait.remapped (r : Remap) : Wait → Wait
  | .mwait line => .mwait (remapPa r line)
  | .sync line => .sync (remapPa r line)
  | w => w

def Arch.remapped (r : Remap) (a : Arch) : Arch := { a with monitor := a.monitor.map (remapPa r) }

def Thread.remapped (r : Remap) (t : Thread) : Thread :=
  { t with
    a := t.a.remapped r
    chunk := { t.chunk with start := t.chunk.start.remapped r }
    status := match t.status with | .waiting w => .waiting (w.remapped r) | st => st }

def OutEff.remapped (r : Remap) : OutEff → OutEff
  | .write pa data => .write (remapPa r pa) data
  | e => e

def HeldOut.remapped (r : Remap) (h : HeldOut) : HeldOut := { h with eff := h.eff.remapped r }

/-- A logged write from outside to a page that has moved. -/
def LogEnt.remapped (r : Remap) (e : LogEnt) : LogEnt :=
  match e.identity, e.seq, e.values with
  | [], 0, v :: vs => { e with values := BitVec.ofNat 64 (remapPa r v.toNat) :: vs }
  | _, _, _ => e

/-- An image with its pages, and the addresses that it holds, in their new places. -/
def Ckpt.remapped (r : Remap) (ck : Ckpt) : Ckpt :=
  { ck with
    cells := ck.cells.map (fun c => (remapPa r c.1, c.2))
    resident := ck.resident.map (Thread.remapped r)
    work := { ck.work with
      saved := ck.work.saved.map (Thread.remapped r)
      qs := ck.work.qs.map (fun q => { q with tailPa := q.tailPa.map (remapPa r), statusPa := q.statusPa.map (remapPa r) }) }
    views := { ck.views with
      versions := ck.views.versions.map (fun v => { v with line := remapPa r v.line })
      reserved := ck.views.reserved.map (fun x => (x.1, remapPa r x.2))
      dirty := ck.views.dirty.map (fun d => (d.1, d.2.1, d.2.2.1, remapPa r d.2.2.2.1, d.2.2.2.2)) }
    held := ck.held.map (HeldOut.remapped r) }

/-- Registers that name places of a partition's memory: its areas, and the areas and kill stamps of its contexts (R445, R454). -/
def areaRegs (s : State) (p : Nat) : List Nat :=
  [pdAddr p 2, pdAddr p 3, pdAddr p 5] ++ (s.sys.ctl.map (fun e => e.1)).filter (fun o =>
    decide (0x40000 ≤ o ∧ o < 0x80000) && [4, 6, 7].contains (o % 0x40 / 8) && cdPart s ((o - 0x40000) / 0x40) == p)

/-- The areas, the log and the held effects of a partition follow its pages (notes/assumptions/78.md). -/
def moveAreas (s : State) (p : Nat) (r : Remap) : State :=
  let s1 := (areaRegs s p).foldl (fun s o => ctlSet s o (BitVec.ofNat 64 (remapPa r (ctlGet s o).toNat))) s
  let eff (h : HeldOut) : HeldOut := if h.part = p then h.remapped r else h
  { s1 with rep := { s1.rep with
    log := s1.rep.log.map (fun e => if e.part = p then e.remapped r else e)
    held := s1.rep.held.map eff, done := s1.rep.done.map eff } }

/-- Bytes of page tables that the supervisor has written for a remap, in memory that the partition still has. -/
def putTables (s : State) (p : Nat) (tables : List Host.Cell) : State :=
  { s with mem := { s.mem with cells := cellsPutAll s.mem.cells (tables.filter (fun c => paInPart s p c.1 && !deadPa s c.1)) } }

/-- Every thread, request, message and engine command of a partition removed (R440 step 1). -/
def clearPart (s : State) (p : Nat) (ck : Ckpt) : State :=
  let mine (uid : Nat) : Bool := (threads s ++ s.wk.saved).any (fun t => t.status != .vacant && t.part == p && t.uid == uid)
  let out : Nat → Bool := fun c => !inPart s p c
  { s with
    th := if s.th.part = p ∧ s.th.status ≠ .vacant then { Thread.vacant with core := s.th.core, slot := s.th.slot } else s.th
    rest := s.rest.filter (fun t => t.part ≠ p)
    mem := { s.mem with
      tlb := s.mem.tlb.filter (fun e => out e.cl), l1tlb := s.mem.l1tlb.filter (fun e => out (clusterOf e.1))
      wcache := s.mem.wcache.filter (fun e => !dieInPart s p e.die), poisoned := s.mem.poisoned.filter (fun l => !paInPart s p l) }
    coh := { s.coh with
      l1 := s.coh.l1.filter (fun l => !coreInPart s p l.core)
      dir := s.coh.dir.filter (fun d => !paInPart s p d.line)
      reqs := s.coh.reqs.filter (fun r => !mine r.uid)
      watches := s.coh.watches.filter (fun w => !mine w.uid)
      waiters := s.coh.waiters.filter (fun w => !mine w.uid)
      pinHolder := s.coh.pinHolder.filter (fun h => h.1 ≠ p)
      pinQueue := s.coh.pinQueue.filter (fun h => h.1 ≠ p)
      posted := s.coh.posted.filter (fun x => x.part ≠ p || ck.posted.contains x)
      net := s.coh.net.filter (fun m => !sentFrom s p m || (!sentTo s p m && ck.net.contains m)) ++
        ck.net.filter (fun m => sentFrom s p m && sentTo s p m) }
    eng := selEng out s.eng
    wk := selWork (fun x => x != p) out (fun q => !queueInPart s p q) s.wk
    vw := selViews (fun x => x != p) out s.vw
    sys := { s.sys with
      ticketQueue := s.sys.ticketQueue.filter (fun u => !mine u), kills := s.sys.kills.filter (fun k => cdPart s k.ctx ≠ p) }
    agenda := s.agenda.filter (fun e => match eventWrites e with | some pa => !paInPart s p pa | none => true) }

/-- The image put back: memory, threads in state blocks, queues, views and engines (R212, R440 step 2). -/
def putImage (s : State) (p : Nat) (ck : Ckpt) : State :=
  let rest := s.mem.cells.filter (fun c => !paInPart s p c.1)
  let off (a : Alloc) : Alloc := { a with resident := false, due := [], asked := [] }
  let work := { ck.work with allocs := ck.work.allocs.map off, saved := ck.work.saved.map imageOf ++ ck.resident }
  let eng := { ck.eng with cc := ck.eng.cc.map (fun e => (e.1, { e.2 with resident := false })) }
  let s1 : State := { s with
    mem := { s.mem with cells := cellsPutAll rest ck.cells }
    eng := addEng s.eng eng
    wk := addWork s.wk work
    vw := addViews s.vw ck.views }
  ck.resident.foldl (fun s t => (takeBlock s p t.blockLen (.thread t.uid)).getD s) s1

/-- What stands behind an image in the log: its incomplete successors go, effects held since are dropped, and those released since are not
released again (R439, R441). -/
def putEffects (s : State) (p : Nat) (ck : Ckpt) : State :=
  { s with
    rep := { s.rep with
      stopping := s.rep.stopping.filter (fun x => x ≠ p)
      ckpts := s.rep.ckpts.filter (fun c => c.part ≠ p || c.complete)
      held := s.rep.held.filter (fun h => h.part ≠ p || ck.held.contains h)
      skips := s.rep.skips.filter (fun h => h.part ≠ p) ++
        (ck.held.foldl (fun (l : List HeldOut) h => match l.find? (fun x => x.eff = h.eff) with | some x => l.erase x | none => l)
          ((s.rep.done.drop ck.doneLen).filter (fun h => h.part = p)))
      rollbacks := Assoc.set s.rep.rollbacks p (Assoc.getD s.rep.rollbacks p 0 + 1) } }

/-- The heads of the partition's queues as they were at the cut (R195). -/
def putHeads (s : State) (ck : Ckpt) : State :=
  ck.work.qs.foldl (fun s e => ctlPut s (qtAddr e.queue 5) 63 32 (e.head % 2 ^ 32)) s

/-- The shares of a die without live clusters are reissued to the survivors (R195). -/
def reissueShares (s : State) (p : Nat) : State :=
  let lost (g : Range) : Bool := (launchOf s g.lnum).any (fun l => l.part == p) && clustersOn s p g.place == 0
  { s with wk := { s.wk with shares := s.wk.shares.flatMap (fun g =>
      if lost g then divide g.lnum (dieShares s p g.units) g.first g.count else [g]) } }

/-- The steps that carry a restored partition on. -/
def resumePart (s : State) (p : Nat) (ck : Ckpt) : State :=
  let back (s : State) (u : Thread) : State :=
    match s.wk.saved.find? (fun t => t.uid = u.uid) with
    | none => s
    | some t =>
      (match t.status with
        | .running => if listed s t.uid then s else pushResume s (homeCluster t) (savedRec s t t.boundCore t.crew.isSome)
        | .waiting _ => postOnce s (.wakeConditionMet t.uid)
        | _ => s)
  let watch (s : State) (u : Thread) : State :=
    match u.a.monitor with
    | some line => { s with coh := { s.coh with
        watches := s.coh.watches ++ [{ line := line, uid := u.uid, ref := stampOf s line, forced := true, fresh := false }] } }
    | none => s
  let s1 := (ck.resident ++ ck.work.saved.filter (fun t => t.status ≠ .running)).foldl back s
  let s2 := (ck.resident ++ ck.work.saved).foldl watch s1
  let mine (cl : Nat) : Bool := inPart s p cl
  let s3 := postAll s2 (((s2.eng.fifo.filter (fun c => mine c.cl)).map (fun c => startEvent c.cl c.core c.word c.ovld)) ++
    ((s2.eng.active.filter (fun c => mine c.cl)).map (fun c =>
      if c.finished then Event.commandCompletion c.cl c.id else Event.channelResume c.cl c.id)) ++
    ((s2.eng.mcasts.filter (fun m => mine m.sub)).map (fun m => Event.multicastDelivery m.cl m.cmd (m.sub * 32 + m.entry))) ++
    ((s2.eng.farMcasts.filter (fun m => mine m.cl && !m.sent)).map (fun m => Event.farMulticastSend m.dev m.id)) ++
    (ck.net.map (fun _ => Event.messageArrival 0)) ++
    ((ck.views.forks.filter (fun f => f.choice.isSome)).map (fun f => Event.choiceEvent f.id)) ++
    ((s2.eng.subs.filter (fun e => mine e.cl && !e.joined)).map (fun e => Event.multicastJoin e.cl e.entry)) ++
    (ck.work.launches.map (fun l => Event.launchCompletion l.lnum)))
  rescan (((clustersOf s p)).foldl offer s3) p

/-- What fenced clusters hold goes to live ones, one after the other (R96 step 4). -/
def fencedMoves (s : State) (p : Nat) (live : List Nat) : MoveMap :=
  ((clustersOf s p).filter (fun c => s.coh.fencedCl.contains c)).zipIdx.map (fun e => (2048 + e.1, live.getD (e.2 % live.length) 0))

/-- The log of a partition from an image on is replayed (R440 step 4). -/
def startReplay (s : State) (p : Nat) (ck : Ckpt) : State :=
  let fin := logLength s p
  replayInputs (fin + 1) (resumePart { s with rep := { s.rep with replay := Assoc.set s.rep.replay p (ck.logPos, fin) } } p ck) p

/-- The rollback of a partition (R440): the state is the last checkpoint's, pages of a fenced die stand where the supervisor has remapped them
(R98), what fenced clusters held stands on live ones (R96), and the log from the checkpoint on is replayed. Crews that find no entry on
their successor are moved by later RESIZE_COMPLETE steps (R412 step 5). -/
def rollbackTo (s : State) (p : Nat) (ck : Ckpt) (live : List Nat) (r : Remap) (tables : List Host.Cell) : State :=
  let ck' := ck.remapped r
  let s1 := ctlCount (reportDiscards s p) (pcRoll p) 1
  let s2 := putEffects (putImage (clearPart (moveAreas s1 p r) p ck') p ck') p ck'
  let s3 := putTables (putHeads s2 ck') p tables
  let m := fencedMoves s p live
  let s4 := reissueShares (moveAll s3 m) p
  let s5 : State := { s4 with
    rep := { s4.rep with moving := (if (crewsLeft s4 m).isEmpty then [] else [(p, m)]) ++ s4.rep.moving.filter (fun x => x.1 ≠ p) }
    agenda := s4.agenda.filter (fun e => match e with | .rollback q _ _ => q != p | _ => true) }
  startReplay (if (crewsLeft s5 m).isEmpty then s5 else post s5 (.resizeComplete p)) p ck'

/-- A rollback that waits: the partition's threads stop, and the step comes again. -/
def rollbackWaits (s : State) (p : Nat) (remap : Remap) (tables : List Host.Cell) : State :=
  post { s with rep := { s.rep with stopping := p :: s.rep.stopping.filter (fun x => x ≠ p) } } (.rollback p remap tables)

/-- A partition rolls back, or its job is interrupted: no image, no live cluster, a third rollback to one checkpoint. It waits while pages
of a fenced die are not remapped. -/
def rollbackAt (s : State) (p : Nat) (remap : Remap) (tables : List Host.Cell) : State :=
  let r := validRemap s p remap
  if !pdValid s p || s.sys.interrupted.contains p then s
  else match lastCkpt s p, liveClusters s p with
    | some ck, live :: more =>
      if 2 ≤ Assoc.getD s.rep.rollbacks p 0 then interruptJob s p
      else if imageBlocked s p ck || !covers s r ck then rollbackWaits s p remap tables
      else rollbackTo s p ck (live :: more) r tables
    | _, _ => interruptJob s p

/-- The buddy's copy of a partition is lost: until it holds another checkpoint, a loss of the partition's data interrupts the job (R440). -/
def copyLostAt (s : State) (p : Nat) : State :=
  { s with rep := { s.rep with ckpts := s.rep.ckpts.filter (fun c => c.part ≠ p || !c.complete) } }

/-- ROLLBACK (R440), or the loss of the copy that it would restore. -/
def execRollback (s : State) : Out :=
  match s.now with
  | some (.copyLost p) => .next (copyLostAt { s with now := none } p)
  | some (.rollback p remap tables) => .next (rollbackAt { s with now := none } p remap tables)
  | _ => .next s

/-! ### A partition that replays a checkpoint (R442) -/

/-- Whether an image may be placed in a partition just created: it is of a partition of this number, lies in the resources that the partition
has, and no handle, fork, view tag or launch number of it is in use (notes/assumptions/55.md). -/
def restorable (s : State) (p : Nat) (r : Restore) : Bool :=
  let ck := r.ckpt
  let ts := ck.resident ++ ck.work.saved
  let used := (threads s ++ s.wk.saved).filter (fun t => t.status ≠ .vacant)
  ck.part == p && ck.complete && decide (ck.logPos ≤ r.log.length) && r.log.all (fun e => e.part == p) &&
    ck.cells.all (fun c => paInPart s p c.1 && !deadPa s c.1) &&
    ts.all (fun t => t.part == p && t.status != .vacant && t.uid != 0 && used.all (fun u => u.uid != t.uid)) && decide ((ts.map (fun t => t.uid)).Nodup) &&
    decide (selEng (inPart s p) ck.eng = ck.eng ∧ selViews (fun x => x == p) (inPart s p) ck.views = ck.views) &&
    decide (selWork (fun x => x == p) (inPart s p) (queueInPart s p) ck.work = ck.work) &&
    ck.views.forks.all (fun f => s.vw.forks.all (fun g => g.id != f.id)) && !imageBlocked s p ck

/-- Numbers that are given out from here on are not the image's. -/
def pastImage (s : State) (ck : Ckpt) : State :=
  let ts := ck.resident ++ ck.work.saved
  { s with
    wk := { s.wk with nextUid := ts.foldl (fun n t => max n (t.uid + 1)) s.wk.nextUid }
    eng := { s.eng with nextId := (ck.eng.fifo ++ ck.eng.active).foldl (fun n c => max n (c.id + 1)) s.eng.nextId }
    vw := { s.vw with nextFork := ck.views.forks.foldl (fun n f => max n (f.id + 1)) s.vw.nextFork } }

/-- A partition just created takes a checkpoint's image and its log, which it replays; effects held at the checkpoint are discarded (R442). -/
def restorePart (s : State) (p : Nat) (r : Restore) : State :=
  let ck : Ckpt := { r.ckpt with held := [], posted := [], net := r.ckpt.net.filter (fun m => sentFrom s p m && sentTo s p m) }
  let s1 := putHeads (putImage (pastImage s ck) p ck) ck
  let s2 : State := { s1 with
    coh := { s1.coh with net := s1.coh.net ++ ck.net }
    rep := { s1.rep with
      log := s1.rep.log.filter (fun e => e.part ≠ p) ++ r.log, ckpts := s1.rep.ckpts.filter (fun c => c.part ≠ p)
      held := s1.rep.held.filter (fun h => h.part ≠ p), skips := s1.rep.skips.filter (fun h => h.part ≠ p)
      replayParts := p :: s1.rep.replayParts.filter (fun x => x ≠ p) } }
  startReplay s2 p ck

/-- IO_DIE_FAILURE (R3, R440): every job of the device is interrupted. -/
def execIoDieFailure (s : State) : Out :=
  match s.now with
  | some (.ioDieFailure _) => .next (((List.range 20).filter (pdValid s)).foldl interruptJob { s with now := none })
  | _ => .next s

end Sys2Proof.Machine
end

