-- ==== Sys2Proof/Machine/Boot.lean ====
section
/-! DEFINITION. Boot.lean: the measured boot and its attestation (R461), with SHA-256 (R461 names the function; its definition is FIPS 180-4's,
notes/assumptions/15.md). -/

namespace Sys2Proof.Machine

/-! ### SHA-256 -/

abbrev W32 := BitVec 32

/-- The 64 round constants. -/
def shaK : List W32 := [
  0x428a2f98#32, 0x71374491#32, 0xb5c0fbcf#32, 0xe9b5dba5#32, 0x3956c25b#32, 0x59f111f1#32, 0x923f82a4#32, 0xab1c5ed5#32,
  0xd807aa98#32, 0x12835b01#32, 0x243185be#32, 0x550c7dc3#32, 0x72be5d74#32, 0x80deb1fe#32, 0x9bdc06a7#32, 0xc19bf174#32,
  0xe49b69c1#32, 0xefbe4786#32, 0x0fc19dc6#32, 0x240ca1cc#32, 0x2de92c6f#32, 0x4a7484aa#32, 0x5cb0a9dc#32, 0x76f988da#32,
  0x983e5152#32, 0xa831c66d#32, 0xb00327c8#32, 0xbf597fc7#32, 0xc6e00bf3#32, 0xd5a79147#32, 0x06ca6351#32, 0x14292967#32] ++ [
  0x27b70a85#32, 0x2e1b2138#32, 0x4d2c6dfc#32, 0x53380d13#32, 0x650a7354#32, 0x766a0abb#32, 0x81c2c92e#32, 0x92722c85#32,
  0xa2bfe8a1#32, 0xa81a664b#32, 0xc24b8b70#32, 0xc76c51a3#32, 0xd192e819#32, 0xd6990624#32, 0xf40e3585#32, 0x106aa070#32,
  0x19a4c116#32, 0x1e376c08#32, 0x2748774c#32, 0x34b0bcb5#32, 0x391c0cb3#32, 0x4ed8aa4a#32, 0x5b9cca4f#32, 0x682e6ff3#32,
  0x748f82ee#32, 0x78a5636f#32, 0x84c87814#32, 0x8cc70208#32, 0x90befffa#32, 0xa4506ceb#32, 0xbef9a3f7#32, 0xc67178f2#32]

/-- The initial hash value. -/
def shaInit : List W32 :=
  [0x6a09e667#32, 0xbb67ae85#32, 0x3c6ef372#32, 0xa54ff53a#32, 0x510e527f#32, 0x9b05688c#32, 0x1f83d9ab#32, 0x5be0cd19#32]

/-- The message schedule, latest word first; `n` words to come. -/
def shaSchedule : Nat → List W32 → List W32
  | 0, ws => ws
  | n + 1, ws =>
    let a := ws.getD 1 0
    let b := ws.getD 14 0
    let s1 := a.rotateRight 17 ^^^ a.rotateRight 19 ^^^ a >>> 10
    let s0 := b.rotateRight 7 ^^^ b.rotateRight 18 ^^^ b >>> 3
    shaSchedule n ((s1 + ws.getD 6 0 + s0 + ws.getD 15 0) :: ws)

/-- One round on the eight working words. -/
def shaRound (h : List W32) (kw : W32 × W32) : List W32 :=
  let a := h.getD 0 0
  let e := h.getD 4 0
  let t1 := h.getD 7 0 + (e.rotateRight 6 ^^^ e.rotateRight 11 ^^^ e.rotateRight 25) +
    ((e &&& h.getD 5 0) ^^^ (~~~e &&& h.getD 6 0)) + kw.1 + kw.2
  let t2 := (a.rotateRight 2 ^^^ a.rotateRight 13 ^^^ a.rotateRight 22) +
    ((a &&& h.getD 1 0) ^^^ (a &&& h.getD 2 0) ^^^ (h.getD 1 0 &&& h.getD 2 0))
  [t1 + t2, a, h.getD 1 0, h.getD 2 0, h.getD 3 0 + t1, e, h.getD 5 0, h.getD 6 0]

/-- One block of 16 words. -/
def shaBlock (h block : List W32) : List W32 :=
  List.zipWith (· + ·) h ((shaK.zip (shaSchedule 48 block.reverse).reverse).foldl shaRound h)

/-- A number as `n` bytes, most significant first. -/
def beBytes (n x : Nat) : List Byte := (leBytes n x).reverse

/-- The 16 words of a block of 64 bytes. -/
def shaWords (b : List Byte) : List W32 := (List.range 16).map (fun i => BitVec.ofNat 32 (leNat ((b.drop (4 * i)).take 4).reverse))

/-- `n` blocks of a padded message. -/
def shaBlocks : Nat → List W32 → List Byte → List W32
  | 0, h, _ => h
  | n + 1, h, b => shaBlocks n (shaBlock h (shaWords (b.take 64))) (b.drop 64)

/-- A message padded to whole blocks. -/
def shaPad (m : List Byte) : List Byte := m ++ 0x80#8 :: List.replicate ((119 - m.length % 64) % 64) 0 ++ beBytes 8 (8 * m.length)

/-- SHA-256 of a byte string. -/
def sha256 (m : List Byte) : BitVec 256 :=
  (shaBlocks ((m.length + 72) / 64) shaInit (shaPad m)).foldl (fun x w => x <<< 32 ||| w.setWidth 256) 0

/-- SHA-256 of two 32-byte values, one after the other. -/
def sha256Pair (a b : BitVec 256) : BitVec 256 := sha256 (beBytes 32 a.toNat ++ beBytes 32 b.toNat)

/-! ### Boot -/

/-- A measurement register extended with the digest of stage `i`. -/
def extend (s : State) (i : Nat) (d : BitVec 256) : State :=
  let r := (Config.measureRegister i).val
  { s with sys := { s.sys with measure := s.sys.measure.set r (sha256Pair (s.sys.measure.getD r 0) d) } }

/-- Firmware stages: first stage, I/O-die firmware, compute-die firmware, Sillage microcode. -/
def bootStages : Nat := 4

/-- Whether a stage verifies: its key is the one whose digest is fused, and its signature over the image's digest holds. -/
def stageHolds (b : BootStage) : Bool := sha256 b.key == Config.fusedKeyDigest && Config.signatureHolds b.key (sha256 b.image) b.signature

/-- The stages from `i` on, `n` of them: each is measured and verified before it runs. -/
def bootFrom : Nat → Nat → List BootStage → State → State
  | 0, _, _, s => { s with sys := { s.sys with boot := .booted } }
  | _ + 1, _, [], s => { s with sys := { s.sys with boot := .recovery } }
  | n + 1, i, b :: bs, s =>
    let s1 := extend s i (sha256 b.image)
    if stageHolds b then bootFrom n (i + 1) bs s1 else { s1 with sys := { s1.sys with boot := .recovery } }

/-- An access to the firmware-update window: it answers the physical function, in recovery state too; what it answers, and what a write of it
does, the spec does not give (notes/assumptions/15.md). -/
def firmwareAt (s : State) (fn : HostFn) : State :=
  if fn = .pf ∧ s.sys.boot ≠ .off then giveAnswer (tickFree s) (.firmware (freeWord s)) else giveAnswer s .refused

/-- An attestation report asked by the host: the measurement registers and its nonce, signed (R461). In recovery state, and before boot, only
the firmware-update window answers. -/
def attestAt (s : State) (nonce : BitVec 256) : State :=
  giveAnswer s (if s.sys.boot = .booted then .report s.sys.measure nonce (Config.attest s.sys.measure nonce) else .refused)

/-- BOOT (R461): with the stages that are there; or an access to the firmware-update window, or a report of what was measured. -/
def execBoot (s : State) : Out :=
  match s.now with
  | some (.boot stages) =>
    let s1 : State := { s with now := none }
    .next (if s.sys.boot = .off then bootFrom bootStages 0 stages s1 else s1)
  | some (.firmwareUpdate fn _) => .next (firmwareAt { s with now := none } fn)
  | some (.attestation nonce) => .next (attestAt { s with now := none } nonce)
  | _ => .next s

end Sys2Proof.Machine
end

