-- ==== Sys2Proof/Machine/Control.lean ====
section
/-! DEFINITION. Control.lean: branches, calls, `exit` and `nop` (R265, R271, R296-R303). -/

namespace Sys2Proof.Machine

/-- pc + 4 × offset of a form B or C branch (R268, R271). -/
def branchTo (s : State) (off : Word) : Word := s.th.a.pc + (off <<< 2)

/-- A branch taken when a test of the operand values holds (R297, R300, R301). -/
def branchIf (os : List Opnd) (c : State → Bool) (off : Word) (s : State) : Out :=
  simple os .drop (do let s ← get; pure (if c s then .jump (branchTo s off) else .seq)) s

/-- BZ (R297). -/
def execBz (a : Opnd) (off : BitVec 16) (s : State) : Out := branchIf [a] (fun s => opnd s a == 0) (off.signExtend 64) s

/-- JMP (R297). -/
def execJmp (off : BitVec 16) (s : State) : Out := branchIf [] (fun _ => true) (off.signExtend 64) s

/-- BNZ (R297). -/
def execBnz (a : Opnd) (off : BitVec 16) (s : State) : Out := branchIf [a] (fun s => opnd s a != 0) (off.signExtend 64) s

/-- A call: the return address is pushed, queue only, and the branch is taken (R298, R301). -/
def callTo (off : Word) (s : State) : Out :=
  simple [] .drop (do
    let s ← get
    set (pushResult s .push (nextPc s) 1)
    pure (.jump (branchTo s off))) s

/-- CALL (R298). -/
def execCall (off : BitVec 16) (s : State) : Out := callTo (off.signExtend 64) s

/-- A branch target must be a multiple of 4 (R265, R401); its fault reports access descriptor 0 (DESIGN CHOICE, notes/assumptions/10.md). -/
def checkTarget (a : Opnd) : M Unit := do
  let s ← get
  if (opnd s a).toNat % 4 ≠ 0 then trapM 0x06 0x02 (opnd s a) 0 0 else pure ()

/-- A branch to the address in a register (R299). -/
def jumpReg (a : Opnd) (s : State) : Out :=
  perform (do
    checks [a] [] .drop (checkTarget a)
    let s ← get
    pure (.jump (opnd s a))) s

/-- JMPR (R299). -/
def execJmpr (a : Opnd) (s : State) : Out := jumpReg a s

/-- RET (R299). -/
def execRet (a : Opnd) (s : State) : Out := jumpReg a s

/-- CALLR (R298). -/
def execCallr (d : Dest) (a : Opnd) (s : State) : Out :=
  perform (do
    checks [a] [] d (checkTarget a)
    let s ← get
    set (pushResult s d (nextPc s) 1)
    pure (.jump (opnd s a))) s

/-- BCC_EQ (R300). -/
def execBccEq (a b : Opnd) (off : BitVec 10) (s : State) : Out :=
  branchIf [a, b] (fun s => opnd s a == opnd s b) (off.signExtend 64) s

/-- BCC_NE (R300). -/
def execBccNe (a b : Opnd) (off : BitVec 10) (s : State) : Out :=
  branchIf [a, b] (fun s => opnd s a != opnd s b) (off.signExtend 64) s

/-- BCC_LT_S (R300). -/
def execBccLtS (a b : Opnd) (off : BitVec 10) (s : State) : Out :=
  branchIf [a, b] (fun s => decide ((opnd s a).toInt < (opnd s b).toInt)) (off.signExtend 64) s

/-- BCC_LT_Z (R300). -/
def execBccLtZ (a b : Opnd) (off : BitVec 10) (s : State) : Out :=
  branchIf [a, b] (fun s => decide ((opnd s a).toNat < (opnd s b).toNat)) (off.signExtend 64) s

/-- A long branch on a relation of two operands that may name K (R301). -/
def branchLong (r : Word → Word → Bool) (a b : OpndK) (k : IWord) (s : State) : Out :=
  branchIf (regsOf [a, b]) (fun s => r (opndK s a k) (opndK s b k)) (k.signExtend 64) s

/-- BCC_EQ_LONG (R301). -/
def execBccEqLong (a b : OpndK) (k : IWord) (s : State) : Out := branchLong (fun x y => x == y) a b k s

/-- BCC_NE_LONG (R301). -/
def execBccNeLong (a b : OpndK) (k : IWord) (s : State) : Out := branchLong (fun x y => x != y) a b k s

/-- BCC_LT_S_LONG (R301). -/
def execBccLtSLong (a b : OpndK) (k : IWord) (s : State) : Out := branchLong (fun x y => decide (x.toInt < y.toInt)) a b k s

/-- BCC_LT_Z_LONG (R301). -/
def execBccLtZLong (a b : OpndK) (k : IWord) (s : State) : Out := branchLong (fun x y => decide (x.toNat < y.toNat)) a b k s

/-- BCC_GE_S (R301). -/
def execBccGeS (a b : OpndK) (k : IWord) (s : State) : Out := branchLong (fun x y => decide (y.toInt ≤ x.toInt)) a b k s

/-- BCC_GE_Z (R301). -/
def execBccGeZ (a b : OpndK) (k : IWord) (s : State) : Out := branchLong (fun x y => decide (y.toNat ≤ x.toNat)) a b k s

/-- BZ_LONG (R301). -/
def execBzLong (a : OpndK) (k : IWord) (s : State) : Out :=
  branchIf (regsOf [a]) (fun s => opndK s a k == 0) (k.signExtend 64) s

/-- BNZ_LONG (R301). -/
def execBnzLong (a : OpndK) (k : IWord) (s : State) : Out :=
  branchIf (regsOf [a]) (fun s => opndK s a k != 0) (k.signExtend 64) s

/-- JMP_LONG (R301). -/
def execJmpLong (k : IWord) (s : State) : Out := branchIf [] (fun _ => true) (k.signExtend 64) s

/-- CALL_LONG (R301). -/
def execCallLong (k : IWord) (s : State) : Out := callTo (k.signExtend 64) s

/-- NOP (R303). -/
def execNop (s : State) : Out := simple [] .drop (pure .seq) s

/-- EXIT (R302): posted stores first; a thread at a handler level logs the trap that brought it there (R395). -/
def execExit (s : State) : Out :=
  singleOp [] [] .drop (notInView 4) (do
    let s ← get
    if s.coh.posted.any (fun p => p.uid = s.th.uid) then throw (.wait .posted)
    else
      let t := s.th
      let b := if t.a.level = 1 then t.kern else t.supv
      let s1 := passSingle (advance s t.a.pc) (lcOf s t.core + 1)
      let s2 := if t.a.level = 0 then s1 else logFault s1 t.lnum (bankTrap b) b.pc t.core t.index
      set (endThread s2)
      pure .gone) s

end Sys2Proof.Machine
end

