-- ==== Sys2Proof/Machine/Convert.lean ====
section
/-! DEFINITION. Convert.lean: the conversions (R316, R317). -/

namespace Sys2Proof.Machine

/-- FCVT (R316). -/
def execFcvt (d : Dest) (a : Opnd) (dst src : FFmt) (rm : Rm) (ov : Ovf) (s : State) : Out :=
  fpOp [a] d 4 (fun s => valFcvt dst src (rmOf s.th.a rm) ov (opnd s a)) s

/-- FCVTI (R316). -/
def execFcvti (d : Dest) (a : Opnd) (dst : IFmt) (src : FFmt) (rm : Rm) (s : State) : Out :=
  fpOp [a] d 4 (fun s => valFcvti dst src (rmOf s.th.a rm) (opnd s a)) s

/-- ICVTF (R316). -/
def execIcvtf (d : Dest) (a : Opnd) (dst : FFmt) (src : IFmt) (rm : Rm) (ov : Ovf) (s : State) : Out :=
  fpOp [a] d 4 (fun s => valIcvtf dst src (rmOf s.th.a rm) ov (opnd s a)) s

/-- FPK8 (R317). -/
def execFpk8 (d : Dest) (a b c : Opnd) (dst : B8) (src : FF4) (rm : Rm) (ov : Ovf) (s : State) : Out :=
  fpOp [a, b, c] d 4 (fun s => valFpk8 dst src (rmOf s.th.a rm) ov (opnd s a) (opnd s b) (opnd s c)) s

/-- FUPK8 (R317). -/
def execFupk8 (d : Dest) (a b : Opnd) (dst : FF4) (src : B8) (rm : Rm) (s : State) : Out :=
  fpOp [a, b] d 4 (fun s => valFupk8 dst src (rmOf s.th.a rm) (opnd s a) (opnd s b)) s

end Sys2Proof.Machine
end

