-- ==== Sys2Proof/Machine/Float.lean ====
section
/-! DEFINITION. Float.lean: the floating-point instructions (R305-R315). -/

namespace Sys2Proof.Machine

/-- FADD (R305). -/
def execFadd (d : Dest) (a b : Opnd) (fm : FF4) (r : Rm4) (s : State) : Out :=
  fp2r valFadd 4 d a b (.ieee fm) (rmOfShort r) .sat s

/-- FADD_LONG (R314). -/
def execFaddLong (d : Dest) (a b : Opnd) (fm : FFmt) (rm : Rm) (ov : Ovf) (s : State) : Out :=
  fp2r valFadd 4 d a b fm rm ov s

/-- FSUB (R305). -/
def execFsub (d : Dest) (a b : Opnd) (fm : FF4) (r : Rm4) (s : State) : Out :=
  fp2r valFsub 4 d a b (.ieee fm) (rmOfShort r) .sat s

/-- FSUB_LONG (R314). -/
def execFsubLong (d : Dest) (a b : Opnd) (fm : FFmt) (rm : Rm) (ov : Ovf) (s : State) : Out :=
  fp2r valFsub 4 d a b fm rm ov s

/-- FMUL (R305). -/
def execFmul (d : Dest) (a b : Opnd) (fm : FF4) (r : Rm4) (s : State) : Out :=
  fp2r valFmul 4 d a b (.ieee fm) (rmOfShort r) .sat s

/-- FMUL_LONG (R314). -/
def execFmulLong (d : Dest) (a b : Opnd) (fm : FFmt) (rm : Rm) (ov : Ovf) (s : State) : Out :=
  fp2r valFmul 4 d a b fm rm ov s

/-- FDIV (R305). -/
def execFdiv (d : Dest) (a b : Opnd) (fm : FF4) (r : Rm4) (s : State) : Out :=
  fp2r valFdiv 0 d a b (.ieee fm) (rmOfShort r) .sat s

/-- FDIV_LONG (R314). -/
def execFdivLong (d : Dest) (a b : Opnd) (fm : FFmt) (rm : Rm) (ov : Ovf) (s : State) : Out :=
  fp2r valFdiv 0 d a b fm rm ov s

/-- FSCALB (R311). -/
def execFscalb (d : Dest) (a b : Opnd) (fm : FF4) (r : Rm4) (s : State) : Out :=
  fp2r valFscalb 4 d a b (.ieee fm) (rmOfShort r) .sat s

/-- FSCALB_LONG (R314). -/
def execFscalbLong (d : Dest) (a b : Opnd) (fm : FFmt) (rm : Rm) (ov : Ovf) (s : State) : Out :=
  fp2r valFscalb 4 d a b fm rm ov s

/-- FSQRT (R305). -/
def execFsqrt (d : Dest) (a : Opnd) (fm : FF4) (r : Rm4) (s : State) : Out :=
  fp1r valFsqrt 0 d a (.ieee fm) (rmOfShort r) .sat s

/-- FSQRT_LONG (R314). -/
def execFsqrtLong (d : Dest) (a : Opnd) (fm : FFmt) (rm : Rm) (ov : Ovf) (s : State) : Out :=
  fp1r valFsqrt 0 d a fm rm ov s

/-- FRINT (R310). -/
def execFrint (d : Dest) (a : Opnd) (fm : FF4) (r : Rm4) (s : State) : Out :=
  fp1r (valFrint false) 4 d a (.ieee fm) (rmOfShort r) .sat s

/-- FRINT_LONG (R310). -/
def execFrintLong (d : Dest) (a : Opnd) (fm : FFmt) (rm : Rm) (ov : Ovf) (s : State) : Out :=
  fp1r (valFrint false) 4 d a fm rm ov s

/-- FRINT_X (R310). -/
def execFrintX (d : Dest) (a : Opnd) (fm : FFmt) (rm : Rm) (ov : Ovf) (s : State) : Out :=
  fp1r (valFrint true) 4 d a fm rm ov s

/-- FREM (R305). -/
def execFrem (d : Dest) (a b : Opnd) (fm : FF4) (s : State) : Out := fp2 valFrem 0 d a b (.ieee fm) s

/-- FREM_LONG (R314). -/
def execFremLong (d : Dest) (a b : Opnd) (fm : FFmt) (s : State) : Out := fp2 valFrem 0 d a b fm s

/-- FMIN (R307). -/
def execFmin (d : Dest) (a b : Opnd) (fm : FF4) (s : State) : Out := fp2 (valMinMax false false) 4 d a b (.ieee fm) s

/-- FMIN_LONG (R314). -/
def execFminLong (d : Dest) (a b : Opnd) (fm : FFmt) (s : State) : Out := fp2 (valMinMax false false) 4 d a b fm s

/-- FMAX (R307). -/
def execFmax (d : Dest) (a b : Opnd) (fm : FF4) (s : State) : Out := fp2 (valMinMax true false) 4 d a b (.ieee fm) s

/-- FMAX_LONG (R314). -/
def execFmaxLong (d : Dest) (a b : Opnd) (fm : FFmt) (s : State) : Out := fp2 (valMinMax true false) 4 d a b fm s

/-- FMINN (R307). -/
def execFminn (d : Dest) (a b : Opnd) (fm : FF4) (s : State) : Out := fp2 (valMinMax false true) 4 d a b (.ieee fm) s

/-- FMINN_LONG (R314). -/
def execFminnLong (d : Dest) (a b : Opnd) (fm : FFmt) (s : State) : Out := fp2 (valMinMax false true) 4 d a b fm s

/-- FMAXN (R307). -/
def execFmaxn (d : Dest) (a b : Opnd) (fm : FF4) (s : State) : Out := fp2 (valMinMax true true) 4 d a b (.ieee fm) s

/-- FMAXN_LONG (R314). -/
def execFmaxnLong (d : Dest) (a b : Opnd) (fm : FFmt) (s : State) : Out := fp2 (valMinMax true true) 4 d a b fm s

/-- FSGN_J (R309). -/
def execFsgnJ (d : Dest) (a b : Opnd) (fm : FF4) (s : State) : Out := fp2 (valFsgn (fun _ y => y)) 4 d a b (.ieee fm) s

/-- FSGN_J_LONG (R314). -/
def execFsgnJLong (d : Dest) (a b : Opnd) (fm : FFmt) (s : State) : Out := fp2 (valFsgn (fun _ y => y)) 4 d a b fm s

/-- FSGN_N (R309). -/
def execFsgnN (d : Dest) (a b : Opnd) (fm : FF4) (s : State) : Out := fp2 (valFsgn (fun _ y => !y)) 4 d a b (.ieee fm) s

/-- FSGN_N_LONG (R314). -/
def execFsgnNLong (d : Dest) (a b : Opnd) (fm : FFmt) (s : State) : Out := fp2 (valFsgn (fun _ y => !y)) 4 d a b fm s

/-- FSGN_X (R309). -/
def execFsgnX (d : Dest) (a b : Opnd) (fm : FF4) (s : State) : Out := fp2 (valFsgn xor) 4 d a b (.ieee fm) s

/-- FSGN_X_LONG (R314). -/
def execFsgnXLong (d : Dest) (a b : Opnd) (fm : FFmt) (s : State) : Out := fp2 (valFsgn xor) 4 d a b fm s

/-- FCLASS (R309). -/
def execFclass (d : Dest) (a : Opnd) (fm : FF4) (s : State) : Out := fp1 valFclass 4 d a (.ieee fm) s

/-- FCLASS_LONG (R314). -/
def execFclassLong (d : Dest) (a : Opnd) (fm : FFmt) (s : State) : Out := fp1 valFclass 4 d a fm s

/-- FLOGB (R312). -/
def execFlogb (d : Dest) (a : Opnd) (fm : FF4) (s : State) : Out := fp1 valFlogb 4 d a (.ieee fm) s

/-- FLOGB_LONG (R314). -/
def execFlogbLong (d : Dest) (a : Opnd) (fm : FFmt) (s : State) : Out := fp1 valFlogb 4 d a fm s

/-- FNEXT_UP (R313). -/
def execFnextUp (d : Dest) (a : Opnd) (fm : FF4) (s : State) : Out := fp1 (valFnext true) 4 d a (.ieee fm) s

/-- FNEXT_UP_LONG (R314). -/
def execFnextUpLong (d : Dest) (a : Opnd) (fm : FFmt) (s : State) : Out := fp1 (valFnext true) 4 d a fm s

/-- FNEXT_DN (R313). -/
def execFnextDn (d : Dest) (a : Opnd) (fm : FF4) (s : State) : Out := fp1 (valFnext false) 4 d a (.ieee fm) s

/-- FNEXT_DN_LONG (R314). -/
def execFnextDnLong (d : Dest) (a : Opnd) (fm : FFmt) (s : State) : Out := fp1 (valFnext false) 4 d a fm s

/-- FCMP (R308). -/
def execFcmp (d : Dest) (a b : Opnd) (fm : FF4) (c : Cmp4) (s : State) : Out :=
  fp2 (fun fm x y => valFcmp fm (Cmp4.toCmp8 c) x y) 4 d a b (.ieee fm) s

/-- FCMP_LONG (R308). -/
def execFcmpLong (d : Dest) (a b : Opnd) (fm : FFmt) (c : Cmp8) (s : State) : Out :=
  fp2 (fun fm x y => valFcmp fm c x y) 4 d a b fm s

/-- FMA (R306). -/
def execFma (d : Dest) (a b c : Opnd) (fm : FFmt) (rm : Rm) (ov : Ovf) (s : State) : Out := fused false false d a b c fm rm ov s

/-- FMS (R306). -/
def execFms (d : Dest) (a b c : Opnd) (fm : FFmt) (rm : Rm) (ov : Ovf) (s : State) : Out := fused false true d a b c fm rm ov s

/-- FNMA (R306). -/
def execFnma (d : Dest) (a b c : Opnd) (fm : FFmt) (rm : Rm) (ov : Ovf) (s : State) : Out := fused true true d a b c fm rm ov s

/-- FNMS (R306). -/
def execFnms (d : Dest) (a b c : Opnd) (fm : FFmt) (rm : Rm) (ov : Ovf) (s : State) : Out := fused true false d a b c fm rm ov s

end Sys2Proof.Machine
end

