-- ==== Sys2Proof/Machine/Host.lean ====
section
/-! DEFINITION. Host.lean: the steps of the host link, of partitions, of the fabric and of message arrival (R73, R126-R128, R352-R354,
R412, R413, R443-R458, R476). -/

namespace Sys2Proof.Machine

/-! ### Host accesses (R128, R443) -/

/-- The partition whose memory a function reaches: any for the physical function. -/
def fnPart (s : State) : HostFn → Option Nat
  | .pf => none
  | .vf v => some (vfPart s v)
  | .supervisor p => some p

/-- Whether a function is there. -/
def fnThere (s : State) : HostFn → Bool
  | .pf => true
  | .vf v => vfActive s v && pdValid s (vfPart s v)
  | .supervisor p => pdValid s p

/-- The partition that holds a PA, as a function sees it: none where the access is refused (a hole, another partition's stack, die or
cluster, another device). -/
def hostPart (s : State) (fn : HostFn) (pa : Nat) : Option Nat :=
  let ok (p : Nat) : Bool := match fnPart s fn with | some q => p == q | none => true
  if !isLocal s pa || !fnThere s fn then none
  else (List.range 20).find? (fun p => ok p && (match region (paLocal pa) with
    | .hbm st => pdValid s p && bitAt (pdStacks s p) st
    | .weight d => dieInPart s p d
    | .scratch c => inPart s p c
    | _ => false))

def isWeight (pa : Nat) : Bool := match region (paLocal pa) with | .weight _ => true | _ => false

/-- Whether an access lies within one line. -/
def oneLine (pa n : Nat) : Bool := 0 < n && pa % 64 + n ≤ 64

/-- The weight store is refused in run state, and its writes in stopped state too (R73, R443, R448). -/
def weightRefused (s : State) (p pa : Nat) (write : Bool) : Bool :=
  isWeight pa && (pdState s p == 1 || pdState s p == 3 || (write && pdState s p == 0))

def isControl (pa : Nat) : Bool := region (paLocal pa) == .control

/-- Whether a PA lies in a granule of a context that is switched out, which nothing writes (R80). -/
def granuleOut (s : State) (pa : Nat) : Bool :=
  match region (paLocal pa) with
  | .scratch c =>
    s.wk.allocs.any (fun a => a.cl == c && !a.resident && a.present.any (fun e => e.2 == (paLocal pa - scratchPa c 0) / granuleBytes))
  | _ => false

/-- Whether a line is in a state to be written from outside: not held at its home, its bank not in its refresh window, its partition not in
replay, which its own log feeds, and no granule of a context that is switched out. -/
def outsideReady (s : State) (p pa : Nat) : Bool :=
  (replayOf s p).isNone && !lineHeld s (lineOf pa) && canHomeWrite s (lineOf pa) && !windowWaits s (lineOf pa) && !granuleOut s pa

/-- A masked write from outside performed at a home or bank, and recorded (R115, R128, R438). -/
def outsideWrite (s : State) (p pa : Nat) (data : List (Option Byte)) : State :=
  let st := max (stampOf s (lineOf pa)) (clockOf s linkClock) + 1
  logInput (bumpClock (homeOpAt s pa (.write data) st).2 linkClock st) p pa data

/-- Whether the link has delivered a write before this one of the same window or work queue that is not yet performed (R128). -/
def hostBehind (s : State) (win place : Nat) : Bool :=
  s.agenda.any (fun e => match e with
    | .hostWrite _ w n _ _ => w == win && decide (n < place)
    | _ => false)

/-- A host write (R443): the writes of one window or work queue are performed in the order in which the link delivers them (R128). -/
def hostWriteAt (s : State) (fn : HostFn) (win place pa : Nat) (data : List (Option Byte)) : State :=
  if s.sys.boot ≠ .booted then giveAnswer s .writeRefused
  else if isControl pa && hostBehind s win place then post s (.hostWrite fn win place pa data)
  else if isControl pa then
    if !isLocal s pa || data.length ≠ 8 || data.any Option.isNone then giveAnswer s .writeRefused
    else (ctlWriteAs s fn (paLocal pa - controlBase) (BitVec.ofNat 64 (leNat (data.map (fun b => b.getD 0))))).getD (giveAnswer s .writeRefused)
  else match hostPart s fn pa with
    | none => giveAnswer s .writeRefused
    | some p =>
      if !oneLine pa data.length || weightRefused s p pa true || replayPart s p then giveAnswer s .writeRefused
      else if hostBehind s win place then post s (.hostWrite fn win place pa data)
      else if !outsideReady s p pa then post (prepareLine s (lineOf pa) (linkAgent win)) (.hostWrite fn win place pa data)
      else outsideWrite s p pa data

/-- HOST_WRITE (R443). -/
def execHostWrite (s : State) : Out :=
  match s.now with
  | some (.hostWrite fn win place pa data) => .next (hostWriteAt { s with now := none } fn win place pa data)
  | _ => .next s

/-- A host read (R443): the committed bytes, once the log behind them is acknowledged (R439). -/
def hostReadAt (s : State) (fn : HostFn) (pa size : Nat) : State :=
  if s.sys.boot ≠ .booted then giveAnswer s .readRefused
  else if isControl pa then
    if !isLocal s pa || size ≠ 8 then giveAnswer s .readRefused
    else match ctlReadAs s fn (paLocal pa - controlBase) with
      | (some v, s1) => giveAnswer s1 (.value v)
      | (none, s1) => giveAnswer s1 .readRefused
  else match hostPart s fn pa with
    | none => giveAnswer s .readRefused
    | some p =>
      if !oneLine pa size || weightRefused s p pa false then giveAnswer s .readRefused
      else if replayPart s p then giveAnswer s (.bytes (homeBytes s pa size))
      else if (replayOf s p).isSome || lineHeld s (lineOf pa) || windowWaits s (lineOf pa) then post s (.hostRead fn pa size)
      else emit s p (.bytes (homeBytes s pa size))

/-- HOST_READ (R443). -/
def execHostRead (s : State) : Out :=
  match s.now with
  | some (.hostRead fn pa size) => .next (hostReadAt { s with now := none } fn pa size)
  | _ => .next s

/-- Bytes that an operation reaches. -/
def opBytes : HomeOp → Nat
  | .read n => n
  | .write data => data.length
  | .amo w _ _ => amoBits w / 8
  | .cas w _ _ => amoBits w / 8
  | .sync .. => 8

/-- Whether an operation has an answer. -/
def opAnswers : HomeOp → Bool
  | .write _ => false
  | _ => true

/-- An operation from outside performed at its home, recorded as the write that it makes; its answer leaves the partition. -/
def outsideOp (s : State) (p pa : Nat) (op : HomeOp) : State :=
  let st := max (stampOf s (lineOf pa)) (clockOf s linkClock) + 1
  let r := homeOpAt s pa op st
  let w := (homeOpResult s pa op).2
  let s1 := bumpClock r.2 linkClock st
  let s2 := if w.isEmpty then s1 else logInput s1 p pa w
  if opAnswers op then emit s2 p (.bytes r.1) else s2

/-- The status with which an operation from outside is refused (R443): one that gives an answer as a read. -/
def opRefused (op : HomeOp) : HostAns := if opAnswers op then .readRefused else .writeRefused

/-- A sequenced host operation (R128): it takes the next ticket, once those before it are performed; a replay partition takes none (R442). -/
def hostSequencedAt (s : State) (fn : HostFn) (pa : Nat) (op : HomeOp) : State :=
  if s.sys.boot ≠ .booted then giveAnswer s (opRefused op)
  else match hostPart s fn pa with
    | none => giveAnswer s (opRefused op)
    | some p =>
      if pa % opBytes op ≠ 0 && opAnswers op || !oneLine pa (opBytes op) || weightRefused s p pa (opWrites op) || replayPart s p then giveAnswer s (opRefused op)
      else if !s.sys.ticketQueue.isEmpty then post s (.hostSequencedOperation fn pa op)
      else if !outsideReady s p pa then post (prepareLine s (lineOf pa) (linkAgent 0)) (.hostSequencedOperation fn pa op)
      else markPerformed (outsideOp { s with sys := { s.sys with ticket := s.sys.ticket + 1 } } p pa op) (homeOf pa) s.sys.ticket

/-- HOST_SEQUENCED_OPERATION (R128). -/
def execHostSequencedOperation (s : State) : Out :=
  match s.now with
  | some (.hostSequencedOperation fn pa op) => .next (hostSequencedAt { s with now := none } fn pa op)
  | _ => .next s

/-! ### Registers of device control space (R10, R444-R454, R476) -/

/-- A write of a register by a function; a refused one is answered. -/
def registerWriteAt (s : State) (fn : HostFn) (off : Nat) (v : Word) : State := (ctlWriteAs s fn off v).getD (giveAnswer s .writeRefused)

/-- REGISTER_WRITE (R10). -/
def execRegisterWrite (s : State) : Out :=
  match s.now with
  | some (.registerWrite fn off v) => .next (registerWriteAt { s with now := none } fn off v)
  | _ => .next s

/-- COUNTER_CLEAR_WRITE (R447): a register that is no counter is left. -/
def execCounterClearWrite (s : State) : Out :=
  match s.now with
  | some (.counterClearWrite fn off v) =>
    let s1 : State := { s with now := none }
    .next (match ctlBlock off with
      | .part _ o => if 0x400 ≤ o ∧ o < 0x428 then registerWriteAt s1 fn off v else s1
      | .link _ _ => registerWriteAt s1 fn off v
      | .counters _ => registerWriteAt s1 fn off v
      | .hole => registerWriteAt s1 fn off v
      | _ => s1)
  | _ => .next s

/-- ROUTE_TABLE_WRITE (R476). -/
def execRouteTableWrite (s : State) : Out :=
  match s.now with
  | some (.routeTableWrite fn off v) =>
    let s1 : State := { s with now := none }
    .next (match ctlBlock off with
      | .part _ o => if 0xc00 ≤ o then registerWriteAt s1 fn off v else s1
      | .hole => registerWriteAt s1 fn off v
      | _ => s1)
  | _ => .next s

/-- CONTEXT_DESCRIPTOR_VALIDATE (R454): by the physical function. -/
def execContextDescriptorValidate (s : State) : Out :=
  match s.now with
  | some (.contextDescriptorValidate ctx v) =>
    let s1 : State := { s with now := none }
    .next (if s.sys.boot = .booted ∧ ctx < 4096 then contextWriteAt s1 ctx v else giveAnswer s1 .refused)
  | _ => .next s

/-- QUEUE_EN_WRITE (R452): by the physical function. -/
def execQueueEnWrite (s : State) : Out :=
  match s.now with
  | some (.queueEnWrite q v) =>
    let s1 : State := { s with now := none }
    .next (if s.sys.boot = .booted ∧ q < 65536 then queueEnWriteAt s1 q v else giveAnswer s1 .refused)
  | _ => .next s

/-- A partition created to replay a checkpoint (R442): one that its image does not fit is refused as a descriptor of R446 is. -/
def replayCreateAt (s : State) (p : Nat) (v : Word) (r : Restore) : State :=
  let s1 := partitionCreateAt s p v
  if pdValid s p then s
  else if !pdValid s1 p then s1
  else if restorable s1 p r then restorePart s1 p r
  else ctlPut s (pdAddr p 0) 0 0 0

/-- PARTITION_CREATE (R442, R446): by the physical function. -/
def execPartitionCreate (s : State) : Out :=
  match s.now with
  | some (.partitionCreate p v from_) =>
    let s1 : State := { s with now := none }
    .next (if s.sys.boot = .booted ∧ p < 20 then
        (match from_ with
          | none => partitionCreateAt s1 p v
          | some r => replayCreateAt s1 p v r)
      else giveAnswer s1 .refused)
  | _ => .next s

/-! ### State transitions (R446, R448) -/

/-- STATE_WRITE_RUN (R448). -/
def execStateWriteRun (s : State) : Out :=
  match s.now with
  | some (.stateWriteRun p) => .next (stateWriteAt { s with now := none } p 1)
  | _ => .next s

/-- STATE_WRITE_STOPPED (R448). -/
def execStateWriteStopped (s : State) : Out :=
  match s.now with
  | some (.stateWriteStopped p) => .next (stateWriteAt { s with now := none } p 0)
  | _ => .next s

/-- STATE_WRITE_LOAD (R448). -/
def execStateWriteLoad (s : State) : Out :=
  match s.now with
  | some (.stateWriteLoad p) => .next (stateWriteAt { s with now := none } p 2)
  | _ => .next s

/-- Whether a partition has no resident thread and no engine command (R448 steps 2 and 3). -/
def drained (s : State) (p : Nat) : Bool :=
  (threads s).all (fun t => t.status == .vacant || t.part != p) && (s.eng.fifo ++ s.eng.active).all (fun c => c.part != p)

/-- A transition ends: the settled state, and the interrupts. -/
def settle (s : State) (p st : Nat) : State :=
  stateInterrupt (setPdState { s with sys := { s.sys with transitions := s.sys.transitions.filter (fun t => t.1 ≠ p) } } p st) p

/-- A transition out of run state goes on: once drained it ends, a stop after its checkpoint. -/
def stateTransitionAt (s : State) (p : Nat) : State :=
  let again := post s (.stateTransitionComplete p)
  match Assoc.get s.sys.transitions p with
  | none => s
  | some .toLoad => if drained s p then settle s p 2 else again
  | some .toStopped =>
    if drained s p && cutReady s p && (replayOf s p).isNone && !rollbackDue s p then
      let s0 := cleanPart s p
      if cutReady s0 p then
        let s1 := captureAt s0 p
        post { s1 with sys := { s1.sys with transitions := Assoc.set s1.sys.transitions p (.captured (nextSeqno s p)) } } (.stateTransitionComplete p)
      else post s0 (.stateTransitionComplete p)
    else again
  | some (.captured n) => if s.rep.ckpts.any (fun c => c.part = p ∧ c.seqno = n ∧ c.complete) then settle s p 0 else again

/-- STATE_TRANSITION_COMPLETE (R446). -/
def execStateTransitionComplete (s : State) : Out :=
  match s.now with
  | some (.stateTransitionComplete p) => .next (stateTransitionAt { s with now := none } p)
  | _ => .next s

/-! ### Resizing (R412, R413) -/

/-- The entries of a successor map that name a core or cluster of the partition and a successor there. -/
def validMoves (s : State) (p : Nat) (m : MoveMap) : MoveMap :=
  m.filter (fun e =>
    if 2048 ≤ e.1 then inPart s p (e.1 - 2048) && inPart s p (e.2 % 2048) && (Assoc.get m (2048 + e.2 % 2048)).isNone
    else coreInPart s p e.1 && coreInPart s p e.2 && !movesCore m e.2)

/-- RSMAP_WRITE (R412): the affected clusters stop admitting and their threads are evicted; one resize of a partition at a time. -/
def rsmapWriteAt (s : State) (p : Nat) (v : Word) (m : MoveMap) : State :=
  if !pdValid s p then s
  else if s.sys.resizes.any (fun r => r.1 = p) then post s (.rsmapWrite p v m)
  else
    let m' := validMoves s p m
    let s1 : State := { s with sys := { s.sys with resizes := (p, m') :: s.sys.resizes } }
    post (markThreads (ctlPut s1 (pdAddr p 10) 0 0 0) (fun t => t.part == p && affects m' (clusterOf t.core))) (.resizeComplete p)

def execRsmapWrite (s : State) : Out :=
  match s.now with
  | some (.rsmapWrite p v m) => .next (rsmapWriteAt { s with now := none } p v m)
  | _ => .next s

/-- Whether the affected clusters hold no thread and the moved cores no command (R412 steps 2 and 4). -/
def movesDrained (s : State) (m : MoveMap) : Bool :=
  (threads s).all (fun t => t.status == .vacant || !affects m (clusterOf t.core)) && (s.eng.fifo ++ s.eng.active).all (fun c => !movesCore m c.core)

/-- What a completed resize leaves: names redirected, the moved cores and clusters removed, RSDONE and the interrupt. -/
def endResize (s : State) (p : Nat) (m : MoveMap) : State :=
  let gone := (List.range 2048).filter (movesCore m)
  let s1 : State := { s with
    sys := { s.sys with
      resizes := s.sys.resizes.filter (fun r => r.1 ≠ p)
      redirect := gone.map (fun c => (c, coreTo m c)) ++
        (s.sys.redirect.filter (fun e => !gone.contains e.1)).map (fun e => (e.1, coreTo m e.2))
      removed := (m.map (fun e => e.1)) ++ s.sys.removed }
    coh := { s.coh with l1 := s.coh.l1.filter (fun l => !movesCore m l.core) }
    mem := { s.mem with
      tlb := s.mem.tlb.filter (fun e => !movesCl m e.cl), l1tlb := s.mem.l1tlb.filter (fun e => !movesCore m e.1) } }
  stateInterrupt (rescan (reissueShares (ctlPut s1 (pdAddr p 10) 0 0 1) p) p) p

/-- The crews that a rollback has left on fenced clusters take entries on their successors, as such become free (R412 step 5). -/
def movingAt (s : State) (p : Nat) : State :=
  match Assoc.get s.rep.moving p with
  | none => s
  | some m =>
    let s1 := (crewsLeft s m).foldl (moveCrew m) s
    if (crewsLeft s1 m).isEmpty then { s1 with rep := { s1.rep with moving := Assoc.erase s1.rep.moving p } } else post s1 (.resizeComplete p)

/-- Whether a write-back or other write of the moved cores is still on its way. -/
def movesWriting (s : State) (m : MoveMap) : Bool := (List.range 2048).any (fun c => movesCore m c && coreWritesPending s c)

/-- A resize completes once its threads have left, its commands have ended and what their L1s held is at the homes, and every crew has an
entry; until then it comes again. -/
def resizeCompleteAt (s : State) (p : Nat) : State :=
  match Assoc.get s.sys.resizes p with
  | none => movingAt s p
  | some m =>
    if !movesDrained s m then post s (.resizeComplete p)
    else
      let s0 := cleanL1 s (movesCore m)
      if movesWriting s0 m then post s0 (.resizeComplete p)
      else
        let s1 := moveAll s0 m
        if (crewsLeft s1 m).isEmpty then endResize s1 p m else post s1 (.resizeComplete p)

/-- RESIZE_COMPLETE (R413). -/
def execResizeComplete (s : State) : Out :=
  match s.now with
  | some (.resizeComplete p) => .next (resizeCompleteAt { s with now := none } p)
  | _ => .next s

/-! ### Routes and the fabric (R455-R458, R476) -/

/-- The LIVE bit of a route set or cleared by the device; its own entry stays. -/
def setLive (s : State) (p dev live : Nat) : State :=
  if dev = ownDev s ∨ 1024 ≤ dev then s else ctlPut s (p * 0x1000 + 0xc00 + dev / 8 * 8) (dev % 8 * 8 + 7) (dev % 8 * 8 + 7) live

/-- ROUTE_LOSS (R476). -/
def execRouteLoss (s : State) : Out :=
  match s.now with
  | some (.routeLoss p dev) => .next (setLive { s with now := none } p dev 0)
  | _ => .next s

/-- ROUTE_RETURN (R476). -/
def execRouteReturn (s : State) : Out :=
  match s.now with
  | some (.routeReturn p dev) => .next (setLive { s with now := none } p dev 1)
  | _ => .next s

def isRoute : Wait → Bool
  | .route _ => true
  | _ => false

/-- The virtual function whose access is held for want of a route (R458): of a thread, of a posted write of a thread, of an engine's command,
which the number of its cluster's engine names. -/
def heldFn (s : State) (uid : Nat) : Option Nat :=
  match (anyThread s uid).filter (fun t => waitsIn t isRoute) with
  | some t => some t.vf
  | none =>
    match s.eng.active.find? (fun c => engineClock c.cl = uid ∧ c.route.isSome) with
    | some c => some c.vf
    | none => ((s.coh.posted.find? (fun p => p.uid = uid ∧ !routeLive s p.part p.dev)).bind (fun p => launchOf s p.lnum)).map (fun l => l.vf)

/-- An access held for 1 ms (R458): its function is told. -/
def unreachableAt (s : State) (uid : Nat) : State :=
  match heldFn s uid with
  | some v => vfInterrupt s v 6
  | none => s

/-- UNREACHABLE_TIMEOUT (R458). -/
def execUnreachableTimeout (s : State) : Out :=
  match s.now with
  | some (.unreachableTimeout uid) => .next (unreachableAt { s with now := none } uid)
  | _ => .next s

/-- A request from another device (R455): performed only where the partition that holds the PA has the requester's job. -/
def fabricRequestAt (s : State) (dev job pa : Nat) (op : HomeOp) : State :=
  match (if isLocal s pa then partOfLine s pa else none) with
  | none => giveAnswer s (opRefused op)
  | some p =>
    if pdJob s p ≠ job || replayPart s p || !oneLine pa (opBytes op) || (opWrites op && isWeight pa) then giveAnswer s (opRefused op)
    else if !outsideReady s p pa then post (prepareLine s (lineOf pa) (linkAgent dev)) (.fabricRequest dev job pa op)
    else
      let n := opBytes op
      (linkCount (outsideOp s p pa op) p (if opAnswers op then n else 0) (if opWrites op then n else 0)).2

/-- FABRIC_REQUEST (R455). -/
def execFabricRequest (s : State) : Out :=
  match s.now with
  | some (.fabricRequest dev job pa op) => .next (fabricRequestAt { s with now := none } dev job pa op)
  | some (.farTlbinv _ job kind va ctx) => .next (farTlbinvAt { s with now := none } job kind.val va ctx)
  | _ => .next s

/-! ### Messages (R133, R352-R354) -/

/-- Whether a message's sender is outside the partition of its target. -/
def fromOutside (s : State) (m : Mesg) : Bool :=
  m.srcDev != ownDev s || partOfCl s (clusterOf m.src) != partOfCl s (clusterOf m.core)

/-- Whether a message of a dead incarnation is dropped (R97); another device's is checked there. -/
def staleMesg (s : State) (m : Mesg) : Bool := m.srcDev == ownDev s && !freshAnswer s m.cl m.inc

/-- Whether what a message's sender has logged before it is acknowledged (R439). -/
def sendAcked (s : State) (m : Mesg) : Bool :=
  m.srcDev != ownDev s || (partOfCl s (clusterOf m.src)).elim true (fun p => ackedTo s p m.upTo)

/-- Whether a message may leave the package: its sender's log acknowledged (R439), and a route live (R458). -/
def mayDepart (s : State) (m : Mesg) : Bool :=
  sendAcked s m && (partOfCl s (clusterOf m.src)).elim true (fun p => routeLive s p m.dev)

/-- Whether a message is an effect that a replay partition discards (R442). -/
def discarded (s : State) (m : Mesg) : Bool :=
  m.srcDev == ownDev s && (partOfCl s (clusterOf m.src)).any (replayPart s) && (m.dev != ownDev s || fromOutside s m)

/-- Whether a message may enter its mailbox now: room, the context switched in (R352), the sender's log acknowledged where it leaves its
partition (R439), and no replay that its own log feeds (R441, R442). -/
def mayArrive (s : State) (m : Mesg) : Bool :=
  let c := ccOf s m.core m.ctx
  c.resident && decide ((c.boxes.filter (fun b => b.box = m.box)).length < 4) &&
    (!fromOutside s m ||
      (((partOfCl s (clusterOf m.core)).elim true (fun p => (replayOf s p).isNone && !replayPart s p)) && sendAcked s m))

/-- Whether an earlier message of the same thread to the same mailbox is still in the network (R354). -/
def behind (before : List Mesg) (m : Mesg) : Bool :=
  before.any (fun x => x.uid == m.uid && x.srcDev == m.srcDev && x.dev == m.dev && x.core == m.core && x.ctx == m.ctx && x.box == m.box)

/-- Whether a message goes on now: into its mailbox, or out of the package. -/
def mayMove (s : State) (m : Mesg) : Bool := if m.dev = ownDev s then mayArrive s m else mayDepart s m

/-- The first message, from a place in the network on, that is dropped or may go on. -/
def nextArrival (s : State) (pos : Nat) : Option Mesg :=
  ((List.range s.coh.net.length).drop pos).findSome? (fun i =>
    match s.coh.net[i]? with
    | some m => if staleMesg s m || discarded s m || (!behind (s.coh.net.take i) m && mayMove s m) then some m else none
    | none => none)

/-- Length code of a message. -/
def lenCode (m : Mesg) : Nat := m.data.length / 16 - 1

/-- A message enters its mailbox; from outside the partition it is recorded, and for its sender it has left (R438, R439). -/
def arrive1 (s : State) (m : Mesg) : State :=
  let s1 : State := { s with coh := { s.coh with net := s.coh.net.erase m } }
  let s2 := putMsg s1 m.core m.ctx { box := m.box, dev := m.srcDev, core := m.src, data := m.data, rel := m.rel, scope := m.scope, stamp := m.stamp }
  let s3 := silPost s2 5 m.core m.ctx (cdVf s m.ctx) none 0 0 [BitVec.ofNat 64 m.box, BitVec.ofNat 64 (lenCode m), BitVec.ofNat 64 m.src, BitVec.ofNat 64 m.srcDev]
  if !fromOutside s m then s3
  else
    let s4 := match partOfCl s (clusterOf m.core) with
      | some p => logOutside s3 p 1 m.stamp (msgWords m)
      | none => s3
    match (if m.srcDev = ownDev s then partOfCl s (clusterOf m.src) else none) with
    | some q => noteOut s4 q (.send m.dev m.core m.box m.data)
    | none => s4

/-- A message leaves for another device, whose mailboxes are there (R352, R439). -/
def leave1 (s : State) (m : Mesg) : State :=
  let s1 : State := { s with coh := { s.coh with net := s.coh.net.erase m } }
  match (if m.srcDev = ownDev s then partOfCl s (clusterOf m.src) else none) with
  | some q => noteOut s1 q (.send m.dev m.core m.box m.data)
  | none => s1

/-- MESSAGE_ARRIVAL (R352, R354): while messages are in the network the step comes again. -/
def messageArrivalAt (s : State) (pos : Nat) : State :=
  match nextArrival s pos with
  | none => if s.coh.net.isEmpty then s else postOnce s (.messageArrival 0)
  | some m =>
    let s1 := if staleMesg s m then
        ctlCount { s with coh := { s.coh with net := s.coh.net.erase m } } (cntAddr (0x2000 + 8 * dieOf (clusterOf m.core))) 1
      else if discarded s m then { s with coh := { s.coh with net := s.coh.net.erase m } }
      else if m.dev = ownDev s then arrive1 s m
      else leave1 s m
    if s1.coh.net.isEmpty then s1 else postOnce s1 (.messageArrival 0)

def execMessageArrival (s : State) : Out :=
  match s.now with
  | some (.messageArrival pos) => .next (messageArrivalAt { s with now := none } pos)
  | _ => .next s

end Sys2Proof.Machine
end

