-- ==== Sys2Proof/Machine/LongAcc.lean ====
section
/-! DEFINITION. LongAcc.lean: long accumulators (R243-R247, R318-R320). -/

namespace Sys2Proof.Machine

/-! ### The object -/

/-- A long accumulator's value (R243): BASE, the five sticky bits in header bits [5:1], and the signed window W. -/
structure LongAcc where
  base : Int
  sticky : Nat
  w : Int
  deriving DecidableEq, Repr

def laNan : Nat := 8
def laPinf : Nat := 16
def laNinf : Nat := 32
def laLost : Nat := 4
def laOvf : Nat := 2

/-- The object from its 136 bytes as a number. -/
def LongAcc.read (n : Nat) : LongAcc :=
  { base := signed 12 (bits n 19 8), sticky := bits n 5 1 * 2, w := signed 1024 (n / 2 ^ 64) }

/-- The 136 bytes of an object; reserved header bits are zero. -/
def LongAcc.bytes (l : LongAcc) : List Byte :=
  leBytes 8 (l.sticky + (l.base % 2 ^ 12).toNat * 2 ^ 8) ++ leBytes 128 (l.w % 2 ^ 1024).toNat

/-- Addition of (-1)^neg × m × 2^e (R244). -/
def LongAcc.addFin (l : LongAcc) (neg : Bool) (m : Nat) (e : Int) : LongAcc :=
  let k := e - l.base
  let mag : Nat := if 0 ≤ k then m * 2 ^ k.toNat else m / 2 ^ (-k).toNat
  let lost : Nat := if 0 ≤ k then 0 else if m % 2 ^ (-k).toNat = 0 then 0 else laLost
  let sum : Int := l.w + (if neg then -(mag : Int) else mag)
  let ovf : Nat := if -(2 ^ 1023 : Int) ≤ sum ∧ sum < 2 ^ 1023 then 0 else laOvf
  { base := l.base, sticky := l.sticky ||| lost ||| ovf, w := signed 1024 (sum % 2 ^ 1024).toNat }

/-- Addition of a binary64 value or an exact product (R244, R245). -/
def LongAcc.add (l : LongAcc) : Ex → LongAcc
  | .nan _ => { l with sticky := l.sticky ||| laNan }
  | .inf neg => { l with sticky := l.sticky ||| (if neg then laNinf else laPinf) }
  | .fin neg m e _ => l.addFin neg m e

/-- Addition of another object (R244). -/
def LongAcc.addAcc (l o : LongAcc) : LongAcc :=
  let r := l.addFin (decide (o.w < 0)) o.w.natAbs o.base
  { r with sticky := r.sticky ||| o.sticky }

/-- The value delivered by `xrnd` (R246). -/
def LongAcc.round (l : LongAcc) (rm : Rm) : FV :=
  let has (b : Nat) : Bool := l.sticky &&& b != 0
  if has laNan || (has laPinf && has laNinf) || has laOvf then invalidOf (.ieee .d)
  else if has laPinf then FV.pure (FFmt.withSign (.ieee .d) false (FFmt.infCode (.ieee .d)))
  else if has laNinf then FV.pure (FFmt.withSign (.ieee .d) true (FFmt.infCode (.ieee .d)))
  else finish (.ieee .d) rm .sat (ExF.ok (.fin (decide (l.w < 0)) l.w.natAbs l.base false))

/-! ### Checks and accesses (R319, R320) -/

/-- The offset of an object that lies wholly in a window of the own cluster. -/
def accOffset (s : State) (va : Word) : Option Nat :=
  match (if isWindow va.toNat then windowOf (clusterOf s.th.core) va.toNat else none) with
  | some (cl, off) => if cl = clusterOf s.th.core ∧ off + 136 ≤ scratchBytes then some off else none
  | none => none

/-- Alignment, and for an object in place the context's allocation. -/
def accEarly (kind : AccKind) (va : Word) : M Unit := do
  checkAlign va kind 3
  let s ← get
  match accOffset s va with
  | none => pure ()
  | some off =>
    match allocOf s (clusterOf s.th.core) (ctxOf s.th) with
    | some a => if a.size * 0x4000 < off + 136 then permissionM va kind 3 else pure ()
    | none => permissionM va kind 3

/-- The PAs of the object's 17 doublewords; an object out of place is misuse. -/
def accPas (va : Word) : M (List Nat) := do
  let s ← get
  match accOffset s va with
  | none => misuse 0x18 va
  | some off =>
    let rec go : Nat → Nat → M (List Nat)
      | 0, _ => pure []
      | n + 1, o => do
        let s ← get
        match scratchAt s (clusterOf s.th.core) (ctxOf s.th) o with
        | .ok p =>
          let rest ← go n (o + 8)
          pure (localPa s p :: rest)
        | .error (.hold w) => throw (.wait w)
        | .error (.fault sub lvl _) => trapM 0x07 sub va (accDesc .rmw 3 lvl) 0
    go 17 off

/-- Bytes of the object as the thread sees them (R108). -/
def accRead (s : State) (pas : List Nat) : Nat :=
  leNat (pas.flatMap (fun p => (List.range 8).map (fun i => winByte s (p + i))))

/-- The object written to the window store buffer, once every entry it needs is free (R320). -/
def accWrite (pas : List Nat) (bytes : List Byte) : M Unit := do
  let s ← get
  let lines := (pas.map lineOf).eraseDups
  let fresh := (lines.filter (fun l => !(bufLines s.th.chunk).contains l)).length
  let used := ((threads s).filter (fun t => t.core = s.th.core)).foldl (fun n t => n + (bufLines t.chunk).length) 0
  needRoom (decide (used + fresh ≤ 64))
  updChunk (fun c => { c with wstores := (pas.zipIdx).foldl (fun ws e => addBytes e.1 ((bytes.drop (8 * e.2)).take 8) ws) c.wstores })

/-- In a rival, an update of an object is seen outside (R320). -/
def accView (va : Word) : M Unit := do
  let s ← get
  if inView s then external 0x01 va else pure ()

/-- An instruction that updates the object at operand a. -/
def accUpdate (a : Opnd) (others : List Opnd) (kind : AccKind) (f : State → LongAcc → LongAcc) (s : State) : Out :=
  perform (do
    checks [a] others .drop (do
      let s ← get
      accEarly kind (opnd s a)
      accView (opnd s a))
    let s ← get
    let pas ← accPas (opnd s a)
    if kind = .write then pure () else notePoisons pas
    let s' ← get
    accWrite pas (f s (LongAcc.read (accRead s' pas))).bytes
    pure .seq) s

/-- XINIT (R244, R318): it clears all five sticky bits of R243, where R244 says four (DESIGN CHOICE, notes/assumptions/88.md). -/
def execXinit (a b : Opnd) (s : State) : Out :=
  accUpdate a [b] .write (fun s _ => { base := signed 12 ((opnd s b).bits 11 0), sticky := 0, w := 0 }) s

/-- XADD (R244, R245, R318). -/
def execXadd (a b : Opnd) (s : State) : Out :=
  accUpdate a [b] .rmw (fun s l => l.add (fread (.ieee .d) (opnd s b))) s

/-- XMAD (R244, R245, R318). -/
def execXmad (a b c : Opnd) (s : State) : Out :=
  accUpdate a [b, c] .rmw (fun s l => l.add (Ex.mul (fread (.ieee .d) (opnd s b)) (fread (.ieee .d) (opnd s c))).x) s

/-- A recipe that faults while a check of a higher priority fails too: the view-external fault of an update in a rival is delivered (R396,
R397). -/
def viewFirst (va : Word) (m : M Unit) : M Unit := fun s => match m s with
  | .error (.trap t) s' => if inView s then external 0x01 va s' else .error (.trap t) s'
  | r => r

/-- XADDN (R244, R318): object a is checked first, then object b (R319); b's recipe runs once the checks of a of a higher priority have
passed (R396, R397). -/
def execXaddn (a b : Opnd) (s : State) : Out :=
  perform (do
    declared [a, b] .drop
    softs [a]
    let s0 ← get
    accEarly .rmw (opnd s0 a)
    viewFirst (opnd s0 a) (softs [b])
    let s1 ← get
    if (accOffset s1 (opnd s1 a)).isSome then accEarly .read (opnd s1 b) else pure ()
    accView (opnd s1 a)
    stallCheck [a, b]
    let s ← get
    let pas ← accPas (opnd s a)
    let pbs ← accPas (opnd s b)
    notePoisons (pas ++ pbs)
    let s' ← get
    accWrite pas ((LongAcc.read (accRead s' pas)).addAcc (LongAcc.read (accRead s' pbs))).bytes
    pure .seq) s

/-- XRND (R246, R318). -/
def execXrnd (d : Dest) (a : Opnd) (rm : Rm) (s : State) : Out :=
  perform (do
    checks [a] [] d (do
      let s ← get
      accEarly .read (opnd s a))
    let s ← get
    let pas ← accPas (opnd s a)
    notePoisons pas
    let s' ← get
    fpFinish d ((LongAcc.read (accRead s' pas)).round (rmOf s.th.a rm)) 0) s

/-- XSTAT (R318). -/
def execXstat (d : Dest) (a : Opnd) (s : State) : Out :=
  perform (do
    checks [a] [] d (do
      let s ← get
      accEarly .read (opnd s a))
    let s ← get
    let pas ← accPas (opnd s a)
    notePoisons pas
    let s' ← get
    deliver d (BitVec.ofNat 64 (accRead s' pas % 2 ^ 20)) 0) s

end Sys2Proof.Machine
end

