-- ==== Sys2Proof/Machine/Recipe.lean ====
section
/-! DEFINITION. Recipe.lean: recording and binding recipes (R258-R260, R356-R358). Evaluation is in Operands.lean. -/

namespace Sys2Proof.Machine

/-- The operand fields of an instruction that a recipe may hold; none for any other (R260). -/
def recipeOps (i : Instr) : Option (List Opnd) :=
  match i with
  | .add _ a b | .sub _ a b | .mul _ a b | .mulhS _ a b | .mulhZ _ a b | .minS _ a b | .minZ _ a b | .maxS _ a b | .maxZ _ a b
    | .and _ a b | .or _ a b | .xor _ a b | .andn _ a b | .orn _ a b | .shl _ a b | .shr _ a b | .sar _ a b | .rotl _ a b
    | .cmpEq _ a b | .cmpNe _ a b | .cmpLtS _ a b | .cmpLtZ _ a b | .cmpLeS _ a b | .cmpLeZ _ a b | .crc8 _ a b | .crc16 _ a b
    | .crc32 _ a b | .crc64 _ a b | .bfxS _ a b | .bfxZ _ a b | .fadd _ a b _ _ | .faddLong _ a b _ _ _ | .fsub _ a b _ _
    | .fsubLong _ a b _ _ _ | .fmul _ a b _ _ | .fmulLong _ a b _ _ _ | .fdiv _ a b _ _ | .fdivLong _ a b _ _ _
    | .fscalb _ a b _ _ | .fscalbLong _ a b _ _ _ | .frem _ a b _ | .fremLong _ a b _ | .fmin _ a b _ | .fminLong _ a b _
    | .fmax _ a b _ | .fmaxLong _ a b _ | .fminn _ a b _ | .fminnLong _ a b _ | .fmaxn _ a b _ | .fmaxnLong _ a b _
    | .fsgnJ _ a b _ | .fsgnJLong _ a b _ | .fsgnN _ a b _ | .fsgnNLong _ a b _ | .fsgnX _ a b _ | .fsgnXLong _ a b _
    | .fcmp _ a b _ _ | .fcmpLong _ a b _ _ | .fupk8 _ a b _ _ _ => some [a, b]
  | .neg _ a | .abs _ a | .clz _ a | .ctz _ a | .popc _ a | .brev _ a | .bswap _ a | .sext8 _ a | .sext16 _ a | .sext32 _ a
    | .zext8 _ a | .zext16 _ a | .zext32 _ a | .addi _ a _ | .shli _ a _ | .shri _ a _ | .sari _ a _ | .lih _ a _ | .fsqrt _ a _ _
    | .fsqrtLong _ a _ _ _ | .frint _ a _ _ | .frintLong _ a _ _ _ | .frintX _ a _ _ _ | .fclass _ a _ | .fclassLong _ a _
    | .flogb _ a _ | .flogbLong _ a _ | .fnextUp _ a _ | .fnextUpLong _ a _ | .fnextDn _ a _ | .fnextDnLong _ a _
    | .fcvt _ a _ _ _ _ | .fcvti _ a _ _ _ | .icvtf _ a _ _ _ _ | .ld _ a _ _ | .ldf _ a _ _ => some [a]
  | .sel _ a b | .bfi _ a b => some [.q 0, a, b]
  | .addiLong _ a _ | .shliLong _ a _ | .shriLong _ a _ | .sariLong _ a _ | .lihLong _ a _ => some (regsOf [a])
  | .li _ _ | .lea _ _ | .liLong _ _ | .leaLong _ _ => some []
  | .fma _ a b c _ _ _ | .fms _ a b c _ _ _ | .fnma _ a b c _ _ _ | .fnms _ a b c _ _ _ | .fpk8 _ a b c _ _ _ _ => some [a, b, c]
  | _ => none

/-- Instructions that are microcoded, which no recipe holds (R260, R273). -/
def microcoded : Instr → Bool
  | .fdiv _ _ _ fm _ => fm == .d
  | .fsqrt _ _ fm _ => fm == .d
  | .frem .. => true
  | .fdivLong _ _ _ fm _ _ => fm == .ieee .d
  | .fsqrtLong _ _ fm _ _ => fm == .ieee .d
  | .fremLong .. => true
  | _ => false

/-- Whether the instruction at a position of a recipe passes (R260); `w` is its first word. -/
def recipeOk (t : Thread) (pos w : Nat) (i : Instr) : Bool :=
  match recipeOps i with
  | none => false
  | some os =>
    !microcoded i && bits w 21 16 == 0 && os.all (fun o => match o with
      | .q m => decide (m.val < pos)
      | .n k => decide (k.val < t.nreg) && !isSoft t k.val
      | _ => true)

/-- A word that `rcp.def` records; one that is not resident is instruction absent at it (R357, R401). -/
def recordWord (va : Word) : M Nat := do
  let s ← get
  match fetchWord s va.toNat with
  | some w => pure w
  | none => throw (.trap { trapOf s 0x04 0x03 va 0 0 with i3 := 0 })

/-- The instructions that follow a pc, each as its words. -/
def recordInstrs : Nat → Word → M (List (List Nat))
  | 0, _ => pure []
  | k + 1, pc => do
    let w ← recordWord pc
    if isLongWord w then
      let w2 ← recordWord (pc + 4)
      let rest ← recordInstrs k (pc + 8)
      pure ([w, w2] :: rest)
    else
      let rest ← recordInstrs k (pc + 4)
      pure ([w] :: rest)

/-- The words of one instruction are legal at a place of a recipe (R260). -/
def recordOk (t : Thread) (pos : Nat) (ws : List Nat) : Bool :=
  match decode ws with
  | .ok (i, _) => recipeOk t pos (ws.headD 0) i
  | .error _ => false

/-- The words of the `n` instructions from a pc on: an absent word comes before a bad recipe (R357, R396, R397). -/
def recordWords (n : Nat) (pc : Word) : M (List Nat) := do
  let is ← recordInstrs n pc
  let s ← get
  if is.zipIdx.all (fun p => recordOk s.th p.2 p.1) then pure is.flatten else illegal 8

/-- The recipe image of the thread's launch with an entry set: at once, and for good, also where the chunk is squashed or the rival dropped; the
image takes no byte of the queue area (DESIGN CHOICE, notes/assumptions/89.md). -/
def setRecipe (s : State) (r : Recipe) : State :=
  { s with wk := { s.wk with launches := s.wk.launches.map (fun l => if l.lnum = s.th.lnum then { l with recipes := r :: l.recipes } else l) } }

/-- RCP_DEF (R259, R260, R357): the thread continues after the recorded instructions. -/
def execRcpDef (n : Fin 4) (idx : Fin 128) (s : State) : Out :=
  perform (do
    let s ← get
    let pc := nextPc s
    let ws ← recordWords (n.val + 1) pc
    let r : Recipe := { idx := idx.val, addr := pc.toNat, words := ws }
    match recipeOf s idx.val with
    | none =>
      modify (fun s => setRecipe s r)
      pure (.jump (pc + BitVec.ofNat 64 (4 * ws.length)))
    | some old =>
      if old = r then pure (.jump (pc + BitVec.ofNat 64 (4 * ws.length))) else illegal 8) s

/-- The declared soft register that a register field names; any other is a bad recipe (R356). -/
def softField (r : Opnd) : M Nat := do
  let s ← get
  match r with
  | .n k => if isSoft s.th k.val then pure k.val else illegal 8
  | _ => illegal 8

/-- The bindings of the front thread changed; kept values of the instruction go with them (R262, R358). -/
def setBinds (f : List (Nat × Nat) → List (Nat × Nat)) : M Unit :=
  modify (fun s => updArch s (fun a => { a with binds := f a.binds }))

/-- RCP_TAG (R358). -/
def execRcpTag (idx : Fin 128) (r : Opnd) (s : State) : Out :=
  perform (do
    let k ← softField r
    let s ← get
    if (recipeOf s idx.val).isNone then illegal 8
    else
      setBinds (fun b => Assoc.set b k idx.val)
      pure .seq) s

/-- RCP_DROP (R262, R358): a kept value always equals an evaluation, and this model keeps none between instructions. -/
def execRcpDrop (r : Opnd) (s : State) : Out :=
  perform (do
    let _ ← softField r
    pure .seq) s

/-- RCP_CLR (R358). -/
def execRcpClr (r : Opnd) (s : State) : Out :=
  perform (do
    if r = .z then setBinds (fun _ => [])
    else
      let k ← softField r
      setBinds (fun b => Assoc.erase b k)
    pure .seq) s

end Sys2Proof.Machine
end

