-- ==== Sys2Proof/Machine/Dispatch.lean ====
section
/-! DEFINITION. Dispatch.lean: one arm for each step of the table. -/

namespace Sys2Proof.Machine

def exec (i : Instr) (s : State) : Host.Outcome State Fault Refusal :=
  match i with
  | .add d a b => Sys2Proof.Machine.execAdd d a b s
  | .sub d a b => Sys2Proof.Machine.execSub d a b s
  | .neg d a => Sys2Proof.Machine.execNeg d a s
  | .mul d a b => Sys2Proof.Machine.execMul d a b s
  | .mulhS d a b => Sys2Proof.Machine.execMulhS d a b s
  | .mulhZ d a b => Sys2Proof.Machine.execMulhZ d a b s
  | .minS d a b => Sys2Proof.Machine.execMinS d a b s
  | .minZ d a b => Sys2Proof.Machine.execMinZ d a b s
  | .maxS d a b => Sys2Proof.Machine.execMaxS d a b s
  | .maxZ d a b => Sys2Proof.Machine.execMaxZ d a b s
  | .abs d a => Sys2Proof.Machine.execAbs d a s
  | .divS d a b => Sys2Proof.Machine.execDivS d a b s
  | .divZ d a b => Sys2Proof.Machine.execDivZ d a b s
  | .remS d a b => Sys2Proof.Machine.execRemS d a b s
  | .remZ d a b => Sys2Proof.Machine.execRemZ d a b s
  | .and d a b => Sys2Proof.Machine.execAnd d a b s
  | .or d a b => Sys2Proof.Machine.execOr d a b s
  | .xor d a b => Sys2Proof.Machine.execXor d a b s
  | .andn d a b => Sys2Proof.Machine.execAndn d a b s
  | .orn d a b => Sys2Proof.Machine.execOrn d a b s
  | .shl d a b => Sys2Proof.Machine.execShl d a b s
  | .shr d a b => Sys2Proof.Machine.execShr d a b s
  | .sar d a b => Sys2Proof.Machine.execSar d a b s
  | .rotl d a b => Sys2Proof.Machine.execRotl d a b s
  | .clz d a => Sys2Proof.Machine.execClz d a s
  | .ctz d a => Sys2Proof.Machine.execCtz d a s
  | .popc d a => Sys2Proof.Machine.execPopc d a s
  | .brev d a => Sys2Proof.Machine.execBrev d a s
  | .bswap d a => Sys2Proof.Machine.execBswap d a s
  | .sext8 d a => Sys2Proof.Machine.execSext8 d a s
  | .sext16 d a => Sys2Proof.Machine.execSext16 d a s
  | .sext32 d a => Sys2Proof.Machine.execSext32 d a s
  | .zext8 d a => Sys2Proof.Machine.execZext8 d a s
  | .zext16 d a => Sys2Proof.Machine.execZext16 d a s
  | .zext32 d a => Sys2Proof.Machine.execZext32 d a s
  | .cmpEq d a b => Sys2Proof.Machine.execCmpEq d a b s
  | .cmpNe d a b => Sys2Proof.Machine.execCmpNe d a b s
  | .cmpLtS d a b => Sys2Proof.Machine.execCmpLtS d a b s
  | .cmpLtZ d a b => Sys2Proof.Machine.execCmpLtZ d a b s
  | .cmpLeS d a b => Sys2Proof.Machine.execCmpLeS d a b s
  | .cmpLeZ d a b => Sys2Proof.Machine.execCmpLeZ d a b s
  | .sel d a b => Sys2Proof.Machine.execSel d a b s
  | .crc8 d a b => Sys2Proof.Machine.execCrc8 d a b s
  | .crc16 d a b => Sys2Proof.Machine.execCrc16 d a b s
  | .crc32 d a b => Sys2Proof.Machine.execCrc32 d a b s
  | .crc64 d a b => Sys2Proof.Machine.execCrc64 d a b s
  | .bfxS d a b => Sys2Proof.Machine.execBfxS d a b s
  | .bfxZ d a b => Sys2Proof.Machine.execBfxZ d a b s
  | .bfi d a b => Sys2Proof.Machine.execBfi d a b s
  | .addi d a imm => Sys2Proof.Machine.execAddi d a imm s
  | .shli d a imm => Sys2Proof.Machine.execShli d a imm s
  | .shri d a imm => Sys2Proof.Machine.execShri d a imm s
  | .sari d a imm => Sys2Proof.Machine.execSari d a imm s
  | .li d imm => Sys2Proof.Machine.execLi d imm s
  | .lih d a imm => Sys2Proof.Machine.execLih d a imm s
  | .lea d imm => Sys2Proof.Machine.execLea d imm s
  | .addiLong d a k => Sys2Proof.Machine.execAddiLong d a k s
  | .shliLong d a k => Sys2Proof.Machine.execShliLong d a k s
  | .shriLong d a k => Sys2Proof.Machine.execShriLong d a k s
  | .sariLong d a k => Sys2Proof.Machine.execSariLong d a k s
  | .liLong d k => Sys2Proof.Machine.execLiLong d k s
  | .lihLong d a k => Sys2Proof.Machine.execLihLong d a k s
  | .leaLong d k => Sys2Proof.Machine.execLeaLong d k s
  | .bz a off => Sys2Proof.Machine.execBz a off s
  | .jmp off => Sys2Proof.Machine.execJmp off s
  | .bnz a off => Sys2Proof.Machine.execBnz a off s
  | .call off => Sys2Proof.Machine.execCall off s
  | .jmpr a => Sys2Proof.Machine.execJmpr a s
  | .callr d a => Sys2Proof.Machine.execCallr d a s
  | .ret a => Sys2Proof.Machine.execRet a s
  | .bccEq a b off => Sys2Proof.Machine.execBccEq a b off s
  | .bccNe a b off => Sys2Proof.Machine.execBccNe a b off s
  | .bccLtS a b off => Sys2Proof.Machine.execBccLtS a b off s
  | .bccLtZ a b off => Sys2Proof.Machine.execBccLtZ a b off s
  | .bccEqLong a b k => Sys2Proof.Machine.execBccEqLong a b k s
  | .bccNeLong a b k => Sys2Proof.Machine.execBccNeLong a b k s
  | .bccLtSLong a b k => Sys2Proof.Machine.execBccLtSLong a b k s
  | .bccLtZLong a b k => Sys2Proof.Machine.execBccLtZLong a b k s
  | .bccGeS a b k => Sys2Proof.Machine.execBccGeS a b k s
  | .bccGeZ a b k => Sys2Proof.Machine.execBccGeZ a b k s
  | .bzLong a k => Sys2Proof.Machine.execBzLong a k s
  | .bnzLong a k => Sys2Proof.Machine.execBnzLong a k s
  | .jmpLong k => Sys2Proof.Machine.execJmpLong k s
  | .callLong k => Sys2Proof.Machine.execCallLong k s
  | .ld d a off sz => Sys2Proof.Machine.execLd d a off sz s
  | .st v a off sz => Sys2Proof.Machine.execSt v a off sz s
  | .ldf d a off df => Sys2Proof.Machine.execLdf d a off df s
  | .ldLong d a sz k => Sys2Proof.Machine.execLdLong d a sz k s
  | .stLong v a sz k => Sys2Proof.Machine.execStLong v a sz k s
  | .ldfLong d a rm df k => Sys2Proof.Machine.execLdfLong d a rm df k s
  | .amo d a b w ord scope op => Sys2Proof.Machine.execAmo d a b w ord scope op s
  | .cas d a b c w ord scope => Sys2Proof.Machine.execCas d a b c w ord scope s
  | .pf a => Sys2Proof.Machine.execPf a s
  | .wb a => Sys2Proof.Machine.execWb a s
  | .inv a => Sys2Proof.Machine.execInv a s
  | .fence ord scope => Sys2Proof.Machine.execFence ord scope s
  | .syncacqLk a scope => Sys2Proof.Machine.execSyncacqLk a scope s
  | .syncacqGe a scope => Sys2Proof.Machine.execSyncacqGe a scope s
  | .syncacqTry d a scope => Sys2Proof.Machine.execSyncacqTry d a scope s
  | .syncrelSt a scope => Sys2Proof.Machine.execSyncrelSt a scope s
  | .syncrelAdd d a scope => Sys2Proof.Machine.execSyncrelAdd d a scope s
  | .syncrelClr a scope => Sys2Proof.Machine.execSyncrelClr a scope s
  | .monitor a => Sys2Proof.Machine.execMonitor a s
  | .mwait d a => Sys2Proof.Machine.execMwait d a s
  | .wsref d a => Sys2Proof.Machine.execWsref d a s
  | .fadd d a b fm r => Sys2Proof.Machine.execFadd d a b fm r s
  | .fsub d a b fm r => Sys2Proof.Machine.execFsub d a b fm r s
  | .fmul d a b fm r => Sys2Proof.Machine.execFmul d a b fm r s
  | .fdiv d a b fm r => Sys2Proof.Machine.execFdiv d a b fm r s
  | .fsqrt d a fm r => Sys2Proof.Machine.execFsqrt d a fm r s
  | .frem d a b fm => Sys2Proof.Machine.execFrem d a b fm s
  | .fmin d a b fm => Sys2Proof.Machine.execFmin d a b fm s
  | .fmax d a b fm => Sys2Proof.Machine.execFmax d a b fm s
  | .fminn d a b fm => Sys2Proof.Machine.execFminn d a b fm s
  | .fmaxn d a b fm => Sys2Proof.Machine.execFmaxn d a b fm s
  | .fcmp d a b fm c => Sys2Proof.Machine.execFcmp d a b fm c s
  | .fclass d a fm => Sys2Proof.Machine.execFclass d a fm s
  | .fsgnJ d a b fm => Sys2Proof.Machine.execFsgnJ d a b fm s
  | .fsgnN d a b fm => Sys2Proof.Machine.execFsgnN d a b fm s
  | .fsgnX d a b fm => Sys2Proof.Machine.execFsgnX d a b fm s
  | .frint d a fm r => Sys2Proof.Machine.execFrint d a fm r s
  | .fscalb d a b fm r => Sys2Proof.Machine.execFscalb d a b fm r s
  | .flogb d a fm => Sys2Proof.Machine.execFlogb d a fm s
  | .fnextUp d a fm => Sys2Proof.Machine.execFnextUp d a fm s
  | .fnextDn d a fm => Sys2Proof.Machine.execFnextDn d a fm s
  | .faddLong d a b fm rm ov => Sys2Proof.Machine.execFaddLong d a b fm rm ov s
  | .fsubLong d a b fm rm ov => Sys2Proof.Machine.execFsubLong d a b fm rm ov s
  | .fmulLong d a b fm rm ov => Sys2Proof.Machine.execFmulLong d a b fm rm ov s
  | .fdivLong d a b fm rm ov => Sys2Proof.Machine.execFdivLong d a b fm rm ov s
  | .fsqrtLong d a fm rm ov => Sys2Proof.Machine.execFsqrtLong d a fm rm ov s
  | .fremLong d a b fm => Sys2Proof.Machine.execFremLong d a b fm s
  | .fminLong d a b fm => Sys2Proof.Machine.execFminLong d a b fm s
  | .fmaxLong d a b fm => Sys2Proof.Machine.execFmaxLong d a b fm s
  | .fminnLong d a b fm => Sys2Proof.Machine.execFminnLong d a b fm s
  | .fmaxnLong d a b fm => Sys2Proof.Machine.execFmaxnLong d a b fm s
  | .fcmpLong d a b fm c => Sys2Proof.Machine.execFcmpLong d a b fm c s
  | .fclassLong d a fm => Sys2Proof.Machine.execFclassLong d a fm s
  | .fsgnJLong d a b fm => Sys2Proof.Machine.execFsgnJLong d a b fm s
  | .fsgnNLong d a b fm => Sys2Proof.Machine.execFsgnNLong d a b fm s
  | .fsgnXLong d a b fm => Sys2Proof.Machine.execFsgnXLong d a b fm s
  | .frintLong d a fm rm ov => Sys2Proof.Machine.execFrintLong d a fm rm ov s
  | .frintX d a fm rm ov => Sys2Proof.Machine.execFrintX d a fm rm ov s
  | .fscalbLong d a b fm rm ov => Sys2Proof.Machine.execFscalbLong d a b fm rm ov s
  | .flogbLong d a fm => Sys2Proof.Machine.execFlogbLong d a fm s
  | .fnextUpLong d a fm => Sys2Proof.Machine.execFnextUpLong d a fm s
  | .fnextDnLong d a fm => Sys2Proof.Machine.execFnextDnLong d a fm s
  | .fma d a b c fm rm ov => Sys2Proof.Machine.execFma d a b c fm rm ov s
  | .fms d a b c fm rm ov => Sys2Proof.Machine.execFms d a b c fm rm ov s
  | .fnma d a b c fm rm ov => Sys2Proof.Machine.execFnma d a b c fm rm ov s
  | .fnms d a b c fm rm ov => Sys2Proof.Machine.execFnms d a b c fm rm ov s
  | .fcvt d a dst src rm ov => Sys2Proof.Machine.execFcvt d a dst src rm ov s
  | .fcvti d a dst src rm => Sys2Proof.Machine.execFcvti d a dst src rm s
  | .icvtf d a dst src rm ov => Sys2Proof.Machine.execIcvtf d a dst src rm ov s
  | .fpk8 d a b c dst src rm ov => Sys2Proof.Machine.execFpk8 d a b c dst src rm ov s
  | .fupk8 d a b dst src rm => Sys2Proof.Machine.execFupk8 d a b dst src rm s
  | .xinit a b => Sys2Proof.Machine.execXinit a b s
  | .xadd a b => Sys2Proof.Machine.execXadd a b s
  | .xmad a b c => Sys2Proof.Machine.execXmad a b c s
  | .xaddn a b => Sys2Proof.Machine.execXaddn a b s
  | .xrnd d a rm => Sys2Proof.Machine.execXrnd d a rm s
  | .xstat d a => Sys2Proof.Machine.execXstat d a s
  | .join d a => Sys2Proof.Machine.execJoin d a s
  | .self d e => Sys2Proof.Machine.execSelf d e s
  | .spawn a b c idx => Sys2Proof.Machine.execSpawn a b c idx s
  | .grp d slot => Sys2Proof.Machine.execGrp d slot s
  | .barArrive d slot => Sys2Proof.Machine.execBarArrive d slot s
  | .barWait slot => Sys2Proof.Machine.execBarWait slot s
  | .bar d slot => Sys2Proof.Machine.execBar d slot s
  | .convene d slot => Sys2Proof.Machine.execConvene d slot s
  | .disband slot => Sys2Proof.Machine.execDisband slot s
  | .send16 a b => Sys2Proof.Machine.execSend16 a b s
  | .send32 a b => Sys2Proof.Machine.execSend32 a b s
  | .send48 a b => Sys2Proof.Machine.execSend48 a b s
  | .sendLong a b len rel scope dfr => Sys2Proof.Machine.execSendLong a b len rel scope dfr s
  | .recv d a b => Sys2Proof.Machine.execRecv d a b s
  | .mbpeek d a => Sys2Proof.Machine.execMbpeek d a s
  | .rcpDef n idx => Sys2Proof.Machine.execRcpDef n idx s
  | .rcpTag idx r => Sys2Proof.Machine.execRcpTag idx r s
  | .rcpDrop r => Sys2Proof.Machine.execRcpDrop r s
  | .rcpClr r => Sys2Proof.Machine.execRcpClr r s
  | .push d a => Sys2Proof.Machine.execPush d a s
  | .pushDefer d a => Sys2Proof.Machine.execPushDefer d a s
  | .pop d a => Sys2Proof.Machine.execPop d a s
  | .waitt a => Sys2Proof.Machine.execWaitt a s
  | .tagff d a => Sys2Proof.Machine.execTagff d a s
  | .tagclr a => Sys2Proof.Machine.execTagclr a s
  | .lrec a b => Sys2Proof.Machine.execLrec a b s
  | .subMc d a b => Sys2Proof.Machine.execSubMc d a b s
  | .unsub a => Sys2Proof.Machine.execUnsub a s
  | .ovld d a b => Sys2Proof.Machine.execOvld d a b s
  | .ringcfg a g => Sys2Proof.Machine.execRingcfg a g s
  | .rpushRes d g => Sys2Proof.Machine.execRpushRes d g s
  | .rpushFill a g => Sys2Proof.Machine.execRpushFill a g s
  | .rpop g => Sys2Proof.Machine.execRpop g s
  | .mma ra rb acc fm => Sys2Proof.Machine.execMma ra rb acc fm s
  | .mmaKeepa ra rb acc fm => Sys2Proof.Machine.execMmaKeepa ra rb acc fm s
  | .mmaKeepb ra rb acc fm => Sys2Proof.Machine.execMmaKeepb ra rb acc fm s
  | .mmaKeep ra rb acc fm => Sys2Proof.Machine.execMmaKeep ra rb acc fm s
  | .mmaLong ra rb acc fa fb rm ka kb => Sys2Proof.Machine.execMmaLong ra rb acc fa fb rm ka kb s
  | .accz fm acc => Sys2Proof.Machine.execAccz fm acc s
  | .accld fm a acc => Sys2Proof.Machine.execAccld fm a acc s
  | .accst fm a acc rm => Sys2Proof.Machine.execAccst fm a acc rm s
  | .accstOvf fm a acc rm => Sys2Proof.Machine.execAccstOvf fm a acc rm s
  | .mstat d acc e => Sys2Proof.Machine.execMstat d acc e s
  | .forkw d a => Sys2Proof.Machine.execForkw d a s
  | .forkwDefer d a => Sys2Proof.Machine.execForkwDefer d a s
  | .choose a => Sys2Proof.Machine.execChoose a s
  | .wself d => Sys2Proof.Machine.execWself d s
  | .csrr d num => Sys2Proof.Machine.execCsrr d num s
  | .csrw a num => Sys2Proof.Machine.execCsrw a num s
  | .csrx d a num => Sys2Proof.Machine.execCsrx d a num s
  | .trap a => Sys2Proof.Machine.execTrap a s
  | .sysc d a => Sys2Proof.Machine.execSysc d a s
  | .tlbinvPg a b => Sys2Proof.Machine.execTlbinvPg a b s
  | .tlbinvCtx a b => Sys2Proof.Machine.execTlbinvCtx a b s
  | .tlbinvAll a b => Sys2Proof.Machine.execTlbinvAll a b s
  | .tlbinvLong a b kind scope => Sys2Proof.Machine.execTlbinvLong a b kind scope s
  | .ckpt d => Sys2Proof.Machine.execCkpt d s
  | .cap d a => Sys2Proof.Machine.execCap d a s
  | .filterLdev d n => Sys2Proof.Machine.execFilterLdev d n s
  | .filterMulu d a src => Sys2Proof.Machine.execFilterMulu d a src s
  | .filterLi d imm => Sys2Proof.Machine.execFilterLi d imm s
  | .filterAdd d a src => Sys2Proof.Machine.execFilterAdd d a src s
  | .filterSub d a src => Sys2Proof.Machine.execFilterSub d a src s
  | .filterAnd d a src => Sys2Proof.Machine.execFilterAnd d a src s
  | .filterOr d a src => Sys2Proof.Machine.execFilterOr d a src s
  | .filterXor d a src => Sys2Proof.Machine.execFilterXor d a src s
  | .filterShl d a src => Sys2Proof.Machine.execFilterShl d a src s
  | .filterShr d a src => Sys2Proof.Machine.execFilterShr d a src s
  | .filterMin d a src => Sys2Proof.Machine.execFilterMin d a src s
  | .filterMax d a src => Sys2Proof.Machine.execFilterMax d a src s
  | .filterBeq a b off => Sys2Proof.Machine.execFilterBeq a b off s
  | .filterBne a b off => Sys2Proof.Machine.execFilterBne a b off s
  | .filterBltu a b off => Sys2Proof.Machine.execFilterBltu a b off s
  | .filterBgeu a b off => Sys2Proof.Machine.execFilterBgeu a b off s
  | .filterBr off => Sys2Proof.Machine.execFilterBr off s
  | .filterHinc obj a b => Sys2Proof.Machine.execFilterHinc obj a b s
  | .filterCms obj a b => Sys2Proof.Machine.execFilterCms obj a b s
  | .filterHll obj a => Sys2Proof.Machine.execFilterHll obj a s
  | .filterLdo d obj a => Sys2Proof.Machine.execFilterLdo d obj a s
  | .filterTrig n a => Sys2Proof.Machine.execFilterTrig n a s
  | .filterExp a b tag => Sys2Proof.Machine.execFilterExp a b tag s
  | .exit => Sys2Proof.Machine.execExit s
  | .nop => Sys2Proof.Machine.execNop s
  | .yield => Sys2Proof.Machine.execYield s
  | .abandon => Sys2Proof.Machine.execAbandon s
  | .eret => Sys2Proof.Machine.execEret s
  | .halt => Sys2Proof.Machine.execHalt s
  | .bkpt => Sys2Proof.Machine.execBkpt s
  | .filterSreq => Sys2Proof.Machine.execFilterSreq s
  | .filterEnd => Sys2Proof.Machine.execFilterEnd s
  | .mmaStart => Sys2Proof.Machine.execMmaStart s
  | .mmaRetirement => Sys2Proof.Machine.execMmaRetirement s
  | .choiceEvent => Sys2Proof.Machine.execChoiceEvent s
  | .deferredEntryPerform => Sys2Proof.Machine.execDeferredEntryPerform s
  | .copy => Sys2Proof.Machine.execCopy s
  | .gather => Sys2Proof.Machine.execGather s
  | .fill => Sys2Proof.Machine.execFill s
  | .readq => Sys2Proof.Machine.execReadq s
  | .mcast => Sys2Proof.Machine.execMcast s
  | .mark => Sys2Proof.Machine.execMark s
  | .ovldCommand => Sys2Proof.Machine.execOvldCommand s
  | .commandCompletion => Sys2Proof.Machine.execCommandCompletion s
  | .channelResume => Sys2Proof.Machine.execChannelResume s
  | .multicastJoin => Sys2Proof.Machine.execMulticastJoin s
  | .multicastLeave => Sys2Proof.Machine.execMulticastLeave s
  | .multicastDelivery => Sys2Proof.Machine.execMulticastDelivery s
  | .contextKill => Sys2Proof.Machine.execContextKill s
  | .fenceOutAcknowledgement => Sys2Proof.Machine.execFenceOutAcknowledgement s
  | .killStampWrite => Sys2Proof.Machine.execKillStampWrite s
  | .pageWalk => Sys2Proof.Machine.execPageWalk s
  | .chunkEnd => Sys2Proof.Machine.execChunkEnd s
  | .commitRequest => Sys2Proof.Machine.execCommitRequest s
  | .commitGrant => Sys2Proof.Machine.execCommitGrant s
  | .commitConfirmation => Sys2Proof.Machine.execCommitConfirmation s
  | .invalidation => Sys2Proof.Machine.execInvalidation s
  | .invalidationAcknowledgement => Sys2Proof.Machine.execInvalidationAcknowledgement s
  | .invalidationRefusal => Sys2Proof.Machine.execInvalidationRefusal s
  | .commitPoint => Sys2Proof.Machine.execCommitPoint s
  | .pinTokenGrant => Sys2Proof.Machine.execPinTokenGrant s
  | .readMiss => Sys2Proof.Machine.execReadMiss s
  | .forwardedRead => Sys2Proof.Machine.execForwardedRead s
  | .ownerData => Sys2Proof.Machine.execOwnerData s
  | .negativeAcknowledgement => Sys2Proof.Machine.execNegativeAcknowledgement s
  | .writeBack => Sys2Proof.Machine.execWriteBack s
  | .l1Replacement => Sys2Proof.Machine.execL1Replacement s
  | .homePerformedWrite => Sys2Proof.Machine.execHomePerformedWrite s
  | .recall => Sys2Proof.Machine.execRecall s
  | .sliceReplacement => Sys2Proof.Machine.execSliceReplacement s
  | .singletonAccess => Sys2Proof.Machine.execSingletonAccess s
  | .postedStorePerform => Sys2Proof.Machine.execPostedStorePerform s
  | .watchArrival => Sys2Proof.Machine.execWatchArrival s
  | .mwaitLimitExpiry => Sys2Proof.Machine.execMwaitLimitExpiry s
  | .answerResend => Sys2Proof.Machine.execAnswerResend s
  | .clusterReport => Sys2Proof.Machine.execClusterReport s
  | .clusterFence => Sys2Proof.Machine.execClusterFence s
  | .ucieLinkFailure => Sys2Proof.Machine.execUcieLinkFailure s
  | .dieFence => Sys2Proof.Machine.execDieFence s
  | .messageAgeDiscard => Sys2Proof.Machine.execMessageAgeDiscard s
  | .sequencerTicket => Sys2Proof.Machine.execSequencerTicket s
  | .sequencerTakeover => Sys2Proof.Machine.execSequencerTakeover s
  | .hbmScrub => Sys2Proof.Machine.execHbmScrub s
  | .hbmRefresh => Sys2Proof.Machine.execHbmRefresh s
  | .weightStoreWindowOpen => Sys2Proof.Machine.execWeightStoreWindowOpen s
  | .weightStoreWindowClose => Sys2Proof.Machine.execWeightStoreWindowClose s
  | .granuleRestore => Sys2Proof.Machine.execGranuleRestore s
  | .contextSwitchOut => Sys2Proof.Machine.execContextSwitchOut s
  | .contextSwitchIn => Sys2Proof.Machine.execContextSwitchIn s
  | .tileSwap => Sys2Proof.Machine.execTileSwap s
  | .queueTailChange => Sys2Proof.Machine.execQueueTailChange s
  | .launchRecordTake => Sys2Proof.Machine.execLaunchRecordTake s
  | .rangeRequest => Sys2Proof.Machine.execRangeRequest s
  | .shareRebalance => Sys2Proof.Machine.execShareRebalance s
  | .priorityAging => Sys2Proof.Machine.execPriorityAging s
  | .stealProbe => Sys2Proof.Machine.execStealProbe s
  | .recordAdmission => Sys2Proof.Machine.execRecordAdmission s
  | .granulePlacementEviction => Sys2Proof.Machine.execGranulePlacementEviction s
  | .slotWaitMark => Sys2Proof.Machine.execSlotWaitMark s
  | .longMissTimeout => Sys2Proof.Machine.execLongMissTimeout s
  | .threadEviction => Sys2Proof.Machine.execThreadEviction s
  | .wakeConditionMet => Sys2Proof.Machine.execWakeConditionMet s
  | .launchCompletion => Sys2Proof.Machine.execLaunchCompletion s
  | .vfSliceEnd => Sys2Proof.Machine.execVfSliceEnd s
  | .trapDelivery => Sys2Proof.Machine.execTrapDelivery s
  | .dctlHalt => Sys2Proof.Machine.execDctlHalt s
  | .dctlRel => Sys2Proof.Machine.execDctlRel s
  | .crossTriggerHalt => Sys2Proof.Machine.execCrossTriggerHalt s
  | .dtdataAccess => Sys2Proof.Machine.execDtdataAccess s
  | .trbaseWrite => Sys2Proof.Machine.execTrbaseWrite s
  | .traceStateChange => Sys2Proof.Machine.execTraceStateChange s
  | .traceSpanRecord => Sys2Proof.Machine.execTraceSpanRecord s
  | .samplePeriod => Sys2Proof.Machine.execSamplePeriod s
  | .sampleRequestTake => Sys2Proof.Machine.execSampleRequestTake s
  | .sillageEvent => Sys2Proof.Machine.execSillageEvent s
  | .sillageBudgetRefill => Sys2Proof.Machine.execSillageBudgetRefill s
  | .spctlInstall => Sys2Proof.Machine.execSpctlInstall s
  | .spctlUninstall => Sys2Proof.Machine.execSpctlUninstall s
  | .atctlAttach => Sys2Proof.Machine.execAtctlAttach s
  | .atctlDetach => Sys2Proof.Machine.execAtctlDetach s
  | .objValidate => Sys2Proof.Machine.execObjValidate s
  | .objRemove => Sys2Proof.Machine.execObjRemove s
  | .tgcntClear => Sys2Proof.Machine.execTgcntClear s
  | .tnexpbaseWrite => Sys2Proof.Machine.execTnexpbaseWrite s
  | .checkpoint => Sys2Proof.Machine.execCheckpoint s
  | .checkpointComplete => Sys2Proof.Machine.execCheckpointComplete s
  | .logAcknowledgement => Sys2Proof.Machine.execLogAcknowledgement s
  | .rollback => Sys2Proof.Machine.execRollback s
  | .hostWrite => Sys2Proof.Machine.execHostWrite s
  | .hostRead => Sys2Proof.Machine.execHostRead s
  | .hostSequencedOperation => Sys2Proof.Machine.execHostSequencedOperation s
  | .partitionCreate => Sys2Proof.Machine.execPartitionCreate s
  | .stateWriteRun => Sys2Proof.Machine.execStateWriteRun s
  | .stateWriteStopped => Sys2Proof.Machine.execStateWriteStopped s
  | .stateWriteLoad => Sys2Proof.Machine.execStateWriteLoad s
  | .stateTransitionComplete => Sys2Proof.Machine.execStateTransitionComplete s
  | .rsmapWrite => Sys2Proof.Machine.execRsmapWrite s
  | .resizeComplete => Sys2Proof.Machine.execResizeComplete s
  | .contextDescriptorValidate => Sys2Proof.Machine.execContextDescriptorValidate s
  | .killWrite => Sys2Proof.Machine.execKillWrite s
  | .queueEnWrite => Sys2Proof.Machine.execQueueEnWrite s
  | .counterClearWrite => Sys2Proof.Machine.execCounterClearWrite s
  | .routeTableWrite => Sys2Proof.Machine.execRouteTableWrite s
  | .routeLoss => Sys2Proof.Machine.execRouteLoss s
  | .routeReturn => Sys2Proof.Machine.execRouteReturn s
  | .unreachableTimeout => Sys2Proof.Machine.execUnreachableTimeout s
  | .fabricRequest => Sys2Proof.Machine.execFabricRequest s
  | .messageArrival => Sys2Proof.Machine.execMessageArrival s
  | .clockStretch => Sys2Proof.Machine.execClockStretch s
  | .boot => Sys2Proof.Machine.execBoot s
  | .registerWrite => Sys2Proof.Machine.execRegisterWrite s
  | .clusterReadmission => Sys2Proof.Machine.execClusterReadmission s
  | .ioDieFailure => Sys2Proof.Machine.execIoDieFailure s

end Sys2Proof.Machine
end

