-- ==== Sys2Proof/Machine/Step.lean ====
section
/-! DEFINITION. Step.lean: one step of the machine: the agent whose turn it is moves (R4, notes/assumptions/2.md). -/

namespace Sys2Proof.Machine

/-- The front thread fetches and performs one instruction. -/
def stepFront (s : State) : Out :=
  match gate (latch s (fetch s)) (fetch s) with
  | .go i => exec i (latch s (fetch s))
  | .trap t => .next (raise (latch s (fetch s)) t)
  | .reported t => .next (raise (suppressOnce (latch s (fetch s))) t)
  | .halt n => .next (comparatorHalt (latch s (fetch s)) n)

/-- One agent moves. -/
def stepMove (m : Move) (s : State) : Out :=
  match m with
  | .thread uid =>
    match readyThread s uid with
    | some s1 => stepFront s1
    | none => .next s
  | .event pos =>
    match takeEvent s pos with
    | some (e, s1) => exec e.row s1
    | none => .next s
  | .filter pos =>
    match takeFilter s pos with
    | some (w, s1) =>
      match decodeFilter w with
      | .ok i => exec i s1
      | .error _ => .next (dropFilter s1)
    | none => .next s

/-- One step: the first move of `sched`, else the next agent in turn; a machine in which nothing can move stays as it is. -/
def step (s : State) : Host.Outcome State Fault Refusal :=
  match s.sched with
  | m :: rest => stepMove m { s with sched := rest }
  | [] =>
    match pickMove s with
    | some m => stepMove m { s with turn := !s.turn }
    | none => .next s

/-- The state with an instruction placed where the next step fetches it (notes/assumptions/6.md). -/
def State.withFetchWord (s : State) (_nbits w : Nat) : State := placeWord s w

end Sys2Proof.Machine
end

