-- ==== Sys2Proof/Safety.lean ====
section
/-! DEFINITION. Safety.lean: what counts as a safe run, and the terms in which the statements say what an instruction needs, what it
writes and what it leaves. -/

namespace Sys2Proof.Safety

open Sys2Proof.Machine

/-! ### Safe runs -/

/-- A step answers a next state, or stops at a write of the device into a hole of R23 (notes/assumptions/66.md); it refuses nothing. -/
def SafeStep (s : State) : Prop := (∃ t, step s = .next t) ∨ ∃ pa, step s = .fault (.hole pa)

/-- A machine that `n` steps bring to a state, each of them safe. -/
def SafeRun : Nat → State → Prop
  | 0, _ => True
  | n + 1, s => SafeStep s ∧ ∀ t, step s = .next t → SafeRun n t

/-! ### What an instruction needs -/

/-- An operand is declared, and if soft unbound: an unbound one reads as 0 (R251, R258). -/
def Readable (t : Thread) : Opnd → Prop
  | .n k => k.val < t.nreg ∧ (isSoft t k.val = true → Assoc.get t.a.binds k.val = none)
  | _ => True

/-- A destination is declared and not soft (R251, R258). -/
def Writable (t : Thread) : Dest → Prop
  | .reg k => k.val < t.nreg ∧ isSoft t k.val = false
  | _ => True

/-- No operand violates a stall count while the scoreboard checks (R274). -/
def OnTime (t : Thread) (os : List Opnd) : Prop := t.a.chk = false ∨ Machine.stallOf t os = none

/-- Operands and destination that an instruction of the front thread may have. -/
def Fits (s : State) (os : List Opnd) (d : Dest) : Prop := (∀ o ∈ os, Readable s.th o) ∧ Writable s.th d ∧ OnTime s.th os

/-- The instruction is not the one that ends its chunk by the count, which runs over the chunk's sub-chunks (R102, R106). -/
def ChunkGoesOn (s : State) : Prop := s.th.chunk.before + s.th.chunk.count < 511

/-! ### What an instruction writes -/

/-- A register write (R249, R270): the queue shifts, a named register is written too, and a discarded result goes nowhere. -/
def written (a : Arch) (d : Dest) (v : Word) (lat : Nat) : Arch :=
  match d with
  | .drop => a
  | .push => { a with q := ({ val := v, born := a.dist, lat := lat } :: a.q).take 16 }
  | .reg k => { a with q := ({ val := v, born := a.dist, lat := lat } :: a.q).take 16, n := a.n.set k.val { val := v, born := a.dist, lat := lat } }

/-- The front thread after an instruction that leaves registers `a` and goes on at `pc` in its chunk (R102, R265, R274). -/
def passed (t : Thread) (a : Arch) (pc : Word) : Thread :=
  { t with
    a := { a with pc := pc, dist := a.dist + 1 + bits t.words 24 22, suppress := false }
    status := .running, kept := [], longMiss := false, waited := 0
    answer := if t.answered.isSome then none else t.answer
    boundary := false, chunk := { t.chunk with count := t.chunk.count + 1 } }

/-- The next instruction's address (R265, R266). -/
def following (t : Thread) : Word := t.a.pc + BitVec.ofNat 64 (if isLongWord (t.words % 2 ^ 32) then 8 else 4)

/-! ### What an instruction leaves -/

/-- The registers of control space that counting an event can change: VFINT of a virtual function (R451), and the drop counter of a
tenant (R428). -/
def Countable (off : Nat) : Prop := (∃ v, off = vfAddr v 0x10) ∨ ∃ d v, off = silAddr d (0xc000 + 0x40 * v + 0x10)

/-- A context's state on a core but for its performance counters. -/
def uncounted (s : State) (k : Nat × Nat) : CoreCtx := { Assoc.getD s.eng.cc k CoreCtx.empty with perf := [] }

/-- What counting events can change (R257, R424, R429, R451): performance counters, VFINT and drop counters, answers and held answers,
pending steps, Sillage events and the index of free values. Everything else is left: every thread, all of memory, coherence, work, views,
accumulators, rings, mailboxes and every other register of control space. -/
structure Counts (s t : State) : Prop where
  th : t.th = s.th
  rest : t.rest = s.rest
  mem : t.mem = s.mem
  coh : t.coh = s.coh
  wk : t.wk = s.wk
  vw : t.vw = s.vw
  now : t.now = s.now
  sched : t.sched = s.sched
  turn : t.turn = s.turn
  eng : t.eng = { s.eng with cc := t.eng.cc }
  cc : ∀ k, uncounted t k = uncounted s k
  sys : t.sys = { s.sys with ctl := t.sys.ctl, answers := t.sys.answers }
  ctl : ∀ off, ¬ Countable off → ctlGet t off = ctlGet s off
  dbg : t.dbg = { s.dbg with events := t.dbg.events }
  rep : t.rep = { s.rep with held := t.rep.held, done := t.rep.done, skips := t.rep.skips }

/-- An instruction passes in its chunk: registers `a`, next address `pc`, and nothing else but counting. -/
def Passes (i : Instr) (s : State) (a : Arch) (pc : Word) : Prop :=
  ∃ t, exec i s = .next t ∧ t.th = passed s.th a pc ∧ Counts { s with th := t.th } t

end Sys2Proof.Safety
end

