-- ==== Sys2Proof/WellFormed.lean ====
section
/-! DEFINITION. WellFormed.lean: which instructions have an encoding (R267, R270, R295, R297, R315, R323, R353, R368, R375, R388, R433):
the limits that the types of Syntax.lean do not already state. Steps of the other agents have none. -/

namespace Sys2Proof

/-- An overflow mode needs a binary8 result (R315, R316). -/
def ovfOk (fm : FFmt) (ov : Ovf) : Bool :=
  match fm, ov with
  | .ieee _, .ovf => false
  | _, _ => true

/-- A size that a store may name (R323). -/
def MemSz.storable : MemSz → Bool
  | .s8 => false
  | .s16 => false
  | .s32 => false
  | _ => true

/-- A count of a shift with an immediate lies in 0 to 63 (R295). -/
def shiftOk {w : Nat} (i : BitVec w) : Bool := decide (i.toNat < 64)

/-- The row has an encoding and the instruction's fields are among those it admits. -/
def Instr.wellFormed : Instr → Bool
  | .shli _ _ i => shiftOk i
  | .shri _ _ i => shiftOk i
  | .sari _ _ i => shiftOk i
  | .shliLong _ _ k => shiftOk k
  | .shriLong _ _ k => shiftOk k
  | .sariLong _ _ k => shiftOk k
  | .bz a _ => a != .z
  | .st _ _ _ sz => sz.storable
  | .stLong _ _ sz _ => sz.storable
  | .faddLong _ _ _ fm _ ov => ovfOk fm ov
  | .fsubLong _ _ _ fm _ ov => ovfOk fm ov
  | .fmulLong _ _ _ fm _ ov => ovfOk fm ov
  | .fdivLong _ _ _ fm _ ov => ovfOk fm ov
  | .fsqrtLong _ _ fm _ ov => ovfOk fm ov
  | .frintLong _ _ fm _ ov => ovfOk fm ov
  | .frintX _ _ fm _ ov => ovfOk fm ov
  | .fscalbLong _ _ _ fm _ ov => ovfOk fm ov
  | .fma _ _ _ _ fm _ ov => ovfOk fm ov
  | .fms _ _ _ _ fm _ ov => ovfOk fm ov
  | .fnma _ _ _ _ fm _ ov => ovfOk fm ov
  | .fnms _ _ _ _ fm _ ov => ovfOk fm ov
  | .fcvt _ _ dst _ _ ov => ovfOk dst ov
  | .icvtf _ _ dst _ _ ov => ovfOk dst ov
  | .sendLong _ _ _ rel scope _ => rel || scope == .cl
  | .mmaLong _ _ _ fa fb rm _ _ => mmaPairOk fa fb rm
  | .tlbinvCtx a _ => a == .q 0
  | .tlbinvAll a b => a == .q 0 && b == .q 0
  | .tlbinvLong a b kind _ => (kind == 0 || a == .q 0) && (kind != 2 || b == .q 0)
  | .accst _ _ _ rm => rm != .dyn
  | .accstOvf _ _ _ rm => rm != .dyn
  | .filterBeq _ _ off => off.val != 0
  | .filterBne _ _ off => off.val != 0
  | .filterBltu _ _ off => off.val != 0
  | .filterBgeu _ _ off => off.val != 0
  | .filterBr off => off.val != 0
  | i => !(encode 0 i).isEmpty

end Sys2Proof
end

