-- ==== Sys2Proof/Certificates/Slice0/Obligations.lean ====
section
/-! DEFINITION. Obligations.lean: the statements for the provers. The terms in which they are said stand before them, in Sys2Proof.Claims;
`Passes`, `Fits`, `Counts` and the others are in Safety.lean. -/

namespace Sys2Proof.Claims

open Sys2Proof.Machine Sys2Proof.Safety

/-! ### Integer and address instructions -/

/-- What each integer or address instruction reads, where its result goes, the result, and its fixed latency, 0 where it has none
(R273, R277, R286-R295). -/
def intOf (i : Instr) (s : State) : Option (List Opnd × Dest × Word × Nat) :=
  let r := opnd s
  match i with
  | .add d a b => some ([a, b], d, r a + r b, 1)
  | .sub d a b => some ([a, b], d, r a - r b, 1)
  | .neg d a => some ([a], d, 0 - r a, 1)
  | .mul d a b => some ([a, b], d, r a * r b, 3)
  | .mulhS d a b => some ([a, b], d, BitVec.ofInt 64 ((r a).toInt * (r b).toInt / 2 ^ 64), 3)
  | .mulhZ d a b => some ([a, b], d, BitVec.ofNat 64 ((r a).toNat * (r b).toNat / 2 ^ 64), 3)
  | .minS d a b => some ([a, b], d, if (r b).toInt < (r a).toInt then r b else r a, 1)
  | .minZ d a b => some ([a, b], d, if (r b).toNat < (r a).toNat then r b else r a, 1)
  | .maxS d a b => some ([a, b], d, if (r a).toInt < (r b).toInt then r b else r a, 1)
  | .maxZ d a b => some ([a, b], d, if (r a).toNat < (r b).toNat then r b else r a, 1)
  | .abs d a => some ([a], d, if 0 ≤ (r a).toInt then r a else 0 - r a, 1)
  | .divS d a b => some ([a, b], d,
      if r b = 0 then -1 else if (r a).toInt = -2 ^ 63 ∧ (r b).toInt = -1 then r a else BitVec.ofInt 64 ((r a).toInt.tdiv (r b).toInt), 0)
  | .divZ d a b => some ([a, b], d, if r b = 0 then -1 else BitVec.ofNat 64 ((r a).toNat / (r b).toNat), 0)
  | .remS d a b => some ([a, b], d,
      if r b = 0 then r a else BitVec.ofInt 64 ((r a).toInt - (r b).toInt * (r a).toInt.tdiv (r b).toInt), 0)
  | .remZ d a b => some ([a, b], d,
      if r b = 0 then r a else BitVec.ofNat 64 ((r a).toNat - (r b).toNat * ((r a).toNat / (r b).toNat)), 0)
  | .and d a b => some ([a, b], d, r a &&& r b, 1)
  | .or d a b => some ([a, b], d, r a ||| r b, 1)
  | .xor d a b => some ([a, b], d, r a ^^^ r b, 1)
  | .andn d a b => some ([a, b], d, r a &&& ~~~(r b), 1)
  | .orn d a b => some ([a, b], d, r a ||| ~~~(r b), 1)
  | .shl d a b => some ([a, b], d, r a <<< ((r b).bits 5 0), 1)
  | .shr d a b => some ([a, b], d, r a >>> ((r b).bits 5 0), 1)
  | .sar d a b => some ([a, b], d, (r a).sshiftRight ((r b).bits 5 0), 1)
  | .rotl d a b => some ([a, b], d, (r a).rotateLeft ((r b).bits 5 0), 1)
  | .clz d a => some ([a], d, valClz (r a), 1)
  | .ctz d a => some ([a], d, valCtz (r a), 1)
  | .popc d a => some ([a], d, valPopc (r a), 1)
  | .brev d a => some ([a], d, valBrev (r a), 1)
  | .bswap d a => some ([a], d, valBswap (r a), 1)
  | .sext8 d a => some ([a], d, ((r a).truncate 8).signExtend 64, 1)
  | .sext16 d a => some ([a], d, ((r a).truncate 16).signExtend 64, 1)
  | .sext32 d a => some ([a], d, ((r a).truncate 32).signExtend 64, 1)
  | .zext8 d a => some ([a], d, ((r a).truncate 8).zeroExtend 64, 1)
  | .zext16 d a => some ([a], d, ((r a).truncate 16).zeroExtend 64, 1)
  | .zext32 d a => some ([a], d, ((r a).truncate 32).zeroExtend 64, 1)
  | .cmpEq d a b => some ([a, b], d, if r a = r b then 1 else 0, 1)
  | .cmpNe d a b => some ([a, b], d, if r a = r b then 0 else 1, 1)
  | .cmpLtS d a b => some ([a, b], d, if (r a).toInt < (r b).toInt then 1 else 0, 1)
  | .cmpLtZ d a b => some ([a, b], d, if (r a).toNat < (r b).toNat then 1 else 0, 1)
  | .cmpLeS d a b => some ([a, b], d, if (r a).toInt ≤ (r b).toInt then 1 else 0, 1)
  | .cmpLeZ d a b => some ([a, b], d, if (r a).toNat ≤ (r b).toNat then 1 else 0, 1)
  | .sel d a b => some ([.q 0, a, b], d, if r (.q 0) = 0 then r b else r a, 1)
  | .crc8 d a b => some ([a, b], d, valCrc 1 (r a) (r b), 3)
  | .crc16 d a b => some ([a, b], d, valCrc 2 (r a) (r b), 3)
  | .crc32 d a b => some ([a, b], d, valCrc 4 (r a) (r b), 3)
  | .crc64 d a b => some ([a, b], d, valCrc 8 (r a) (r b), 3)
  | .bfxS d a b => some ([a, b], d, valBfxS (r a) (r b), 1)
  | .bfxZ d a b => some ([a, b], d, valBfxZ (r a) (r b), 1)
  | .bfi d a b => some ([.q 0, a, b], d, valBfi (r (.q 0)) (r a) (r b), 1)
  | .addi d a imm => some ([a], d, r a + imm.signExtend 64, 1)
  | .shli d a imm => some ([a], d, r a <<< (imm.toNat % 64), 1)
  | .shri d a imm => some ([a], d, r a >>> (imm.toNat % 64), 1)
  | .sari d a imm => some ([a], d, (r a).sshiftRight (imm.toNat % 64), 1)
  | .li d imm => some ([], d, imm.signExtend 64, 1)
  | .lih d a imm => some ([a], d, (imm.signExtend 64 <<< 32) ||| ((r a).truncate 32).zeroExtend 64, 1)
  | .lea d imm => some ([], d, s.th.a.pc + 4 * imm.signExtend 64, 1)
  | .addiLong d a k => some (regsOf [a], d, opndK s a k + k.signExtend 64, 1)
  | .shliLong d a k => some (regsOf [a], d, opndK s a k <<< (k.toNat % 64), 1)
  | .shriLong d a k => some (regsOf [a], d, opndK s a k >>> (k.toNat % 64), 1)
  | .sariLong d a k => some (regsOf [a], d, (opndK s a k).sshiftRight (k.toNat % 64), 1)
  | .liLong d k => some ([], d, k.signExtend 64, 1)
  | .lihLong d a k => some (regsOf [a], d, (k.signExtend 64 <<< 32) ||| ((opndK s a k).truncate 32).zeroExtend 64, 1)
  | .leaLong d k => some ([], d, s.th.a.pc + 4 * k.signExtend 64, 1)
  | _ => none

/-! ### Branches -/

/-- What each conditional or unconditional branch reads, when it is taken, and its word offset (R271, R297, R300, R301). -/
def branchOf (i : Instr) (s : State) : Option (List Opnd × Bool × Word) :=
  let r := opnd s
  match i with
  | .bz a off => some ([a], decide (r a = 0), off.signExtend 64)
  | .bnz a off => some ([a], decide (r a ≠ 0), off.signExtend 64)
  | .jmp off => some ([], true, off.signExtend 64)
  | .bccEq a b off => some ([a, b], decide (r a = r b), off.signExtend 64)
  | .bccNe a b off => some ([a, b], decide (r a ≠ r b), off.signExtend 64)
  | .bccLtS a b off => some ([a, b], decide ((r a).toInt < (r b).toInt), off.signExtend 64)
  | .bccLtZ a b off => some ([a, b], decide ((r a).toNat < (r b).toNat), off.signExtend 64)
  | .bccEqLong a b k => some (regsOf [a, b], decide (opndK s a k = opndK s b k), k.signExtend 64)
  | .bccNeLong a b k => some (regsOf [a, b], decide (opndK s a k ≠ opndK s b k), k.signExtend 64)
  | .bccLtSLong a b k => some (regsOf [a, b], decide ((opndK s a k).toInt < (opndK s b k).toInt), k.signExtend 64)
  | .bccLtZLong a b k => some (regsOf [a, b], decide ((opndK s a k).toNat < (opndK s b k).toNat), k.signExtend 64)
  | .bccGeS a b k => some (regsOf [a, b], decide ((opndK s b k).toInt ≤ (opndK s a k).toInt), k.signExtend 64)
  | .bccGeZ a b k => some (regsOf [a, b], decide ((opndK s b k).toNat ≤ (opndK s a k).toNat), k.signExtend 64)
  | .bzLong a k => some (regsOf [a], decide (opndK s a k = 0), k.signExtend 64)
  | .bnzLong a k => some (regsOf [a], decide (opndK s a k ≠ 0), k.signExtend 64)
  | .jmpLong k => some ([], true, k.signExtend 64)
  | _ => none

/-! ### Floating-point instructions -/

/-- What each floating-point instruction reads, where its result goes, its result with the exceptions it raises, and its fixed latency
(R273, R305-R317). The rounding of a short form is that of R276, and `rmOf` reads FPCTL where the code says so (R228, R235). -/
def floatOf (i : Instr) (s : State) : Option (List Opnd × Dest × FV × Nat) :=
  let r := opnd s
  let m := Machine.rmOf s.th.a
  let h (x : Rm4) : Rm := m (rmOfShort x)
  match i with
  | .fadd d a b fm x => some ([a, b], d, valFadd (.ieee fm) (h x) .sat (r a) (r b), 4)
  | .faddLong d a b fm rm ov => some ([a, b], d, valFadd fm (m rm) ov (r a) (r b), 4)
  | .fsub d a b fm x => some ([a, b], d, valFsub (.ieee fm) (h x) .sat (r a) (r b), 4)
  | .fsubLong d a b fm rm ov => some ([a, b], d, valFsub fm (m rm) ov (r a) (r b), 4)
  | .fmul d a b fm x => some ([a, b], d, valFmul (.ieee fm) (h x) .sat (r a) (r b), 4)
  | .fmulLong d a b fm rm ov => some ([a, b], d, valFmul fm (m rm) ov (r a) (r b), 4)
  | .fdiv d a b fm x => some ([a, b], d, valFdiv (.ieee fm) (h x) .sat (r a) (r b), 0)
  | .fdivLong d a b fm rm ov => some ([a, b], d, valFdiv fm (m rm) ov (r a) (r b), 0)
  | .fsqrt d a fm x => some ([a], d, valFsqrt (.ieee fm) (h x) .sat (r a), 0)
  | .fsqrtLong d a fm rm ov => some ([a], d, valFsqrt fm (m rm) ov (r a), 0)
  | .frem d a b fm => some ([a, b], d, valFrem (.ieee fm) (r a) (r b), 0)
  | .fremLong d a b fm => some ([a, b], d, valFrem fm (r a) (r b), 0)
  | .fmin d a b fm => some ([a, b], d, valMinMax false false (.ieee fm) (r a) (r b), 4)
  | .fminLong d a b fm => some ([a, b], d, valMinMax false false fm (r a) (r b), 4)
  | .fmax d a b fm => some ([a, b], d, valMinMax true false (.ieee fm) (r a) (r b), 4)
  | .fmaxLong d a b fm => some ([a, b], d, valMinMax true false fm (r a) (r b), 4)
  | .fminn d a b fm => some ([a, b], d, valMinMax false true (.ieee fm) (r a) (r b), 4)
  | .fminnLong d a b fm => some ([a, b], d, valMinMax false true fm (r a) (r b), 4)
  | .fmaxn d a b fm => some ([a, b], d, valMinMax true true (.ieee fm) (r a) (r b), 4)
  | .fmaxnLong d a b fm => some ([a, b], d, valMinMax true true fm (r a) (r b), 4)
  | .fcmp d a b fm c => some ([a, b], d, valFcmp (.ieee fm) (Cmp4.toCmp8 c) (r a) (r b), 4)
  | .fcmpLong d a b fm c => some ([a, b], d, valFcmp fm c (r a) (r b), 4)
  | .fclass d a fm => some ([a], d, valFclass (.ieee fm) (r a), 4)
  | .fclassLong d a fm => some ([a], d, valFclass fm (r a), 4)
  | .fsgnJ d a b fm => some ([a, b], d, valFsgn (fun _ y => y) (.ieee fm) (r a) (r b), 4)
  | .fsgnJLong d a b fm => some ([a, b], d, valFsgn (fun _ y => y) fm (r a) (r b), 4)
  | .fsgnN d a b fm => some ([a, b], d, valFsgn (fun _ y => !y) (.ieee fm) (r a) (r b), 4)
  | .fsgnNLong d a b fm => some ([a, b], d, valFsgn (fun _ y => !y) fm (r a) (r b), 4)
  | .fsgnX d a b fm => some ([a, b], d, valFsgn xor (.ieee fm) (r a) (r b), 4)
  | .fsgnXLong d a b fm => some ([a, b], d, valFsgn xor fm (r a) (r b), 4)
  | .frint d a fm x => some ([a], d, valFrint false (.ieee fm) (h x) .sat (r a), 4)
  | .frintLong d a fm rm ov => some ([a], d, valFrint false fm (m rm) ov (r a), 4)
  | .frintX d a fm rm ov => some ([a], d, valFrint true fm (m rm) ov (r a), 4)
  | .fscalb d a b fm x => some ([a, b], d, valFscalb (.ieee fm) (h x) .sat (r a) (r b), 4)
  | .fscalbLong d a b fm rm ov => some ([a, b], d, valFscalb fm (m rm) ov (r a) (r b), 4)
  | .flogb d a fm => some ([a], d, valFlogb (.ieee fm) (r a), 4)
  | .flogbLong d a fm => some ([a], d, valFlogb fm (r a), 4)
  | .fnextUp d a fm => some ([a], d, valFnext true (.ieee fm) (r a), 4)
  | .fnextUpLong d a fm => some ([a], d, valFnext true fm (r a), 4)
  | .fnextDn d a fm => some ([a], d, valFnext false (.ieee fm) (r a), 4)
  | .fnextDnLong d a fm => some ([a], d, valFnext false fm (r a), 4)
  | .fma d a b c fm rm ov => some ([a, b, c], d, valFused false false fm (m rm) ov (r a) (r b) (r c), 4)
  | .fms d a b c fm rm ov => some ([a, b, c], d, valFused false true fm (m rm) ov (r a) (r b) (r c), 4)
  | .fnma d a b c fm rm ov => some ([a, b, c], d, valFused true true fm (m rm) ov (r a) (r b) (r c), 4)
  | .fnms d a b c fm rm ov => some ([a, b, c], d, valFused true false fm (m rm) ov (r a) (r b) (r c), 4)
  | .fcvt d a dst src rm ov => some ([a], d, valFcvt dst src (m rm) ov (r a), 4)
  | .fcvti d a dst src rm => some ([a], d, valFcvti dst src (m rm) (r a), 4)
  | .icvtf d a dst src rm ov => some ([a], d, valIcvtf dst src (m rm) ov (r a), 4)
  | .fpk8 d a b c dst src rm ov => some ([a, b, c], d, valFpk8 dst src (m rm) ov (r a) (r b) (r c), 4)
  | .fupk8 d a b dst src rm => some ([a, b], d, valFupk8 dst src (m rm) (r a) (r b), 4)
  | _ => none

/-- Operands and destination of an instruction that computes a value of its operands. -/
def fieldsOf (i : Instr) (s : State) : Option (List Opnd × Dest) :=
  ((intOf i s).map (fun x => (x.1, x.2.1))).or ((floatOf i s).map (fun x => (x.1, x.2.1)))

/-- A register field names a register that the launch did not declare (R251). -/
def Undeclared (t : Thread) (os : List Opnd) (d : Dest) : Prop :=
  (∃ k : Fin 44, Opnd.n k ∈ os ∧ t.nreg ≤ k.val) ∨ ∃ k : Fin 44, d = .reg k ∧ t.nreg ≤ k.val

/-! ### Terms: numbers and their rounding -/

/-- What a code stands for (R221, R225): a NaN, signalling or quiet, an infinity, or a number, whose sign matters where it is zero. -/
inductive Val where
  | nan (sig : Bool)
  | inf (neg : Bool)
  | num (neg : Bool) (x : ℚ)

def Val.isNan : Val → Bool
  | .nan _ => true
  | _ => false

/-- A signalling NaN. -/
def Val.sig : Val → Bool
  | .nan s => s
  | _ => false

def Val.neg : Val → Val
  | .nan s => .nan s
  | .inf n => .inf !n
  | .num n x => .num (!n) (-x)

/-- Trailing significand bits, exponent bits and bias of an IEEE format (R221). -/
def ieeeOf : FF4 → Nat × Nat × Nat
  | .d => (52, 11, 1023)
  | .f => (23, 8, 127)
  | .h => (10, 5, 15)
  | .bf => (7, 8, 127)

/-- Precision, bias and width of a format (R221, R224). -/
def precOf : FFmt → Nat
  | .ieee g => (ieeeOf g).1 + 1
  | .b8 b => b.p.val + 1
def biasOf : FFmt → Nat
  | .ieee g => (ieeeOf g).2.2
  | .b8 b => if b.uns then 2 ^ (8 - (b.p.val + 1)) else 2 ^ (7 - (b.p.val + 1))
def widthOf : FFmt → Nat
  | .ieee .d => 64
  | .ieee .f => 32
  | .ieee .h => 16
  | .ieee .bf => 16
  | .b8 _ => 8

/-- An unsigned format has no negative values (R224). -/
def unsignedFmt : FFmt → Bool
  | .ieee _ => false
  | .b8 b => b.uns

/-- The default NaN (R221, R225). -/
def nanCode : FFmt → Nat
  | .ieee .d => 0x7ff8000000000000
  | .ieee .f => 0x7fc00000
  | .ieee .h => 0x7e00
  | .ieee .bf => 0x7fc0
  | .b8 b => if b.uns then 0xff else 0x80

/-- The number of a sign, an exponent field and a trailing significand field of t bits (R221, R224). -/
def codeValue (bias t : Nat) (neg : Bool) (e m : Nat) : ℚ :=
  (if neg then -1 else 1) *
    (if e = 0 then (2 : ℚ) ^ (1 - (bias : ℤ)) * ((m : ℚ) / 2 ^ t) else (2 : ℚ) ^ ((e : ℤ) - bias) * (1 + (m : ℚ) / 2 ^ t))

/-- What the low bits of a register stand for in a format (R221, R224, R225, R248). -/
def fval (fm : FFmt) (w : Word) : Val :=
  let c := w.toNat % 2 ^ widthOf fm
  match fm with
  | .ieee g =>
    let t := (ieeeOf g).1
    let k := (ieeeOf g).2.1
    let neg := decide (2 ^ (t + k) ≤ c)
    let e := c / 2 ^ t % 2 ^ k
    let m := c % 2 ^ t
    if e = 2 ^ k - 1 then (if m = 0 then .inf neg else .nan (decide (m < 2 ^ (t - 1)))) else .num neg (codeValue (ieeeOf g).2.2 t neg e m)
  | .b8 b =>
    let t := b.p.val
    if c = nanCode fm then .nan false
    else if b.uns then (if b.fin = false ∧ c = 0xfe then .inf false else .num false (codeValue (biasOf fm) t false (c / 2 ^ t) (c % 2 ^ t)))
    else if b.fin = false ∧ c % 128 = 0x7f then .inf (decide (128 ≤ c))
    else .num (decide (128 ≤ c)) (codeValue (biasOf fm) t (decide (128 ≤ c)) (c % 128 / 2 ^ t) (c % 2 ^ t))

/-- The greatest finite value: that of R221, or the one that MAXF has (R225, R230). -/
def topOf : FFmt → ℚ
  | .ieee g => (2 - 2 ^ (-((ieeeOf g).1 : ℤ))) * 2 ^ (ieeeOf g).2.2
  | .b8 b =>
    let c := if b.uns then (if b.fin then 0xfe else 0xfd) else if b.fin then 0x7f else 0x7e
    codeValue (biasOf (.b8 b)) b.p.val false (c / 2 ^ b.p.val) (c % 2 ^ b.p.val)

/-- The integer to which a mode rounds a number (R228). -/
def RoundsIn (rm : Rm) (x : ℝ) (k : ℤ) : Prop :=
  |x - k| < 1 ∧ match rm with
    | .rne => 2 * |x - k| ≤ 1 ∧ (2 * |x - k| = 1 → k % 2 = 0)
    | .rna => 2 * |x - k| ≤ 1 ∧ (2 * |x - k| = 1 → |x| < |(k : ℝ)|)
    | .rtz => |(k : ℝ)| ≤ |x|
    | .rtn => (k : ℝ) ≤ x
    | .rtp => x ≤ (k : ℝ)
    | .dyn => False

/-- The number to which a mode rounds x in a format without an upper limit: x lies between two multiples of 2^q, and q is that of the
format's precision there, or of its subnormals (R229). With a precision of 1 a tie goes to the even multiple, the greater of the two: the
model's choice, notes/assumptions/90.md. -/
def RoundsTo (fm : FFmt) (rm : Rm) (x : ℝ) (r : ℚ) : Prop :=
  ∃ q k : ℤ, 2 - (biasOf fm : ℤ) - precOf fm ≤ q ∧ |x| < (2 : ℝ) ^ (q + precOf fm) ∧
    (q = 2 - (biasOf fm : ℤ) - precOf fm ∨ (2 : ℝ) ^ (q + precOf fm - 1) ≤ |x|) ∧ RoundsIn rm (x / (2 : ℝ) ^ q) k ∧ r = k * (2 : ℚ) ^ q

/-- Rounded to the format's precision, with no lower limit either, a number lies below the smallest normal (R229; that no lower limit is
meant is the model's reading, notes/assumptions/7.md). -/
def Tiny (fm : FFmt) (rm : Rm) (x : ℝ) : Prop :=
  ∃ q k : ℤ, (2 : ℝ) ^ (q + precOf fm - 1) ≤ |x| ∧ |x| < (2 : ℝ) ^ (q + precOf fm) ∧ RoundsIn rm (x / (2 : ℝ) ^ q) k ∧
    |(k : ℝ) * (2 : ℝ) ^ q| < (2 : ℝ) ^ (1 - (biasOf fm : ℤ))

/-- Flags of a result in range: inexact, with underflow where it is tiny (R229). -/
def LowFlags (fm : FFmt) (rm : Rm) (x : ℝ) (r : ℚ) (fl : Nat) : Prop :=
  (x = r → fl = 0) ∧ (x ≠ r → (Tiny fm rm x → fl = 24) ∧ (¬ Tiny fm rm x → fl = 16))

/-- A word that holds a code of a format, with zeros above it (R248), and what it stands for. -/
def Holds (fm : FFmt) (w : Word) (v : Val) : Prop := w.toNat < 2 ^ widthOf fm ∧ fval fm w = v

/-- Overflow gives an infinity rather than the greatest finite value (R229, R230). -/
def toInf (rm : Rm) (neg : Bool) : Bool :=
  match rm with
  | .rne | .rna => true
  | .rtp => !neg
  | .rtn => neg
  | _ => false

/-- The greatest finite value of a sign. -/
def topVal (fm : FFmt) (neg : Bool) : Val := .num neg (if neg then -topOf fm else topOf fm)

/-- What becomes of a number of a sign once it has been rounded (R229-R231): in range, zero, below an unsigned format, or too large. -/
def Settles (fm : FFmt) (rm : Rm) (ov : Ovf) (neg : Bool) (x : ℝ) (r : ℚ) (v : FV) : Prop :=
  match fm with
  | .ieee _ =>
    (|r| ≤ topOf fm → Holds fm v.v (.num neg r) ∧ LowFlags fm rm x r v.fl) ∧
    (topOf fm < |r| → v.fl = 20 ∧ Holds fm v.v (if toInf rm neg then .inf neg else topVal fm neg))
  | .b8 b =>
    (r = 0 → v.v = 0 ∧ LowFlags fm rm x r v.fl) ∧
    (r ≠ 0 → b.uns = true → neg = true → v = if ov = .sat then { v := 0, fl := 16 } else { v := BitVec.ofNat 64 (nanCode fm), fl := 1 }) ∧
    (r ≠ 0 → ¬ (b.uns = true ∧ neg = true) →
      (|r| ≤ topOf fm → Holds fm v.v (.num neg r) ∧ LowFlags fm rm x r v.fl) ∧
      (topOf fm < |r| → v.fl = 20 ∧
        match ov with
        | .sat => Holds fm v.v (topVal fm neg)
        | .ovf => if b.fin then v.v = BitVec.ofNat 64 (nanCode fm) else Holds fm v.v (if toInf rm neg then .inf neg else topVal fm neg)))

/-- What an operation delivers whose exact result is the number x, a zero with the sign given (R229-R231). -/
def Gives (fm : FFmt) (rm : Rm) (ov : Ovf) (zero : Bool) (x : ℝ) (v : FV) : Prop :=
  ∃ neg r, (x < 0 → neg = true) ∧ (0 < x → neg = false) ∧ (x = 0 → neg = zero) ∧ RoundsTo fm rm x r ∧ Settles fm rm ov neg x r v

/-- What an operation delivers whose exact result is an infinity, with the flags that it raises besides (R230, R231). -/
def GivesInf (fm : FFmt) (ov : Ovf) (neg : Bool) (fl : Nat) (v : FV) : Prop :=
  match fm with
  | .ieee _ => Holds fm v.v (.inf neg) ∧ v.fl = fl
  | .b8 b =>
    match ov with
    | .sat => v.fl = fl ||| 16 ∧ if b.uns && neg then v.v = 0 else Holds fm v.v (topVal fm neg)
    | .ovf =>
      if b.fin || (b.uns && neg) then v = { v := BitVec.ofNat 64 (nanCode fm), fl := fl ||| 1 }
      else Holds fm v.v (.inf neg) ∧ v.fl = fl

/-- The default NaN; invalid is raised or not (R233). -/
def GivesNan (fm : FFmt) (invalid : Bool) (v : FV) : Prop :=
  v = { v := BitVec.ofNat 64 (nanCode fm), fl := if invalid then 1 else 0 }

/-- The operand's own code, with no flag. -/
def Keeps (fm : FFmt) (a : Word) (v : FV) : Prop := v.v.toNat = a.toNat % 2 ^ widthOf fm ∧ v.fl = 0

/-- A sum (R229, R305): of two zeros of one sign it keeps it, else a zero is negative under `.rtn` alone. -/
def Adds (fm : FFmt) (rm : Rm) (ov : Ovf) (x y : Val) (v : FV) : Prop :=
  match x, y with
  | .inf a, .inf b => if a = b then GivesInf fm ov a 0 v else GivesNan fm true v
  | .inf a, .num _ _ => GivesInf fm ov a 0 v
  | .num _ _, .inf b => GivesInf fm ov b 0 v
  | .num a x, .num b y => Gives fm rm ov (if a = b then a else decide (rm = .rtn)) ((x + y : ℚ) : ℝ) v
  | _, _ => GivesNan fm (x.sig || y.sig) v

/-- An exact product, none for 0 × ∞ (R305). -/
def product (x y : Val) : Option Val :=
  match x, y with
  | .inf a, .inf b => some (.inf (a != b))
  | .inf a, .num b y => if y = 0 then none else some (.inf (a != b))
  | .num a x, .inf b => if x = 0 then none else some (.inf (a != b))
  | .num a x, .num b y => some (.num (a != b) (x * y))
  | _, _ => some (.nan (x.sig || y.sig))

/-- A product, rounded (R305). -/
def Multiplies (fm : FFmt) (rm : Rm) (ov : Ovf) (x y : Val) (v : FV) : Prop :=
  match product x y with
  | none => GivesNan fm true v
  | some (.nan s) => GivesNan fm s v
  | some (.inf n) => GivesInf fm ov n 0 v
  | some (.num n z) => Gives fm rm ov n (z : ℝ) v

/-- A quotient (R305). -/
def Divides (fm : FFmt) (rm : Rm) (ov : Ovf) (x y : Val) (v : FV) : Prop :=
  match x, y with
  | .inf _, .inf _ => GivesNan fm true v
  | .inf a, .num b _ => GivesInf fm ov (a != b) 0 v
  | .num a _, .inf b => Gives fm rm ov (a != b) 0 v
  | .num a x, .num b y =>
    if y = 0 then (if x = 0 then GivesNan fm true v else GivesInf fm ov (a != b) 2 v)
    else Gives fm rm ov (a != b) ((x / y : ℚ) : ℝ) v
  | _, _ => GivesNan fm (x.sig || y.sig) v

/-- A square root (R305). -/
def Roots (fm : FFmt) (rm : Rm) (ov : Ovf) (x : Val) (v : FV) : Prop :=
  match x with
  | .nan s => GivesNan fm s v
  | .inf n => if n then GivesNan fm true v else GivesInf fm ov false 0 v
  | .num n x => if x < 0 then GivesNan fm true v else Gives fm rm ov n (Real.sqrt (x : ℝ)) v

/-- A remainder (R305), exact and without flags. A negative one of an unsigned format gives 0x00: the model's choice,
notes/assumptions/91.md. -/
def Remains (fm : FFmt) (a : Word) (x y : Val) (v : FV) : Prop :=
  match x, y with
  | .inf _, .inf _ => GivesNan fm true v
  | .inf _, .num _ _ => GivesNan fm true v
  | .num _ _, .inf _ => Keeps fm a v
  | .num s x, .num _ y =>
    if y = 0 then GivesNan fm true v
    else ∃ n : ℤ, 2 * |x / y - n| ≤ 1 ∧ (2 * |x / y - n| = 1 → n % 2 = 0) ∧ v.fl = 0 ∧
      let r := x - y * n
      if r = 0 then (match fm with
        | .ieee _ => Holds fm v.v (.num s 0)
        | .b8 _ => v.v = 0)
      else if unsignedFmt fm = true ∧ r < 0 then v.v = 0 else Holds fm v.v (.num (decide (r < 0)) r)
  | _, _ => GivesNan fm (x.sig || y.sig) v

/-- A fused operation (R306): the product and the addend with the signs given, summed exactly. -/
def Fuses (fm : FFmt) (rm : Rm) (ov : Ovf) (negP negC : Bool) (x y z : Val) (v : FV) : Prop :=
  match product x y with
  | none => GivesNan fm true v
  | some p => if p.isNan || z.isNan then GivesNan fm (x.sig || y.sig || z.sig) v
      else Adds fm rm ov (if negP then p.neg else p) (if negC then z.neg else z) v

/-- A number with its exponent moved (R311). -/
def Scales (fm : FFmt) (rm : Rm) (ov : Ovf) (a : Word) (n : ℤ) (v : FV) : Prop :=
  match fval fm a with
  | .nan s => GivesNan fm s v
  | .inf _ => Keeps fm a v
  | .num s x => if x = 0 then Keeps fm a v else Gives fm rm ov s ((x : ℝ) * (2 : ℝ) ^ n) v

/-- A number rounded to an integral value of its format (R310); the exact variant raises inexact where that differs. -/
def Integral (exact : Bool) (fm : FFmt) (rm : Rm) (ov : Ovf) (a : Word) (v : FV) : Prop :=
  match fval fm a with
  | .nan s => GivesNan fm s v
  | .inf _ => Keeps fm a v
  | .num s x => ∃ (k : ℤ) (fl : Nat), RoundsIn rm (x : ℝ) k ∧ Gives fm rm ov s (k : ℝ) { v := v.v, fl := fl } ∧
      v.fl = fl ||| (if exact = true ∧ (k : ℚ) ≠ x then 16 else 0)

/-- The order of numbers and infinities, −0 = +0; a NaN has no place in it (R308). -/
def Val.lt : Val → Val → Bool
  | .inf a, .inf b => a && !b
  | .inf a, .num _ _ => a
  | .num _ _, .inf b => !b
  | .num _ x, .num _ y => decide (x < y)
  | _, _ => false

def Val.eq : Val → Val → Bool
  | .inf a, .inf b => a == b
  | .num _ x, .num _ y => decide (x = y)
  | _, _ => false

/-- The order in which −0 comes before +0 (R234). -/
def Val.before (x y : Val) : Bool :=
  x.lt y || match x, y with
    | .num a x, .num b y => decide (x = y) && a && !b
    | _, _ => false

/-- Minimum and maximum, and their number variants (R234). -/
def Chooses (mx num : Bool) (fm : FFmt) (a b : Word) (v : FV) : Prop :=
  let x := fval fm a
  let y := fval fm b
  let sig := x.sig || y.sig
  let chosen (c : Word) : Prop := v.v.toNat = c.toNat % 2 ^ widthOf fm ∧ v.fl = if sig then 1 else 0
  if x.isNan && y.isNan then GivesNan fm sig v
  else if x.isNan then (if num then chosen b else GivesNan fm sig v)
  else if y.isNan then (if num then chosen a else GivesNan fm sig v)
  else if mx then chosen (if x.before y then b else a)
  else chosen (if y.before x then b else a)

/-- A comparison: whether it holds, and whether it raises invalid on any NaN or on a signalling one alone (R308). -/
def compared (c : Cmp8) (x y : Val) : Bool × Bool :=
  let any := x.isNan || y.isNan
  let sig := x.sig || y.sig
  match c with
  | .eq => (x.eq y, sig)
  | .lt => (x.lt y, any)
  | .le => (x.lt y || x.eq y, any)
  | .un => (any, sig)
  | .ne => (!x.eq y, sig)
  | .ltq => (x.lt y, sig)
  | .leq => (x.lt y || x.eq y, sig)
  | .eqs => (x.eq y, any)

/-- The class of a value (R309). -/
def classBit (fm : FFmt) (x : Val) : Nat :=
  match x with
  | .inf n => if n then 0 else 7
  | .nan s => if s then 8 else 9
  | .num n x =>
    if x = 0 then (if n then 3 else 4)
    else if (2 : ℚ) ^ (1 - (biasOf fm : ℤ)) ≤ |x| then (if n then 1 else 6)
    else if n then 2 else 5

/-- A sign operation (R309): the sign that `f` gives from those of the operands, where the value has one. -/
def Signs (f : Bool → Bool → Bool) (fm : FFmt) (a b : Word) (v : FV) : Prop :=
  let w := widthOf fm
  let fixed := unsignedFmt fm || (fval fm a).isNan || (match fm with
    | .ieee _ => false
    | .b8 _ => a.toNat % 256 == 0)
  if fixed then Keeps fm a v
  else v.fl = 0 ∧ v.v.toNat = a.toNat % 2 ^ (w - 1) + if f (a.getLsbD (w - 1)) (b.getLsbD (w - 1)) then 2 ^ (w - 1) else 0

/-- The exponent of a number (R312). -/
def Exponent (fm : FFmt) (a : Word) (v : FV) : Prop :=
  match fval fm a with
  | .nan _ | .inf _ => v = { v := 0x7fffffffffffffff#64, fl := 1 }
  | .num _ x =>
    if x = 0 then v = { v := 0x8000000000000000#64, fl := 2 }
    else v.fl = 0 ∧ (2 : ℚ) ^ v.v.toInt ≤ |x| ∧ |x| < (2 : ℚ) ^ (v.v.toInt + 1)

/-- The next value of a format in a direction (R313): no other lies between; a zero so reached has the sign of the operand, where the format
has two. Without a next value the operand stays. -/
def NextValue (up : Bool) (fm : FFmt) (a : Word) (v : FV) : Prop :=
  let past (x y : Val) : Bool := if up then x.lt y else y.lt x
  let x := fval fm a
  if x.isNan then GivesNan fm x.sig v
  else
    ((∃ c, past x (fval fm c) = true) → v.fl = 0 ∧ v.v.toNat < 2 ^ widthOf fm ∧ past x (fval fm v.v) = true ∧
      (∀ c, past x (fval fm c) = true → past (fval fm c) (fval fm v.v) = false) ∧
      match fm, x, fval fm v.v with
      | .ieee _, .num s _, .num n z => z = 0 → n = s
      | _, _, _ => True) ∧
    ((∀ c, past x (fval fm c) = false) → Keeps fm a v)

/-- A value converted to a format (R229-R231, R233). -/
def Converts (fm : FFmt) (rm : Rm) (ov : Ovf) (x : Val) (v : FV) : Prop :=
  match x with
  | .nan s => GivesNan fm s v
  | .inf n => GivesInf fm ov n 0 v
  | .num s x => Gives fm rm ov s (x : ℝ) v

/-- Least and greatest value of an integer format and its width (R219, R223). -/
def intRange : IFmt → ℤ × ℤ × Nat
  | .s8 => (-2 ^ 7, 2 ^ 7 - 1, 8)
  | .z8 => (0, 2 ^ 8 - 1, 8)
  | .s16 => (-2 ^ 15, 2 ^ 15 - 1, 16)
  | .z16 => (0, 2 ^ 16 - 1, 16)
  | .s32 => (-2 ^ 31, 2 ^ 31 - 1, 32)
  | .z32 => (0, 2 ^ 32 - 1, 32)
  | .s64 => (-2 ^ 63, 2 ^ 63 - 1, 64)
  | .z64 => (0, 2 ^ 64 - 1, 64)

/-- An integer in the low bits of a register (R223): the one in the format's range that agrees with them. -/
def IntIn (f : IFmt) (w : Word) (k : ℤ) : Prop :=
  (intRange f).1 ≤ k ∧ k ≤ (intRange f).2.1 ∧ (k - w.toNat) % 2 ^ (intRange f).2.2 = 0

/-- A word that holds an integer of a format, with zeros above it (R232, R248). -/
def HoldsInt (f : IFmt) (w : Word) (k : ℤ) : Prop := w.toNat < 2 ^ (intRange f).2.2 ∧ IntIn f w k

/-- A value converted to an integer format (R232). -/
def ToInt (f : IFmt) (rm : Rm) (x : Val) (v : FV) : Prop :=
  let lo := (intRange f).1
  let hi := (intRange f).2.1
  match x with
  | .nan _ => v = { v := 0, fl := 1 }
  | .inf n => HoldsInt f v.v (if n then lo else hi) ∧ v.fl = 1
  | .num _ x => ∃ k : ℤ, RoundsIn rm (x : ℝ) k ∧
      if k < lo then HoldsInt f v.v lo ∧ v.fl = 1
      else if hi < k then HoldsInt f v.v hi ∧ v.fl = 1
      else HoldsInt f v.v k ∧ v.fl = if (k : ℚ) = x then 0 else 16

/-- A value delivered by a decoding load with a scale byte (R226, R227): a NaN, or a NaN scale, raises nothing. -/
def Decodes (df : FF4) (rm : Rm) (x : Val) (scale : Nat) (v : FV) : Prop :=
  if scale = 255 ∨ x.isNan = true then GivesNan (.ieee df) false v
  else match x with
    | .num s x => Gives (.ieee df) rm .sat s (((x * (2 : ℚ) ^ ((scale : ℤ) - 127)) : ℚ) : ℝ) v
    | y => Converts (.ieee df) rm .sat y v

/-! ### Terms: stall counts -/

/-- An operand read nearer to the instruction that produced it than that one's latency (R274): the distance is what the thread has counted
since then, through the queue or the named register. -/
def TooNear (t : Thread) (o : Opnd) (dist l : Nat) : Prop :=
  ∃ r : Reg, ((∃ k, o = .q k ∧ r = qReg t.a k.val) ∨ ∃ k, o = .n k ∧ isSoft t k.val = false ∧ r = nReg t.a k.val) ∧
    dist = t.a.dist - r.born ∧ l = r.lat ∧ dist < l

end Sys2Proof.Claims

open Sys2Proof Sys2Proof.Machine Sys2Proof.Safety Sys2Proof.Claims

/-! ### Integer and address instructions, branches -/

/-- R290: what the one-operand bit operations compute, bit by bit.
R294: what the bit-field instructions compute, bit by bit: the field starts at b[5:0] and is cut at bit 63.
R293: a CRC over eight bytes is that over the low four followed by that over the high four, and so down to one byte; the running value
stays below 2^32. -/
def Obligations.BitResults : Prop :=
  (∀ a : Word,
    (a = 0 → valClz a = 64 ∧ valCtz a = 64) ∧
    (a ≠ 0 → (valClz a).toNat < 64 ∧ (valCtz a).toNat < 64 ∧
      a.getLsbD (63 - (valClz a).toNat) = true ∧ (∀ i, 63 - (valClz a).toNat < i → a.getLsbD i = false) ∧
      a.getLsbD (valCtz a).toNat = true ∧ ∀ i, i < (valCtz a).toNat → a.getLsbD i = false) ∧
    valPopc a = BitVec.ofNat 64 ((List.range 64).countP (fun i => a.getLsbD i)) ∧
    (∀ i, i < 64 → (valBrev a).getLsbD i = a.getLsbD (63 - i)) ∧
    ∀ i j, i < 8 → j < 8 → (valBswap a).getLsbD (8 * i + j) = a.getLsbD (8 * (7 - i) + j)) ∧
  (∀ (c a b : Word) (i : Nat), i < 64 →
    let pos := b.toNat % 64
    let w := min (b.toNat / 64 % 64 + 1) (64 - pos)
    (valBfxZ a b).getLsbD i = (decide (i < w) && a.getLsbD (pos + i)) ∧
    (valBfxS a b).getLsbD i = a.getLsbD (pos + min i (w - 1)) ∧
    (valBfi c a b).getLsbD i = if pos ≤ i ∧ i < pos + w then a.getLsbD (i - pos) else c.getLsbD i) ∧
  (∀ a b : Word,
    valCrc 8 a b = valCrc 4 (valCrc 4 a b) (b >>> 32) ∧ valCrc 4 a b = valCrc 2 (valCrc 2 a b) (b >>> 16) ∧
    valCrc 2 a b = valCrc 1 (valCrc 1 a b) (b >>> 8) ∧ (valCrc 1 a b).toNat < 2 ^ 32)

/-- R297, R300, R301 with R271, R296: a branch goes to pc + 4 × offset where its condition holds, else on; it changes nothing else.
R298, R299, R301, R303: calls deliver the address after them and go to their target; register branches go to an aligned target;
`nop` goes on, at any stall count, and the functions above it are unassigned.
R265, R299, R401: a register branch to an address that is not a multiple of 4 raises the alignment fault, subcause 2, at the branch. That
its fault reports access descriptor 0 is the model's choice (notes/assumptions/10.md). -/
def Obligations.ControlTransfers : Prop :=
  (∀ (i : Instr) (s : State) (os : List Opnd) (taken : Bool) (off : Word),
    branchOf i s = some (os, taken, off) → Fits s os .drop → ChunkGoesOn s →
      Passes i s s.th.a (if taken then s.th.a.pc + 4 * off else following s.th)) ∧
  ((∀ (s : State) (off : BitVec 16), ChunkGoesOn s →
    Passes (.call off) s (written s.th.a .push (following s.th) 1) (s.th.a.pc + 4 * off.signExtend 64)) ∧
  (∀ (s : State) (k : IWord), ChunkGoesOn s →
    Passes (.callLong k) s (written s.th.a .push (following s.th) 1) (s.th.a.pc + 4 * k.signExtend 64)) ∧
  (∀ (s : State) (d : Dest) (a : Opnd), Fits s [a] d → ChunkGoesOn s → (opnd s a).toNat % 4 = 0 →
    Passes (.callr d a) s (written s.th.a d (following s.th) 1) (opnd s a)) ∧
  (∀ (s : State) (a : Opnd), Fits s [a] .drop → ChunkGoesOn s → (opnd s a).toNat % 4 = 0 →
    Passes (.jmpr a) s s.th.a (opnd s a) ∧ Passes (.ret a) s s.th.a (opnd s a)) ∧
  (∀ s : State, ChunkGoesOn s → Passes .nop s s.th.a (following s.th)) ∧
  (∀ sc : Stall, decode [0x46000004 + sc.val * 2 ^ 22] = .ok (.nop, 1)) ∧
  ∀ f, 5 ≤ f → f ≤ 15 → decode [0x46000000 + f] = .error .unassigned) ∧
  (∀ (i : Instr) (s : State) (d : Dest) (a : Opnd),
    i = .callr d a ∨ (i = .jmpr a ∨ i = .ret a) ∧ d = .drop →
    Fits s [a] d → (opnd s a).toNat % 4 ≠ 0 →
      exec i s = .next (raise { s with th := { s.th with kept := [] } } (trapOf s 0x06 0x02 (opnd s a) 0 0)))

/-! ### Checks that every instruction of a value makes -/

/-- R251, R258, R278: an undeclared register is an illegal instruction, subcause 6; a soft destination is one, subcause 7.
R274, R401: with EXECCTL.CHK = 1 an operand read nearer to its producer than the producer's latency raises the stall-count violation
with the operand field, the distance and the latency, and the instruction does not execute. That the field reported is the first violating one
in the order of the encoding, and that a soft operand is none, is the model's choice (notes/assumptions/10.md, 69.md). -/
def Obligations.OperandChecks : Prop :=
  (∀ (i : Instr) (s : State) (os : List Opnd) (d : Dest), fieldsOf i s = some (os, d) →
    (Undeclared s.th os d → exec i s = .next (raise s (trapOf s 0x05 6 0 0 0))) ∧
    (¬ Undeclared s.th os d → (∃ k : Fin 44, d = .reg k ∧ isSoft s.th k.val = true) → exec i s = .next (raise s (trapOf s 0x05 7 0 0 0)))) ∧
  ∀ (i : Instr) (s : State) (pre post : List Opnd) (o : Opnd) (d : Dest) (dist l : Nat),
    fieldsOf i s = some (pre ++ o :: post, d) → (∀ x ∈ pre ++ o :: post, Readable s.th x) → Writable s.th d → s.th.a.chk = true →
    TooNear s.th o dist l → (∀ x ∈ pre, ∀ dist' l', ¬ TooNear s.th x dist' l') →
      exec i s = .next (raise { s with th := { s.th with kept := [] } }
        (trapOf s 0x0c 0 (BitVec.ofNat 64 o.code) (BitVec.ofNat 64 dist) (BitVec.ofNat 64 l)))

/-- R258, R261-R263: where soft operands are bound, an integer instruction delivers what it computes after their recipes have been
evaluated.
R258, R262: the same instruction, whose recipe traps or waits, raises that trap or waits. The model's own: a register that a recipe reads
is never a stall-count violation (notes/assumptions/69.md), and what a recipe gave serves all fields of one instruction and no later one
(notes/assumptions/20.md). -/
def Obligations.SoftOperands : Prop :=
  (∀ (i : Instr) (s s1 : State) (os : List Opnd) (d : Dest),
    (intOf i s).map (fun x => (x.1, x.2.1)) = some (os, d) → (∀ k : Fin 44, Opnd.n k ∈ os → k.val < s.th.nreg) → Writable s.th d →
    softs os { s with th := { s.th with kept := [] } } = .ok () s1 → OnTime s1.th os → ChunkGoesOn s1 →
      ∃ v lat t, intOf i s1 = some (os, d, v, lat) ∧ exec i s = .next t ∧
        t.th = passed s1.th (written s1.th.a d v lat) (following s1.th) ∧ Counts { s1 with th := t.th } t) ∧
  (∀ (i : Instr) (s s1 : State) (os : List Opnd) (d : Dest) (e : Stop),
    (intOf i s).map (fun x => (x.1, x.2.1)) = some (os, d) → (∀ k : Fin 44, Opnd.n k ∈ os → k.val < s.th.nreg) → Writable s.th d →
    softs os { s with th := { s.th with kept := [] } } = .error e s1 → e ≠ .cut → exec i s = .next (stopAt s1 e))

/-- R286-R295, R277 with R270, R273, R285: each integer instruction delivers its result and changes nothing else.
R102: the instruction that is the 512th of its chunk ends the chunk after it has delivered its result. -/
def Obligations.IntegerResults : Prop :=
  (∀ (i : Instr) (s : State) (os : List Opnd) (d : Dest) (v : Word) (lat : Nat),
    intOf i s = some (os, d, v, lat) → Fits s os d → ChunkGoesOn s → Passes i s (written s.th.a d v lat) (following s.th)) ∧
  (∀ (i : Instr) (s : State) (os : List Opnd) (d : Dest) (v : Word) (lat : Nat),
    intOf i s = some (os, d, v, lat) → Fits s os d → 511 ≤ s.th.chunk.before + s.th.chunk.count →
      ∃ t, exec i s = .next (endChunk t) ∧ t.th = passed s.th (written s.th.a d v lat) (following s.th) ∧ Counts { s with th := t.th } t)

/-! ### Floating-point instructions -/

/-- R235-R237, R305-R317: an instruction whose exceptions are not enabled delivers its result and sets their flags, and changes nothing
else.
R237, R397, R401: an enabled exception of an instruction that violates no stall count raises the floating-point trap with every exception
raised and the value that would have been delivered; no flag is set and nothing is delivered. -/
def Obligations.FloatResults : Prop :=
  (∀ (i : Instr) (s : State) (os : List Opnd) (d : Dest) (v : FV) (lat : Nat),
    floatOf i s = some (os, d, v, lat) → Fits s os d → ChunkGoesOn s → v.fl &&& s.th.a.fpctl.bits 12 8 = 0 →
      Passes i s (written { s.th.a with fpflags := s.th.a.fpflags ||| BitVec.ofNat 64 (v.fl % 32) } d v.v lat) (following s.th)) ∧
  (∀ (i : Instr) (s : State) (os : List Opnd) (d : Dest) (v : FV) (lat : Nat),
    floatOf i s = some (os, d, v, lat) → Fits s os d → v.fl &&& s.th.a.fpctl.bits 12 8 ≠ 0 →
      exec i s = .next (raise { s with th := { s.th with kept := [] } } (trapOf s 0x0b 0 (BitVec.ofNat 64 v.fl) v.v 0)))

/-- R221, R224, R225, R229-R231, R233 with R305: sums, differences, products, quotients, square roots and remainders of every format are the
exact results, rounded once, with the flags of the outcome; the formats' values are those of `fval`.
R306: the fused operations round the exact value of three operands once. R311: `fscalb`. R310: `frint`, both variants.
The model's choices and readings in it: a tie at a precision of 1 (notes/assumptions/90.md), a negative remainder of an unsigned format
(notes/assumptions/91.md), tininess (notes/assumptions/7.md). -/
def Obligations.FloatArithmetic : Prop :=
  (∀ (fm : FFmt) (rm : Rm) (ov : Ovf) (a b c : Word), rm ≠ .dyn →
    let x := fval fm a
    let y := fval fm b
    let z := fval fm c
    (Adds fm rm ov x y (valFadd fm rm ov a b) ∧ Adds fm rm ov x y.neg (valFsub fm rm ov a b) ∧
      Multiplies fm rm ov x y (valFmul fm rm ov a b) ∧ Divides fm rm ov x y (valFdiv fm rm ov a b) ∧ Roots fm rm ov x (valFsqrt fm rm ov a)) ∧
    (∀ negP negC, Fuses fm rm ov negP negC x y z (valFused negP negC fm rm ov a b c)) ∧
    Scales fm rm ov a b.toInt (valFscalb fm rm ov a b) ∧ ∀ exact, Integral exact fm rm ov a (valFrint exact fm rm ov a)) ∧
  ∀ (fm : FFmt) (a b : Word), Remains fm a (fval fm a) (fval fm b) (valFrem fm a b)

/-- R228, R235: the mode that an instruction rounds in is never `.dyn` itself: that reads FPCTL.
R234, R307: minimum and maximum. R308: comparisons. R309: classes and signs. R312, R313: exponents and next values.
R316, R317, with R229-R232: conversions between formats, to and from integers, and of one lane of a packed doubleword.
R226, R227, R332: what a decoding load makes of an element and its scale byte. -/
def Obligations.FloatConversions : Prop :=
  (∀ (a : Arch) (rm : Rm), Machine.rmOf a rm ≠ .dyn ∧ (rm ≠ .dyn → Machine.rmOf a rm = rm)) ∧
  (∀ (fm : FFmt) (a b : Word),
    (∀ mx num, Chooses mx num fm a b (valMinMax mx num fm a b)) ∧
    (∀ c, valFcmp fm c a b =
      { v := if (compared c (fval fm a) (fval fm b)).1 then 1 else 0, fl := if (compared c (fval fm a) (fval fm b)).2 then 1 else 0 }) ∧
    valFclass fm a = { v := BitVec.ofNat 64 (2 ^ classBit fm (fval fm a)), fl := 0 } ∧
    (∀ f, Signs f fm a b (valFsgn f fm a b)) ∧ Exponent fm a (valFlogb fm a) ∧ ∀ up, NextValue up fm a (valFnext up fm a)) ∧
  ∀ (rm : Rm) (ov : Ovf) (a b c : Word), rm ≠ .dyn →
    (∀ dst src : FFmt, dst ≠ src → Converts dst rm ov (fval src a) (valFcvt dst src rm ov a)) ∧
    (∀ fm : FFmt, if (fval fm a).sig then GivesNan fm true (valFcvt fm fm rm ov a) else Keeps fm a (valFcvt fm fm rm ov a)) ∧
    (∀ (dst : IFmt) (src : FFmt), ToInt dst rm (fval src a) (valFcvti dst src rm a)) ∧
    (∀ (dst : FFmt) (src : IFmt) (k : ℤ), IntIn src a k → Gives dst rm ov false (k : ℝ) (valIcvtf dst src rm ov a)) ∧
    (∀ (dst : B8) (src : FF4), ∃ u : FV, Converts (.b8 dst) rm ov (fval (.ieee src) a) u ∧
      (valFpk8 dst src rm ov a b c).fl = u.fl ∧
      ∀ i, i < 64 → (valFpk8 dst src rm ov a b c).v.getLsbD i =
        if 8 * (c.toNat % 8) ≤ i ∧ i < 8 * (c.toNat % 8) + 8 then u.v.getLsbD (i - 8 * (c.toNat % 8)) else b.getLsbD i) ∧
    (∀ (dst : FF4) (src : B8), Converts (.ieee dst) rm .sat (fval (.b8 src) (a >>> (8 * (b.toNat % 8)))) (valFupk8 dst src rm a b)) ∧
    ∀ (df : FF4) (scale : Nat), scale < 256 →
      (∀ fm : FFmt, Decodes df rm (fval fm a) scale (valLdf df (.flt fm) rm a.toNat scale)) ∧
      ∀ (f : IFmt) (k : ℤ), IntIn f a k → Decodes df rm (.num false (k : ℚ)) scale (valLdf df (.int f) rm a.toNat scale)

/-! ### Terms: instructions performed between chunks -/

namespace Sys2Proof.Claims

/-- The state after the checks of an instruction whose operands are readable: what soft registers gave before is dropped (R262). -/
def ready (s : State) : State := { s with th := { s.th with kept := [] } }

/-- The front thread stands between chunks, where an instruction of R103 or R104 is performed (R100). -/
def Between (s : State) : Prop := s.th.boundary = true

/-- The front thread runs in no view (R135). -/
def NoView (s : State) : Prop := s.th.chain = []

/-- The partition of the front thread is not in replay (R440). -/
def NoReplay (s : State) : Prop := replayOf s s.th.part = none

/-- An instruction passes in its chunk from a front thread and a state that it has changed; nothing else changes but counting. -/
def PassesIn (i : Instr) (s u : State) (th : Thread) (a : Arch) (pc : Word) : Prop :=
  ∃ t, exec i s = .next t ∧ t.th = passed th a pc ∧ Counts { u with th := t.th } t

/-- The same, from a front thread that it has changed. -/
def PassesAs (i : Instr) (s : State) (th : Thread) (a : Arch) (pc : Word) : Prop := PassesIn i s s th a pc

/-- What an instruction's trap does at the instruction (R390). -/
def Raises (i : Instr) (s : State) (cause sub : Nat) (i0 i1 i2 : Word) : Prop :=
  exec i s = .next (raise (ready s) (trapOf s cause sub i0 i1 i2))

/-- Misuse with its operand value (R399). -/
def Misuses (i : Instr) (s : State) (sub : Nat) (v : Word) : Prop := Raises i s 0x0d sub v 0 0

end Sys2Proof.Claims

/-! ### Terms: memory -/

namespace Sys2Proof.Claims

/-- A chunk that has used a translation twice, for the checks and for the access (R43): its page's VA and log2 of its size. -/
def touchedAt (s : State) (base lg : Nat) : Chunk :=
  { s.th.chunk with used := (ctxOf s.th, base, lg) :: (ctxOf s.th, base, lg) :: s.th.chunk.used }

/-- The same for an address of a window, whose pages are of 4 KiB (R18). -/
def touched (s : State) (va : Word) : Chunk := touchedAt s (va.toNat / 4096 * 4096) 12

/-- The same for a translation that a TLB holds. -/
def touchedIn (s : State) (e : Tlb) : Chunk := touchedAt s e.base e.lg

/-- The same, with a line of class D read (R107). -/
def touchedD (s : State) (e : Tlb) (line : Nat) : Chunk :=
  { touchedIn s e with reads := if s.th.chunk.reads.contains line then s.th.chunk.reads else line :: s.th.chunk.reads }

/-- A chunk marked where it has read a poisoned line of another class than D (R70, R71). -/
def marked (s : State) (line : Nat) (c : Chunk) : Chunk := { c with poison := c.poison || s.mem.poisoned.contains line }

/-- The translation through which a chunk stores, kept for its commit point (R37). -/
def dirtied (s : State) (e : Tlb) : List (Nat × Nat × Nat × Nat) :=
  if s.th.chunk.dirty.any (fun d => d.2.2.1 == e.leafPa) then s.th.chunk.dirty
  else (e.base, ctxOf s.th, e.leafPa, e.leaf) :: s.th.chunk.dirty

/-- The state with the front thread's chunk changed and what its instruction evaluated dropped. -/
def withChunk (s : State) (c : Chunk) : State := { s with th := { s.th with kept := [], chunk := c } }

/-- An address of the own cluster's window whose byte stands at a PA: the window's offset is allocated and its granule present (R18-R21,
R63, R79). -/
def OwnWindow (s : State) (va : Word) (pa : Nat) : Prop :=
  isWindow va.toNat = true ∧ ∃ off p, windowOf (clusterOf s.th.core) va.toNat = some (clusterOf s.th.core, off) ∧
    scratchAt s (clusterOf s.th.core) (ctxOf s.th) off = .ok p ∧ pa = localPa s p

/-- An address whose translation the core's L1 TLB holds, to local memory of a class, with leave for a kind of access (R22, R32, R38,
R46). -/
structure HeldPage (s : State) (va : Word) (e : Tlb) (pa : Nat) (cls : MemClass) (kind : AccKind) : Prop where
  canon : canonical s s.th.part va.toNat = true
  plain : isWindow va.toNat = false
  held : l1TlbFind s (whoOf s.th) va.toNat = some e
  perm : permError e.leaf (!s.th.a.sup) false kind = none
  kind_of : peCls e.leaf = cls
  frame : pa = e.frame + va.toNat % 2 ^ e.lg
  near : isLocal s e.frame = true
  here : isLocal s pa = true
  mem : region (paLocal pa) ≠ .control

/-- Bytes as a register value (R8). -/
def wordOf (b : List Byte) : Word := BitVec.ofNat 64 (leNat b)

/-- A loaded value extended (R323): sizes without a sign are zero-extended. -/
def extended (sz : MemSz) (v : Word) : Word :=
  match sz with
  | .s8 => (v.truncate 8).signExtend 64
  | .s16 => (v.truncate 16).signExtend 64
  | .s32 => (v.truncate 32).signExtend 64
  | _ => v

/-- Bytes of a size (R323). -/
def szBytes (sz : MemSz) : Nat :=
  match sz with
  | .z8 | .s8 => 1
  | .z16 | .s16 => 2
  | .z32 | .s32 => 4
  | .d64 => 8

/-- What a load reads, where its result goes, its address and its size (R327-R329). -/
def loadOf (i : Instr) (s : State) : Option (List Opnd × Dest × Word × MemSz) :=
  match i with
  | .ld d a off sz => some ([a], d, opnd s a + BitVec.ofNat 64 (szBytes sz) * off.signExtend 64, sz)
  | .ldLong d a sz k => some (regsOf [a], d, opndK s a k + k.signExtend 64, sz)
  | _ => none

/-- What a store reads, its address, its value and its size (R327-R329). -/
def storeOf (i : Instr) (s : State) : Option (List Opnd × List Opnd × Word × Word × MemSz) :=
  match i with
  | .st v a off sz => some ([a], [v], opnd s a + BitVec.ofNat 64 (szBytes sz) * off.signExtend 64, opnd s v, sz)
  | .stLong v a sz k => some (regsOf [a], regsOf [v], opndK s a k + k.signExtend 64, opndK s v k, sz)
  | _ => none

/-- What a decoding load reads, where its result goes, its address, rounding and register format (R330-R332). -/
def decodingOf (i : Instr) (s : State) : Option (List Opnd × Dest × Word × Rm × FF4) :=
  match i with
  | .ldf d a off df => some ([a], d, opnd s a + off.signExtend 64, .dyn, df)
  | .ldfLong d a rm df k => some (regsOf [a], d, opndK s a k + k.signExtend 64, rm, df)
  | _ => none

/-- What an atomic reads, where its result goes, its address, width, order and scope, and what it writes for an old value (R334-R336). -/
def atomicOf (i : Instr) (s : State) : Option (Opnd × List Opnd × Dest × AmoW × Ord × Scope × (Nat → Option Nat)) :=
  match i with
  | .amo d a b w ord scope op => some (a, [b], d, w, ord, scope, fun old => some (amoNew w op old (opnd s b).toNat))
  | .cas d a b c w ord scope => some (a, [b, c], d, w, ord, scope, fun old =>
      if old = (opnd s b).toNat % 2 ^ amoBits w then some ((opnd s c).toNat % 2 ^ amoBits w) else none)
  | _ => none

/-- The thread has no posted store, its core no guarded line of its context, and every write-back of guarded bytes of its core has been
acknowledged: a release or an acquire has nothing left to do (R122). -/
def Quiet (s : State) : Prop :=
  (∀ p ∈ s.coh.posted, p.uid ≠ s.th.uid) ∧ gLines s s.th.core (ctxOf s.th) = [] ∧ coreWritesPending s s.th.core = false

/-- The line of a sync object or join object that no core has written or read, free at its home and not poisoned, with no waiter, and a
line-request entry for the access (R67, R70, R85, R339). -/
structure FreeLine (s : State) (line : Nat) : Prop where
  free : lineHeld s line = false
  home : canHomeWrite s line = true
  entry : entryFree s (clusterOf s.th.core) s.th.core = true
  clean : s.mem.poisoned.contains line = false
  read : touching s line 0 = []
  waiters : firstWaiter s line = none

/-- The L1 of a core has a line free (R55). -/
def L1Room (s : State) (core : Nat) : Prop := (s.coh.l1.filter (fun x => x.core = core)).length < 2048

/-- A line that no L1 of the core holds, and that its home can send at once: the line is stable, not owned, without held requests, with room in
its slice and in the L1, and a line-request entry is free (R55, R64, R67, R85, R86). -/
structure Fetchable (s : State) (line : Nat) : Prop where
  miss : l1Get s s.th.core line = none
  room : L1Room s s.th.core
  stable : lineHeld s line = false
  unowned : (dirOf s line).st ≠ .O
  alone : (dirOf s line).queue = []
  entry : entryFree s (clusterOf s.th.core) s.th.core = true

/-- An address of a window that reaches another cluster of the partition, whose byte stands at a PA (R18-R21, R63, R79). -/
def OtherWindow (s : State) (va : Word) (pa : Nat) : Prop :=
  isWindow va.toNat = true ∧ ∃ cl off p, windowOf (clusterOf s.th.core) va.toNat = some (cl, off) ∧ cl ≠ clusterOf s.th.core ∧
    inPart s s.th.part cl = true ∧ scratchAt s cl (ctxOf s.th) off = .ok p ∧ pa = localPa s p

/-- An address whose translation the core's L1 TLB holds, to another device's memory of class G or U (R22, R38, R46, R450). -/
structure FarPage (s : State) (va : Word) (e : Tlb) (pa : Nat) (cls : MemClass) (kind : AccKind) : Prop where
  canon : canonical s s.th.part va.toNat = true
  plain : isWindow va.toNat = false
  held : l1TlbFind s (whoOf s.th) va.toNat = some e
  perm : permError e.leaf (!s.th.a.sup) false kind = none
  kind_of : peCls e.leaf = cls
  shared : cls = .G ∨ cls = .U
  frame : pa = e.frame + va.toNat % 2 ^ e.lg
  far : isLocal s e.frame = false
  away : isLocal s pa = false
  fabric : vfFab s s.th.vf = true

/-- An address whose translation the core's L1 TLB holds, to control space of this device (R23, R444). -/
structure ControlPage (s : State) (va : Word) (e : Tlb) (pa : Nat) (kind : AccKind) : Prop where
  canon : canonical s s.th.part va.toNat = true
  plain : isWindow va.toNat = false
  held : l1TlbFind s (whoOf s.th) va.toNat = some e
  perm : permError e.leaf (!s.th.a.sup) false kind = none
  frame : pa = e.frame + va.toNat % 2 ^ e.lg
  near : isLocal s e.frame = true
  here : isLocal s pa = true
  mem : region (paLocal pa) = .control

/-- A request to another device may leave: outside replay, with a line-request entry and a live route (R67, R442, R458). -/
def FarOpen (s : State) (pa : Nat) : Prop :=
  replayOf s s.th.part = none ∧ replayPart s s.th.part = false ∧ entryFree s (clusterOf s.th.core) s.th.core = true ∧
    routeLive s s.th.part (paDev pa) = true

/-- The core holds no dirty guarded copy of a line and has none on its way to another device (R89, R124). -/
def CleanCopy (s : State) (line : Nat) : Prop :=
  (∀ l, l1Get s s.th.core line = some l → l.cls = .G ∧ l.dirty = 0) ∧ ∀ p ∈ s.coh.posted, ¬ (p.back = true ∧ p.core = s.th.core ∧ p.pa = line)

/-- A guarded byte as a chunk sees it once its line has been fetched: its own, else memory's (R89, R107). -/
def gFetched (s : State) (pa : Nat) : Byte := (Assoc.get s.th.chunk.gwrites pa).getD (cellGet s.mem.cells pa)

/-- A byte of class D as a chunk outside a view sees it once its line has been fetched (R107). -/
def dFetched (s : State) (pa : Nat) : Byte := (Assoc.get s.th.chunk.writes pa).getD (cellGet s.mem.cells pa)

/-- Registers, pc and counters of the front thread as another one has them, whatever last-arriver token it took (R425). -/
def SameRegs (t : Thread) (a : Arch) : Prop := t.a = { a with token := t.a.token }

/-- Memory that differs at most in `n` bytes from an address on. -/
def OnlyAt (u s : State) (pa n : Nat) : Prop := ∀ b, b < pa ∨ pa + n ≤ b → cellGet u.mem.cells b = cellGet s.mem.cells b

end Sys2Proof.Claims

/-! ### Terms: chunk ends and rivals -/

namespace Sys2Proof.Claims

/-- A completion tag of the front thread's core and context (R180). -/
def tagSt (s : State) (t : Nat) : Option TagSt := tagOf (ccOf s s.th.core (ctxOf s.th)) t

/-- Some completion tag is free (R180). -/
def TagFree (s : State) : Prop := ∃ t, t < 64 ∧ tagSt s t = none

/-- The front thread is member 0 of a convened crew (R369). -/
def Issuer (s : State) (cl e : Nat) (c : Crew) : Prop :=
  s.th.crew = some (cl, e, 0) ∧ crewAt s cl e = some c ∧ c.convened = true

/-- Sends of each length, with the release each carries. -/
def sendOf (i : Instr) : Option (Opnd × Opnd × Nat × Bool) :=
  match i with
  | .send16 a b => some (a, b, 1, false)
  | .send32 a b => some (a, b, 2, false)
  | .send48 a b => some (a, b, 3, false)
  | .sendLong a b .b16 rel _ _ => some (a, b, 1, rel)
  | .sendLong a b .b32 rel _ _ => some (a, b, 2, rel)
  | .sendLong a b .b48 rel _ _ => some (a, b, 3, rel)
  | _ => none

/-- The forms of `mma` (R368). -/
def mmaOf (i : Instr) : Option (Fin 16 × Fin 16 × Fin 8 × FFmt × FFmt × Rm × Bool × Bool) :=
  match i with
  | .mma ra rb acc fm => some (ra, rb, acc, fm, fm, .rne, false, false)
  | .mmaKeepa ra rb acc fm => some (ra, rb, acc, fm, fm, .rne, true, false)
  | .mmaKeepb ra rb acc fm => some (ra, rb, acc, fm, fm, .rne, false, true)
  | .mmaKeep ra rb acc fm => some (ra, rb, acc, fm, fm, .rne, true, true)
  | .mmaLong ra rb acc fa fb rm ka kb => some (ra, rb, acc, fa, fb, rm, ka, kb)
  | _ => none

/-- The translation that the front thread's access of a kind gets, held by its core's L1 TLB or a window's: nothing changes for it (R18, R38,
R50). -/
def Maps (s : State) (va : Word) (kind : AccKind) (x : Xl) : Prop :=
  xlateAs (ready s) (whoOf s.th) va.toNat false kind = (.ok x, ready s) ∧
    (isWindow va.toNat = true ∨ (l1TlbFind s (whoOf s.th) va.toNat).isSome = true)

/-- The state in which the front thread has used a translation once, in its checks (R43). -/
def mapped (s : State) (x : Xl) : State := withChunk s { s.th.chunk with used := (ctxOf s.th, x.base, x.lg) :: s.th.chunk.used }

/-- What an operation on a sync object reads besides its address, where its result goes, and whether it may write (R338). -/
def syncOf (i : Instr) : Option (Opnd × List Opnd × Dest × Bool) :=
  match i with
  | .syncacqLk a _ => some (a, [], .drop, true)
  | .syncacqGe a _ => some (a, [.q 0], .drop, false)
  | .syncacqTry d a _ => some (a, [], d, true)
  | .syncrelSt a _ => some (a, [.q 0], .drop, true)
  | .syncrelAdd d a _ => some (a, [.q 0], d, true)
  | .syncrelClr a _ => some (a, [], .drop, true)
  | _ => none

/-- A slot of GRPSLOTS holds group `g` (R205). -/
def HasGroup (s : State) (k : Fin 4) (g : Nat) : Prop :=
  bits s.th.a.grpslots.toNat (16 * k.val + 15) (16 * k.val + 15) = 1 ∧ g = bits s.th.a.grpslots.toNat (16 * k.val + 7) (16 * k.val)

/-- The launch of the front thread with a group of it. -/
def GroupIs (s : State) (g : Nat) (gr : Group) : Prop :=
  ∃ l, launchOf s s.th.lnum = some l ∧ l.groups[g]? = some gr

/-- What a `spawn` reads (R344). -/
def spawnReads (a b c : Opnd) (idx : Bool) : List Opnd := [a, c] ++ (if idx then [b, .q 0] else [b])

/-- What a `tlbinv` of a kind reads (R388). -/
def tlbinvReads (a b : Opnd) (kind : Nat) : List Opnd := (if kind = 0 then [a] else []) ++ (if kind < 2 then [b] else [])

/-- An address is a multiple of a size. -/
def aligned (v : Word) (n : Nat) : Bool := v.toNat % n == 0

/-- Numbers of rivals that a fork may have (R384). -/
def rivalCount (n : Nat) : Bool := decide (2 ≤ n) && decide (n ≤ 16)

/-- An area of the own window that an `accld` or `accst` may name: aligned, and where it lies in the window, inside the allocation (R319, R374);
one out of place is found out between chunks. -/
def areaFits (s : State) (va : Word) (size : Nat) : Bool :=
  aligned va 64 && (areaOffset s va size).all (fun off => (allocOf s (clusterOf s.th.core) (ctxOf s.th)).any (fun al => decide (off + size ≤ al.size * 0x4000)))

/-- The instructions of R103 whose checks read no memory: what each reads and where its result goes, where the checks that are made before
the end of its chunk pass (R147, R278, R345, R369, R374, R379, R383, R384, R388). -/
def cutOf (i : Instr) (s : State) : Option (List Opnd × Dest) :=
  let only (ok : Bool) (os : List Opnd) (d : Dest) : Option (List Opnd × Dest) := if ok then some (os, d) else none
  let out (os : List Opnd) (d : Dest) : Option (List Opnd × Dest) := only s.th.chain.isEmpty os d
  let held : Bool := s.th.world.bits 11 11 == 1 && decide (s.th.deferral.length < 16)
  let tile (cl e acc : Nat) : AccFmt := (tileAt s cl e acc).fmt
  let area (dst : Nat) (acc : Nat) : Nat := match s.th.crew with
    | some (cl, e, _) => accCount (tile cl e acc) * dst
    | none => 0
  let issues : Bool := s.th.crew.any (fun m => m.2.2 == 0 && (crewAt s m.1 m.2.1).any (fun c => c.convened))
  let forks (d : Dest) (a : Opnd) (defer : Bool) : Option (List Opnd × Dest) :=
    let n := (opnd s a).toNat
    only ((heldForChoice s s.th.uid).isSome || rivalCount n && decide (s.th.chain.length < 4) &&
      !(defer && !s.th.chain.isEmpty && s.th.world.bits 11 11 == 0) && decide (n ≤ (freeViews s).length) && (rivalBlocks s s.th.part n).isSome) [a] d
  match i with
  | .push d a => only (s.th.chain.isEmpty && s.th.command.isSome) [a] d
  | .pushDefer d a => only ((s.th.chain.isEmpty || held) && s.th.command.isSome) [a] d
  | .pop d a => out [a] d
  | .waitt a =>
    let done : Bool := bitAt (ccOf s s.th.core (ctxOf s.th)).tagmap.toNat ((opnd s a).toNat % 64)
    only ((tagSt s ((opnd s a).toNat % 64)).any (fun g => if done then g.fault.isSome && !g.faultDelivered else (replayOf s s.th.part).isNone)) [a] .drop
  | .tagclr a => out [a] .drop
  | .subMc d a b => out [a, b] d
  | .unsub a => out [a] .drop
  | .ovld d a b => only (s.th.chain.isEmpty && aligned (opnd s a) 1024 &&
      (s.th.a.sup || decide (Assoc.getD s.mem.pinf s.th.core 0 ≤ (opnd s b).toNat % 128))) [a, b] d
  | .ringcfg a _ => out [a] .drop
  | .rpushRes d _ => out [] d
  | .rpushFill a _ => out [a] .drop
  | .rpop _ => out [] .drop
  | .accz _ _ => out [] .drop
  | .accld fm a _ => only (s.th.chain.isEmpty && issues && areaFits s (opnd s a) (accCount fm * accWidth fm)) [a] .drop
  | .accst dst a acc _ => only (s.th.chain.isEmpty && issues && areaFits s (opnd s a) (area (FFmt.bytes dst) acc.val)) [a] .drop
  | .accstOvf dst a acc _ => only (s.th.chain.isEmpty && issues && areaFits s (opnd s a) (area (FFmt.bytes dst) acc.val)) [a] .drop
  | .mstat d _ _ => out [] d
  | .recv d a b => out [a, b] d
  | .spawn a b c idx => only (s.th.chain.isEmpty && aligned (opnd s a) 4 && aligned (opnd s c) 64) (spawnReads a b c idx) .drop
  | .exit => out [] .drop
  | .yield => some ([], .drop)
  | .barArrive d _ => out [] d
  | .barWait _ => out [] .drop
  | .bar d _ => out [] d
  | .convene d _ => out [] d
  | .disband _ => out [] .drop
  | .mwait d a => some ([a], d)
  | .forkw d a => forks d a false
  | .forkwDefer d a => forks d a true
  | .choose a => some ([a], .drop)
  | .abandon => some ([], .drop)
  | .fence ord sc => only (s.th.chain.isEmpty || !(ord == .sc && (sc == .dom || sc == .sys))) [] .drop
  | .trap a => out [a] .drop
  | .sysc d a => out [a] d
  | .bkpt => some ([], .drop)
  | .tlbinvPg a b => only (s.th.chain.isEmpty && s.th.a.sup) (tlbinvReads a b 0) .drop
  | .tlbinvCtx a b => only (s.th.chain.isEmpty && s.th.a.sup) (tlbinvReads a b 1) .drop
  | .tlbinvAll a b => only (s.th.chain.isEmpty && s.th.a.sup) (tlbinvReads a b 2) .drop
  | .tlbinvLong a b k _ => only (s.th.chain.isEmpty && s.th.a.sup) (tlbinvReads a b k.val) .drop
  | .ckpt d => only (s.th.chain.isEmpty && s.th.a.sup) [] d
  | .csrw a num => only (s.th.chain.isEmpty && (csrRefused num.toNat (!s.th.a.sup)).isNone && !isFpCsr num.toNat) [a] .drop
  | .csrx d a num => only (s.th.chain.isEmpty && (csrRefused num.toNat (!s.th.a.sup)).isNone && !isFpCsr num.toNat) [a] d
  | i => match mmaOf i, sendOf i with
    | some _, _ => out [] .drop
    | none, some (a, b, _, _) => only (s.th.chain.isEmpty || (match i with | .sendLong _ _ _ _ _ dfr => dfr | _ => false) && held) [a, b] .drop
    | none, none => none

/-- The instructions of R103 whose checks translate an address: what each reads and where its result goes, the address, the kind of the
access and its alignment. -/
def cutAtOf (i : Instr) (s : State) : Option (List Opnd × Dest × Word × AccKind × Nat) :=
  match i with
  | .push d a => if s.th.chain.isEmpty && s.th.command.isNone then some ([a], d, opnd s a, .read, 32) else none
  | .pushDefer d a => if (s.th.chain.isEmpty || s.th.world.bits 11 11 == 1 && decide (s.th.deferral.length < 16)) && s.th.command.isNone then
      some ([a], d, opnd s a, .read, 32) else none
  | .join d a => if s.th.chain.isEmpty then some ([a], d, opnd s a, .rmw, 64) else none
  | i => match syncOf i with
    | some (a, vals, d, writes) => if s.th.chain.isEmpty then some (a :: vals, d, opnd s a, if writes then .rmw else .read, 1) else none
    | none => none

/-- An instruction of R103 met in a state, and the state that the checks made before the end of its chunk leave. -/
def CutAt (i : Instr) (s u : State) : Prop :=
  (∃ os d, cutOf i s = some (os, d) ∧ Fits s os d ∧ u = ready s) ∨
  (∃ os d va kind n x, cutAtOf i s = some (os, d, va, kind, n) ∧ Fits s os d ∧ va.toNat % n = 0 ∧ Maps s va kind x ∧ u = mapped s x) ∨
  (∃ a b x y, i = .lrec a b ∧ NoView s ∧ Fits s [a, b] .drop ∧ (opnd s a).toNat % 8 = 0 ∧ Maps s (opnd s a) .read x ∧
    Maps (mapped s x) (opnd s a + 88) .read y ∧ u = mapped (mapped s x) y) ∨
  (i = .eret ∧ s.th.a.level ≠ 0 ∧ u = s) ∨ (i = .halt ∧ NoView s ∧ s.th.a.sup = true ∧ u = s)

/-- What R147 bars in a rival whose checks before that read no memory: what each operation reads, where its result goes, and the subcause of
its kind. A `csrw` or `csrx` is one of a register that the mode may name, but FPCTL and FPFLAGS. -/
def barredOf (i : Instr) (s : State) : Option (List Opnd × Dest × Nat) :=
  let only (ok : Bool) (os : List Opnd) (d : Dest) (sub : Nat) : Option (List Opnd × Dest × Nat) := if ok then some (os, d, sub) else none
  let defers : Bool := s.th.world.bits 11 11 == 1
  match i with
  | .push d a => some ([a], d, 2)
  | .pushDefer d a => only (!defers || decide (16 ≤ s.th.deferral.length)) [a] d (if defers then 6 else 2)
  | .pop d a => some ([a], d, 2)
  | .tagclr a => some ([a], .drop, 2)
  | .lrec a b => some ([a, b], .drop, 2)
  | .subMc d a b => some ([a, b], d, 2)
  | .unsub a => some ([a], .drop, 2)
  | .ovld d a b => some ([a, b], d, 2)
  | .ringcfg a _ => some ([a], .drop, 2)
  | .rpushRes d _ => some ([], d, 2)
  | .rpushFill a _ => some ([a], .drop, 2)
  | .rpop _ => some ([], .drop, 2)
  | .accz _ _ => some ([], .drop, 2)
  | .accld _ a _ => some ([a], .drop, 2)
  | .accst _ a _ _ => some ([a], .drop, 2)
  | .accstOvf _ a _ _ => some ([a], .drop, 2)
  | .mstat d _ _ => some ([], d, 2)
  | .recv d a b => some ([a, b], d, 3)
  | .spawn a b c idx => only (aligned (opnd s a) 4 && aligned (opnd s c) 64) (spawnReads a b c idx) .drop 4
  | .exit => some ([], .drop, 4)
  | .barArrive d _ => some ([], d, 4)
  | .barWait _ => some ([], .drop, 4)
  | .bar d _ => some ([], d, 4)
  | .convene d _ => some ([], d, 4)
  | .disband _ => some ([], .drop, 4)
  | .fence ord sc => only (ord == .sc && (sc == .dom || sc == .sys)) [] .drop 5
  | .forkwDefer d a => only ((heldForChoice s s.th.uid).isNone && rivalCount (opnd s a).toNat && decide (s.th.chain.length < 4) && !defers) [a] d 7
  | .trap a => some ([a], .drop, 8)
  | .sysc d a => some ([a], d, 8)
  | .tlbinvPg a b => only s.th.a.sup (tlbinvReads a b 0) .drop 8
  | .tlbinvCtx a b => only s.th.a.sup (tlbinvReads a b 1) .drop 8
  | .tlbinvAll a b => only s.th.a.sup (tlbinvReads a b 2) .drop 8
  | .tlbinvLong a b k _ => only s.th.a.sup (tlbinvReads a b k.val) .drop 8
  | .ckpt d => only s.th.a.sup [] d 8
  | .cap d a => some ([a], d, 8)
  | .csrw a num => only ((csrRefused num.toNat (!s.th.a.sup)).isNone && !isFpCsr num.toNat) [a] .drop 8
  | .csrx d a num => only ((csrRefused num.toNat (!s.th.a.sup)).isNone && !isFpCsr num.toNat) [a] d 8
  | .sendLong a b _ _ _ true => only (!defers || decide (16 ≤ s.th.deferral.length)) [a, b] .drop (if defers then 6 else 3)
  | i => match mmaOf i, sendOf i with
    | some _, _ => some ([], .drop, 2)
    | none, some (a, b, _, _) => some ([a, b], .drop, 3)
    | none, none => none

/-- Memory that others see: a window, a page of class G or U, or another device's (R147). -/
def Outward (s : State) (x : Xl) : Prop :=
  (∃ cl, x.tgt = .win cl) ∨ ∃ cls, x.tgt = .mem cls ∧ (cls = .G ∨ cls = .U ∨ isLocal s x.pa = false)

/-- The SYNCWORD of a sync object that is an arbiter (R90, R148). -/
def Arbiter (s : State) (x : Xl) : Prop := x.tgt = .mem .U ∧ x.pa % 64 < 8 ∧ (homeByte s (lineOf x.pa + 8)).getLsbD 7 = true

/-- View-external with its subcause and VA, of an instruction whose checks have left a state (R147, R401). -/
def External (i : Instr) (s u : State) (sub : Nat) (va : Word) : Prop := exec i s = .next (raise u (trapOf s 0x08 sub va 0 0))

end Sys2Proof.Claims

/-! ### Exceptions -/

/-- R390-R392: a trap at level 0 with a kernel handler, or at level 0 or 1 with a supervisor handler where the kernel does not take it, saves
the pc, the cause, the subcauses, the mode, the suppress-once bit and the level, clears that bit, and continues at the handler in a new chunk,
at the new level, in the supervisor's mode at level 2. No register, queue entry or flag changes.
R391, R395, R405: a trap at level 2, or one bound for level 2 without a supervisor handler, kills the thread: its slot is vacant, its
launch's fault record counts the trap, and takes its cause, subcause, pc and thread where it is the first; of an engine fault the pc of the
`push`, the command's bits and the thread that issued it. -/
def Obligations.TrapEntry : Prop :=
  (∀ (s : State) (t : Trap) (pc : Word), t.cause < 256 → t.sub < 256 → t.usub < 256 → s.th.a.level < 3 →
    let toKernel := s.th.a.level = 0 ∧ s.th.kern.handler ≠ 0 ∧ t.cause ≠ 0x11
    let u := deliverTrap s t pc
    (toKernel → ∃ a b, u = { s with th := { s.th with
        a := a, kern := b, chunk := Chunk.fresh a, boundary := false, pendTrap := none, status := .running } } ∧
      a = { s.th.a with pc := s.th.kern.handler, level := 1, suppress := false } ∧
      b.handler = s.th.kern.handler ∧ b.pc = pc &&& ~~~3#64 ∧ b.i0 = t.i0 ∧ b.i1 = t.i1 ∧ b.i2 = t.i2 ∧ b.i3 = t.i3 ∧
      b.cause.bits 7 0 = t.cause ∧ b.cause.bits 15 8 = t.sub ∧ b.cause.bits 23 16 = t.usub ∧ b.cause.bits 31 24 = 0 ∧
      b.cause.bits 32 32 = s.th.a.sup.toNat ∧ b.cause.bits 33 33 = s.th.a.suppress.toNat ∧ b.cause.bits 35 34 = 0 ∧
      b.cause.bits 63 36 = 0) ∧
    (¬ toKernel → s.th.a.level < 2 → s.th.supv.handler ≠ 0 → ∃ a b, u = { s with th := { s.th with
        a := a, supv := b, chunk := Chunk.fresh a, boundary := false, pendTrap := none, status := .running } } ∧
      a = { s.th.a with pc := s.th.supv.handler, level := 2, suppress := false, sup := true } ∧
      b.handler = s.th.supv.handler ∧ b.pc = pc &&& ~~~3#64 ∧ b.i0 = t.i0 ∧ b.i1 = t.i1 ∧ b.i2 = t.i2 ∧ b.i3 = t.i3 ∧
      b.cause.bits 7 0 = t.cause ∧ b.cause.bits 15 8 = t.sub ∧ b.cause.bits 23 16 = t.usub ∧ b.cause.bits 31 24 = 0 ∧
      b.cause.bits 32 32 = s.th.a.sup.toNat ∧ b.cause.bits 33 33 = s.th.a.suppress.toNat ∧
      b.cause.bits 35 34 = s.th.a.level ∧ b.cause.bits 63 36 = 0)) ∧
  (∀ (s : State) (t : Trap) (pc : Word) (l : Launch), s.wk.launches = [l] → l.lnum = s.th.lnum →
    s.th.a.level = 2 ∨ s.th.supv.handler = 0 ∧ ¬ (s.th.a.level = 0 ∧ s.th.kern.handler ≠ 0 ∧ t.cause ≠ 0x11) →
      let u := deliverTrap s t pc
      u.th = { Thread.vacant with core := s.th.core, slot := s.th.slot } ∧ u.rest = s.rest ∧ u.mem = s.mem ∧
      ∃ f l', u.wk.launches.find? (fun x => x.lnum = s.th.lnum) = some l' ∧ l'.faults = some f ∧
        (l.faults = none → 1 ≤ f.count ∧ (t.eng = none → f.trap = t ∧ f.pc = pc ∧ f.core = s.th.core ∧ f.index = s.th.index) ∧
          ∀ w c i, t.eng = some (w, c, i) → f.trap.cause = t.cause ∧ f.trap.sub = t.sub ∧ f.trap.i0 = w ∧ f.pc = t.i0 ∧ f.core = c ∧
            f.index = i) ∧
        ∀ g, l.faults = some g → f.trap = g.trap ∧ f.pc = g.pc ∧ min (g.count + 1) (2 ^ 32 - 1) ≤ f.count)

/-- R390: a trap raised at an instruction between chunks is delivered at once with the instruction's pc, and the lines that were reserved for
the thread's access are free again. One raised behind a chunk that has written nothing in class D, asks for no release, has read no poisoned
line and stored through no changed leaf is delivered at once too, the chunk committed first; behind any other it waits for the commit. -/
def Obligations.TrapsAreDelivered : Prop :=
  ∀ (s : State) (t : Trap),
    (Between s → raise s t = deliverTrap (dropTurns s s.th.uid) t s.th.a.pc ∧
      ((∀ d ∈ s.coh.dir, turnOf s s.th.uid d.line = false) → (∀ e ∈ s.wk.cl, s.th.uid ∉ e.2.reserved) →
        raise s t = deliverTrap s t s.th.a.pc)) ∧
    (s.th.boundary = false → NoReplay s → s.th.chunk.writes = [] → s.th.chunk.dirty = [] → s.th.chunk.rel = false →
      poisonedRead s s.th.chunk = false →
        let u := commitAt { s with th := { s.th with pendTrap := some t } } (lcOf s s.th.core + 1) true
        u.th.a.pc = s.th.a.pc ∧ raise s t = deliverTrap u t s.th.a.pc) ∧
    (s.th.boundary = false → s.th.chunk.writes ≠ [] → s.th.chunk.dirty = [] → poisonedRead s s.th.chunk = false →
      (raise s t).th.pendTrap = some t ∧ (raise s t).th.chunk.phase = .requesting ∧ (raise s t).th.status = .waiting .commit ∧
      (raise s t).th.a = s.th.a)

/-- R391, R394: return from a handler undoes the entry: the level, the mode, the suppress-once bit and the pc are again what they were, and
no other register differs.
R394: `eret` between chunks at level 1 goes on where TPC says, at the level, mode and suppress-once bit that TCAUSE holds.
R387, R394: `eret` between chunks at level 2 does the same from STCAUSE and STPC; after a `sysc` it delivers STINFO1 to the destination
of the `sysc`. Where no frame holds the pc, the next fetch finds it absent. At level 0, `eret` is an illegal instruction, subcause 5. -/
def Obligations.Returns : Prop :=
  (∀ (s : State) (t : Trap) (pc : Word), t.cause < 256 → t.sub < 256 → t.usub < 256 → pc.toNat % 4 = 0 →
    (s.th.a.level = 0 → s.th.kern.handler ≠ 0 → t.cause ≠ 0x11 →
      returnFrom (deliverTrap s t pc).th.a (deliverTrap s t pc).th.kern = { s.th.a with pc := pc }) ∧
    (s.th.a.level < 2 → s.th.supv.handler ≠ 0 → ¬ (s.th.a.level = 0 ∧ s.th.kern.handler ≠ 0 ∧ t.cause ≠ 0x11) →
      returnFrom (deliverTrap s t pc).th.a (deliverTrap s t pc).th.supv = { s.th.a with pc := pc })) ∧
  (∀ s : State, Between s → s.th.chunk.dirty = [] → NoReplay s → s.th.a.level = 1 →
    ∃ t a, exec .eret s = .next t ∧ t.th.a = { a with lastStamp := lcOf s s.th.core + 1 } ∧
      a = { s.th.a with pc := s.th.kern.pc, level := s.th.kern.cause.bits 35 34, sup := s.th.kern.cause.bits 32 32 == 1,
                        suppress := s.th.kern.cause.bits 33 33 == 1, dist := s.th.a.dist + 1 + bits s.th.words 24 22 } ∧
      t.th.kern = s.th.kern ∧ t.th.supv = s.th.supv ∧ t.th.seq = s.th.seq + 1 ∧ t.mem = s.mem ∧ t.rest = s.rest ∧
      (frameOf s s.th.core (ctxOf s.th) s.th.kern.pc.toNat = none → fetch t = .absent s.th.kern.pc 1)) ∧
  ((∀ (s : State) (d : Dest), Between s → s.th.chunk.dirty = [] → NoReplay s → s.th.a.level = 2 →
    destOfWord s.th.supv.i3.toNat = d →
    ∃ t a, exec .eret s = .next t ∧ t.th.a = { a with lastStamp := lcOf s s.th.core + 1 } ∧
      a = (let r := { s.th.a with
              pc := s.th.supv.pc, level := s.th.supv.cause.bits 35 34, sup := s.th.supv.cause.bits 32 32 == 1,
              suppress := s.th.supv.cause.bits 33 33 == 1, dist := s.th.a.dist + 1 + bits s.th.words 24 22 }
            if s.th.supv.cause.bits 7 0 = 0x11 then written r d s.th.supv.i1 0 else r) ∧
      t.th.kern = s.th.kern ∧ t.th.supv = s.th.supv ∧ t.mem = s.mem ∧ t.rest = s.rest ∧
      (frameOf s s.th.core (ctxOf s.th) s.th.supv.pc.toNat = none → fetch t = .absent s.th.supv.pc 1)) ∧
  ∀ s : State, s.th.a.level = 0 → exec .eret s = .next (raise s (trapOf s 0x05 5 0 0 0)))

/-- R387, R389, R390: `trap`, `sysc` and `bkpt` between chunks retire, and the trap follows them, with the next instruction's address: a
software trap and a breakpoint to the kernel handler at level 0, a supervisor call always to the supervisor's.
R254, R278, R388, R389: what needs the supervisor's mode is an illegal instruction, subcause 5, without it; a
number of a system register that is not assigned is one, subcause 4. That `trap` and `sysc`, whose saved pc lies behind them, report their
own words is the model's choice (notes/assumptions/10.md). -/
def Obligations.TrapsAndPrivilege : Prop :=
  (∀ (s : State) (a : Opnd) (d : Dest), Between s → NoView s → s.th.chunk.dirty = [] → NoReplay s → s.th.a.level = 0 →
    s.th.kern.handler ≠ 0 → s.th.supv.handler ≠ 0 →
    (Fits s [a] .drop → ∃ t, exec (.trap a) s = .next t ∧ t.th.a.pc = s.th.kern.handler ∧ t.th.a.level = 1 ∧ t.th.a.sup = s.th.a.sup ∧
      t.th.kern.pc = following s.th &&& ~~~3#64 ∧ t.th.kern.cause.bits 7 0 = 0x10 ∧ t.th.kern.i0 = opnd s a ∧
      t.th.kern.i3 = BitVec.ofNat 64 s.th.words ∧ t.th.a.q = s.th.a.q ∧ t.th.a.n = s.th.a.n ∧ t.mem = s.mem) ∧
    (∃ t, exec .bkpt s = .next t ∧ t.th.a.pc = s.th.kern.handler ∧ t.th.a.level = 1 ∧ t.th.a.sup = s.th.a.sup ∧
      t.th.kern.pc = following s.th &&& ~~~3#64 ∧ t.th.kern.cause.bits 15 0 = 0x0202 ∧ t.th.kern.i0 = 0 ∧
      t.th.a.q = s.th.a.q ∧ t.th.a.n = s.th.a.n ∧ t.mem = s.mem) ∧
    (Fits s [a] d → ∃ t, exec (.sysc d a) s = .next t ∧ t.th.a.pc = s.th.supv.handler ∧ t.th.a.level = 2 ∧ t.th.a.sup = true ∧
      t.th.supv.pc = following s.th &&& ~~~3#64 ∧ t.th.supv.cause.bits 7 0 = 0x11 ∧ t.th.supv.i0 = opnd s a ∧
      t.th.supv.i3 = BitVec.ofNat 64 s.th.words ∧ t.th.kern = s.th.kern ∧ t.th.a.q = s.th.a.q ∧ t.th.a.n = s.th.a.n ∧ t.mem = s.mem)) ∧
  (∀ (s : State) (d : Dest) (a b : Opnd) (k : Fin 3) (sc : Scope) (num : BitVec 10),
    (s.th.a.sup = false →
      (∀ i ∈ [Instr.halt, .ckpt d, .tlbinvPg a b, .tlbinvCtx a b, .tlbinvAll a b, .tlbinvLong a b k sc],
        exec i s = .next (raise s (trapOf s 0x05 5 0 0 0))) ∧
      (0x100 ≤ num.toNat → num.toNat ≤ 0x1ff → ∀ i ∈ [Instr.csrr d num, .csrw a num, .csrx d a num],
        exec i s = .next (raise s (trapOf s 0x05 5 0 0 0)))) ∧
    (csrAssigned num.toNat = false → s.th.a.sup = true ∨ num.toNat < 0x100 ∨ 0x1ff < num.toNat →
      ∀ i ∈ [Instr.csrr d num, .csrw a num, .csrx d a num], exec i s = .next (raise s (trapOf s 0x05 4 0 0 0))))

/-! ### Instructions performed between chunks -/

/-- R103, R106, R110, R117, R438: an instruction performed between chunks passes with a stamp, LC + 1, or LC where its access took one: its
core's clock takes the stamp, the order log takes the commit with its inputs, the next chunk starts with the next sequence number, and
nothing else changes but counting.
R100, R103: an instruction of R103 (CutAt names every one) met in a chunk first ends that chunk, once the checks that R396 puts before that have
passed; it is performed in the same step where the chunk reaches its commit point at once, and else the thread waits before it. The model's
own: a chunk that has counted nothing ends too, with a commit event (notes/assumptions/56.md). -/
def Obligations.Singletons : Prop :=
  (∀ (s : State) (r : Ret) (st : Nat) (pc : Word), s.th.chunk.dirty = [] → NoReplay s →
    r = .single ∧ st = lcOf s s.th.core + 1 ∧ pc = following s.th ∨ r = .access ∧ st = lcOf s s.th.core ∧ pc = following s.th ∨
      r = .singleJump pc ∧ st = lcOf s s.th.core + 1 →
    let t := retire s r
    let a := { (passed s.th s.th.a pc).a with lastStamp := st }
    t.th = { passed s.th s.th.a pc with
      a := a, chunk := Chunk.fresh a, boundary := false, seq := s.th.seq + 1
      status := match heldForChoice s s.th.uid with
        | some f => .waiting (.choice f)
        | none => .running } ∧
    t.coh = { s.coh with lc := t.coh.lc } ∧ lcOf t s.th.core = max (lcOf s s.th.core) st ∧
    (∀ c, c ≠ s.th.core → lcOf t c = lcOf s c) ∧
    t.rep.log = s.rep.log ++ [{ part := s.th.part, identity := s.th.origin, seq := s.th.seq, stamp := st,
                                values := s.th.chunk.logged.reverse, core := s.th.core }] ∧
    Counts { s with th := t.th, coh := t.coh, rep := { s.rep with log := t.rep.log } } t) ∧
  (∀ (i : Instr) (s u : State), CutAt i s u → s.th.boundary = false →
    let v := endForSingle u
    exec i s = if v.th.boundary ∧ v.th.status = .running ∧ replayTurn v v.th then exec i v else .next v)

/-- R147 with R148, R150, R152, R377, R401: in a rival, each operation that the table of R147 lists raises view-external with the subcause of its
kind, TINFO0 the VA for subcause 1: (1) what barredOf names, which reads no memory before; `halt`; (2) stores and atomics to windows, to class G
or U, or to remote memory, but an arbiter's SYNCWORD, with the address; (3) operations on a sync object that is no arbiter; (4) atomics that
take a ticket; (5) `join`; (6) a `choose` whose merge would hold more than 16 deferred entries. -/
def Obligations.RivalsStayInside : Prop :=
  (∀ (i : Instr) (s : State) (os : List Opnd) (d : Dest) (sub : Nat), s.th.chain ≠ [] → barredOf i s = some (os, d, sub) →
    (∀ o ∈ os, Readable s.th o) → Writable s.th d → Raises i s 0x08 sub 0 0 0) ∧
  (∀ s : State, s.th.chain ≠ [] → s.th.a.sup = true → External .halt s s 8 0) ∧
  (∀ (i : Instr) (s : State) (x : Xl) (d : Dest), s.th.chain ≠ [] →
    (∀ as vs va v sz, storeOf i s = some (as, vs, va, v, sz) → (∀ o ∈ as ++ vs, Readable s.th o) → va.toNat % szBytes sz = 0 →
      Maps s va .write x → Outward s x → External i s (mapped s x) 1 va) ∧
    (∀ a vs w ord sc f, atomicOf i s = some (a, vs, d, w, ord, sc, f) → (∀ o ∈ a :: vs, Readable s.th o) → Writable s.th d →
      (opnd s a).toNat % (amoBits w / 8) = 0 → Maps s (opnd s a) .rmw x →
      (ord = .sc ∧ (sc = .dom ∨ sc = .sys) → External i s (mapped s x) 5 0) ∧
      (¬ (ord = .sc ∧ (sc = .dom ∨ sc = .sys)) → Outward s x → ¬ Arbiter s x → External i s (mapped s x) 1 (opnd s a))) ∧
    (∀ a vals writes, syncOf i = some (a, vals, d, writes) → (∀ o ∈ a :: vals, Readable s.th o) → Writable s.th d →
      Maps s (opnd s a) (if writes then .rmw else .read) x → x.tgt = .mem .U → ¬ Arbiter s x → s.th.answered = none →
      queuedAt s (lineOf x.pa) = false → External i s (mapped s x) 1 (opnd s a)) ∧
    (∀ a, i = .join d a → Readable s.th a → Writable s.th d → (opnd s a).toNat % 64 = 0 → Maps s (opnd s a) .rmw x →
      External i s (mapped s x) 4 0)) ∧
  (∀ (s : State) (a : Opnd) (f : Fork) (k : Nat) (r : Nat × Nat), s.th.chain ≠ [] → Between s → Fits s [a] .drop →
    heldForChoice s s.th.uid = none → s.th.answered = none → (opnd s a).toNat = k → k < s.th.world.bits 15 12 + 1 →
    s.th.fork.bind (forkAt s) = some f → f.closed = false → f.rival k = some r → f.parentChain ≠ [] → 16 < mergedEntries s f r.1 →
      External (.choose a) s (ready s) 7 0)

/-! ### System registers -/

/-- R253, R254, R386, R105: `csrr` of a register that the mode may read delivers its value; a value that is a matter of timing is recorded
with the chunk, and in replay the recorded one is delivered.
R348, R105: `self` delivers the core, the cluster, the slot, the device, the launch's sequence number or the chunk's; those that depend on
where the thread runs are recorded.
R349, R399: `grp` delivers the member number and the size of its group; a slot without a group is misuse 0x04. -/
def Obligations.RegisterReads : Prop :=
  (∀ (s : State) (d : Dest) (num : BitVec 10), csrRefused num.toNat (!s.th.a.sup) = none → Writable s.th d → ChunkGoesOn s →
    let v := csrRead s s.th num.toNat
    let w := (replayedVal s).getD v
    if isLoggedCsr num.toNat then
      PassesAs (.csrr d num) s { s.th with chunk := { s.th.chunk with logged := w :: s.th.chunk.logged } } (written s.th.a d w 0)
        (following s.th)
    else Passes (.csrr d num) s (written s.th.a d v (if num.toNat = 1 ∨ num.toNat = 2 ∨ num.toNat = 8 ∨ num.toNat = 9 ∨ num.toNat = 10 then 2 else 0))
        (following s.th)) ∧
  (∀ (s : State) (d : Dest) (e : Fin 6) (l : Launch), Writable s.th d → ChunkGoesOn s → NoReplay s → launchOf s s.th.lnum = some l →
    let v : Word := BitVec.ofNat 64 (match e.val with
      | 0 => s.th.core
      | 1 => s.th.core / 4
      | 2 => s.th.slot
      | 3 => ownDev s
      | 4 => l.seqno
      | _ => s.th.seq)
    if e.val < 4 then
      PassesAs (.self d e) s { s.th with chunk := { s.th.chunk with logged := v :: s.th.chunk.logged } } (written s.th.a d v 2) (following s.th)
    else Passes (.self d e) s (written s.th.a d v 2) (following s.th)) ∧
  (∀ (s : State) (d : Dest) (k : Fin 4), Writable s.th d →
    (∀ g gr, HasGroup s k g → GroupIs s g gr → ChunkGoesOn s → Passes (.grp d k) s
      (written s.th.a d (BitVec.ofNat 64 ((gr.member s.th.index).getD 0 * 2 ^ 32 + gr.size % 2 ^ 32)) 0) (following s.th)) ∧
    (bits s.th.a.grpslots.toNat (16 * k.val + 15) (16 * k.val + 15) = 0 → Misuses (.grp d k) s 0x04 (BitVec.ofNat 64 k.val)))

/-- R235, R236, R386: `csrw` of FPCTL or FPFLAGS does not end the chunk; `csrx` delivers the value before the write.
R103, R254, R386: `csrw` of any other register is performed between chunks, in the mode's rights; `csrx` delivers the value before the
write.
R25, R60, R235, R236, R253-R257, R392: what a write leaves in each register, as it reads afterwards: writable bits as written, reserved
bits as they were; a register that the mode may only read is unchanged. A counter whose event is a matter of time is a free value
(notes/assumptions/3.md); any other keeps its count when its event changes. -/
def Obligations.RegisterWrites : Prop :=
  (∀ (s : State) (d : Dest) (a : Opnd), ChunkGoesOn s →
    (Fits s [a] .drop →
      Passes (.csrw a 1) s { s.th.a with fpctl := fpctlWrite (opnd s a) } (following s.th) ∧
      Passes (.csrw a 2) s { s.th.a with fpflags := BitVec.ofNat 64 ((opnd s a).toNat % 32) } (following s.th)) ∧
    (Fits s [a] d →
      Passes (.csrx d a 1) s (written { s.th.a with fpctl := fpctlWrite (opnd s a) } d s.th.a.fpctl 2) (following s.th) ∧
      Passes (.csrx d a 2) s (written { s.th.a with fpflags := BitVec.ofNat 64 ((opnd s a).toNat % 32) } d s.th.a.fpflags 2)
        (following s.th))) ∧
  (∀ (s : State) (d : Dest) (a : Opnd) (num : BitVec 10), Between s → NoView s → csrRefused num.toNat (!s.th.a.sup) = none →
    isFpCsr num.toNat = false →
    (Fits s [a] .drop → exec (.csrw a num) s = .next (retire (csrWriteFront (ready s) num.toNat (opnd s a)) .single)) ∧
    (Fits s [a] d →
      let v := csrRead s s.th num.toNat
      let w := (replayedVal s).getD v
      let u := { ready s with th := { (ready s).th with chunk := { s.th.chunk with logged := w :: s.th.chunk.logged } } }
      exec (.csrx d a num) s = .next (if isLoggedCsr num.toNat then retire (pushResult (csrWriteFront u num.toNat (opnd s a)) d w 0) .single
        else retire (pushResult (csrWriteFront (ready s) num.toNat (opnd s a)) d v 0) .single))) ∧
  (∀ (s : State) (d : Dest) (a : Opnd) (num : BitVec 10), s.th.chain ≠ [] → csrRefused num.toNat (!s.th.a.sup) = none →
    isFpCsr num.toNat = false →
    (Fits s [a] .drop → Raises (.csrw a num) s 0x08 8 0 0 0) ∧ (Fits s [a] d → Raises (.csrx d a num) s 0x08 8 0 0 0)) ∧
  (∀ (s : State) (v : Word) (num : Nat) (user : Bool), csrAssigned num = true →
    let t := csrStore updTh s s.th num v user
    (csrWritable num user = false → t = s) ∧
    (csrWritable num user = true →
      (num = 0x001 → csrRead t t.th num = BitVec.ofNat 64 (v.bits 12 8 * 2 ^ 8 + (if v.bits 2 0 < 5 then v.bits 2 0 else 0))) ∧
      (num = 0x002 → csrRead t t.th num = BitVec.ofNat 64 (v.bits 4 0)) ∧
      (num = 0x008 → csrRead t t.th num = BitVec.ofNat 64 (s.th.a.token.toNat * 2 ^ 8 + s.th.a.sup.toNat * 2 ^ 7 + v.bits 0 0)) ∧
      (num = 0x010 ∨ num = 0x011 ∨ num = 0x102 ∨ num = 0x110 → csrRead t t.th num = v &&& ~~~3#64) ∧
      (0x013 ≤ num ∧ num ≤ 0x016 ∨ 0x112 ≤ num ∧ num ≤ 0x115 → csrRead t t.th num = v) ∧
      (num = 0x012 ∨ num = 0x111 → (csrRead t t.th num).bits 23 0 = v.bits 23 0 ∧ (csrRead t t.th num).bits 33 32 = v.bits 33 32 ∧
        (csrRead t t.th num).bits 31 24 = 0 ∧ (csrRead t t.th num).bits 63 36 = 0 ∧
        (csrRead t t.th num).bits 35 34 = if v.bits 35 34 = 3 then (csrRead s s.th num).bits 35 34 else v.bits 35 34) ∧
      (num = 0x100 → csrRead t t.th num = BitVec.ofNat 64 (v.bits 63 13 * 2 ^ 13)) ∧
      (num = 0x101 → csrRead t t.th num = BitVec.ofNat 64 (min (v.bits 6 0) 96)) ∧
      (∀ k, k < 8 → num = 0x030 + k → perfTiming ((ccOf s s.th.core (ctxOf s.th)).perfsel.getD k 0) = false →
        csrRead t t.th num = BitVec.ofNat 64 (v.bits 47 0) ∧
          ∀ j, j < 8 → j ≠ k → csrRead t t.th (0x030 + j) = csrRead s s.th (0x030 + j)) ∧
      (∀ k, k < 8 → num = 0x038 + k →
        csrRead t t.th num = BitVec.ofNat 64 (v.bits 17 0) ∧
        (perfTiming (v.bits 17 0) = false → ∀ j, j < 8 → csrRead t t.th (0x030 + j) = csrRead s s.th (0x030 + j)) ∧
          ∀ j, j < 8 → j ≠ k → csrRead t t.th (0x038 + j) = csrRead s s.th (0x038 + j))))

/-- R43, R388: `tlbinv` in the supervisor's mode reads the operands that its kind uses, and passes; `tlbinv.all`, `.ctx` and `.pg` reach the
package. It drops the translations of its kind and scope from the TLBs of both levels, and the nodes of the walk caches that lie above such a
translation, and keeps every other; it squashes the other chunk that has used one, and changes nothing else where none has.
R389, R419, R437: `halt` in the supervisor's mode retires and its cluster halts with cause 1; `ckpt` asks for a capture and waits, and
delivers the capture's answer; `cap` delivers a capability word. That `halt` retires first, and its pc lies behind it, is the model's
reading (notes/assumptions/34.md). -/
def Obligations.SystemOperations : Prop :=
  (∀ (s : State) (a b : Opnd) (k : Fin 3) (sc : Scope), Between s → NoView s → s.th.a.sup = true →
    let after (kind : Nat) (sc : Scope) (i : Instr) : Prop :=
      exec i s = .next (retire (invalidateTlb (ready s) kind sc (opnd s a).toNat ((opnd s b).bits 11 0)) .single)
    (Fits s [a, b] .drop → after 0 .pkg (.tlbinvPg a b)) ∧ (Fits s [b] .drop → after 1 .pkg (.tlbinvCtx a b)) ∧ after 2 .pkg (.tlbinvAll a b) ∧
    (Fits s ((if k = 0 then [a] else []) ++ (if k = 2 then [] else [b])) .drop → after k.val sc (.tlbinvLong a b k sc))) ∧
  (∀ (s : State) (kind : Nat) (sc : Scope) (va ctx : Nat), kind < 3 →
    let names (c base lg : Nat) : Bool := match kind with
      | 0 => c == ctx && base == va / 2 ^ lg * 2 ^ lg
      | 1 => c == ctx
      | _ => cdPart s c == s.th.part
    let gone (e : Tlb) : Bool := inScope sc (clusterOf s.th.core) e.cl && names e.ctx e.base e.lg
    let goneNode (e : WalkEnt) : Bool := (sc == .pkg || sc == .dom || sc == .sys || e.die == dieOf (clusterOf s.th.core)) &&
      names e.ctx (e.base * 2 ^ (12 + 9 * e.lvl)) (12 + 9 * e.lvl)
    let used (t : Thread) : Prop := ∃ u ∈ t.chunk.used, (inScope sc (clusterOf s.th.core) (clusterOf t.core) && names u.1 u.2.1 u.2.2) = true
    let u := invalidateTlb s kind sc va ctx
    let mem : MemSt := { s.mem with tlb := s.mem.tlb.filter (fun e => !gone e), l1tlb := s.mem.l1tlb.filter (fun e => !gone e.2),
                                    wcache := s.mem.wcache.filter (fun e => !goneNode e) }
    u.mem.tlb = mem.tlb ∧ u.mem.l1tlb = mem.l1tlb ∧ u.mem.wcache = mem.wcache ∧ u.th.a = s.th.a ∧
    ((∀ t ∈ s.rest, ¬ used t) → u = { s with mem := mem }) ∧
    (∀ t, s.rest = [t] → t.uid ≠ s.th.uid → used t → ∃ t', u.rest = [t'] ∧ t'.uid = t.uid ∧ t'.a = t.chunk.start ∧ t'.chunk.count = 0 ∧
      t'.chunk.writes = [] ∧ t'.chunk.used = [])) ∧
  (∀ (s : State) (d : Dest) (a : Opnd) (n : Word),
    (Between s → NoView s → s.th.a.sup = true →
      exec .halt s = .next (haltCluster (passSingle (advance s (following s.th)) (lcOf s s.th.core + 1)) (clusterOf s.th.core) 1 0)) ∧
    (Between s → NoView s → s.th.a.sup = true → Writable s.th d → NoReplay s → s.th.answered = none →
      ¬ Event.checkpoint s.th.part ∈ s.agenda →
        exec (.ckpt d) s = .next (waitAt { ready s with agenda := s.agenda ++ [.checkpoint s.th.part] } .checkpoint)) ∧
    (Between s → NoView s → s.th.a.sup = true → Writable s.th d → NoReplay s → s.th.answered = some n →
      exec (.ckpt d) s = .next (retire { ready s with th := { (ready s).th with
        a := written s.th.a d n 0, chunk := { s.th.chunk with logged := n :: s.th.chunk.logged } } } .single)) ∧
    (NoView s → Fits s [a] d → ChunkGoesOn s →
      Passes (.cap d a) s (written s.th.a d (capWord s s.th.part ((opnd s a).bits 4 0)) 2) (following s.th)))

/-! ### Loads and stores -/

/-- R323, R329 with R8, R107, R108: a load from the own window delivers its bytes as the thread sees them, extended as its size says; one from
a line of class D that the L1 holds does the same and reads the line, its versioned lines brought back from the spill area (R142). Neither
changes memory. -/
def Obligations.Loads : Prop :=
  ∀ (i : Instr) (s : State) (os : List Opnd) (d : Dest) (va : Word) (sz : MemSz) (pa : Nat),
    loadOf i s = some (os, d, va, sz) → Fits s os d → ChunkGoesOn s → va.toNat % szBytes sz = 0 →
    (OwnWindow s va pa → PassesAs i s { s.th with chunk := marked s (lineOf pa) (touched s va) }
      (written s.th.a d (extended sz (wordOf ((List.range (szBytes sz)).map (fun j => winByte s (pa + j))))) 0) (following s.th)) ∧
    (∀ e, HeldPage s va e pa .D .read → hasLine s (lineOf pa) .D = true → PassesIn i s (unspill s s.th.chain (lineOf pa))
      { s.th with chunk := touchedD s e (lineOf pa) }
      (written s.th.a d (extended sz (wordOf ((List.range (szBytes sz)).map (fun j => dByte s (pa + j))))) 0) (following s.th))

/-- R329 with R8, R107, R108: a store to the own window, or to a line of class D that the L1 holds, keeps its bytes in the chunk, lowest first,
and changes no byte of memory and no register.
R107, R108: bytes kept by a chunk are what its thread reads afterwards at their addresses, and every other byte reads as before. -/
def Obligations.Stores : Prop :=
  (∀ (i : Instr) (s : State) (as vs : List Opnd) (va v : Word) (sz : MemSz) (pa : Nat),
    storeOf i s = some (as, vs, va, v, sz) → Fits s (as ++ vs) .drop → ChunkGoesOn s → NoView s → va.toNat % szBytes sz = 0 →
    (OwnWindow s va pa → bufRoom s (lineOf pa) = true → PassesAs i s { s.th with
      chunk := { touched s va with wstores := addBytes pa (leBytes (szBytes sz) v.toNat) s.th.chunk.wstores } } s.th.a (following s.th)) ∧
    (∀ e, HeldPage s va e pa .D .write → hasLine s (lineOf pa) .D = true → specRoom s (lineOf pa) = true → PassesAs i s { s.th with
      chunk := { touchedIn s e with dirty := dirtied s e, writes := addBytes pa (leBytes (szBytes sz) v.toNat) s.th.chunk.writes } }
      s.th.a (following s.th))) ∧
  (∀ (s : State) (pa a : Nat) (data : List Byte),
    let inside := pa ≤ a ∧ a < pa + data.length
    let c := s.th.chunk
    dByte { s with th := { s.th with chunk := { c with writes := addBytes pa data c.writes } } } a =
      (if inside then data.getD (a - pa) 0 else dByte s a) ∧
    gByte { s with th := { s.th with chunk := { c with gwrites := addBytes pa data c.gwrites } } } a =
      (if inside then data.getD (a - pa) 0 else gByte s a) ∧
    winByte { s with th := { s.th with chunk := { c with wstores := addBytes pa data c.wstores } } } a =
      (if inside then data.getD (a - pa) 0 else winByte s a))

/-- R45, R74, R75, R82, R86, R89, R104, R107, R110, R115, R120, R323, R329, R438, R444, R455: loads and stores that do not end in the own window or
a held line of class D. In the chunk: a load of class G from a valid copy or the chunk's own bytes, of class G or D from a line that its home
sends, of class W from a copy or its home; a line that its home cannot send at once is asked for and waited for, and one of class W whose refresh
window is open is waited for; a store of class G keeps its bytes in the chunk, one of class D fetches the line first. Between chunks, with a stamp
above the clock and the line's: a load or store of class U, of another cluster's window, or of control space, in the rights of the partition's
supervisor; a load from another device, whose value is recorded, or which its owner does not grant (a permission fault); a store of class U to
another device, which is posted; one of class G, which becomes dirty bytes of the L1 copy. Which accesses another device grants is open
(notes/assumptions/18.md). -/
def Obligations.OtherAccesses : Prop :=
  (∀ (i : Instr) (s : State) (os : List Opnd) (d : Dest) (va : Word) (sz : MemSz) (pa : Nat) (e : Tlb),
    loadOf i s = some (os, d, va, sz) → Fits s os d → va.toNat % szBytes sz = 0 → pa % szBytes sz = 0 →
    let n := szBytes sz
    let core := s.th.core
    let line := lineOf pa
    let gives (byte : Nat → Byte) : Arch := written s.th.a d (extended sz (wordOf ((List.range n).map (fun j => byte (pa + j))))) 0
    let reads (c : Chunk) (a : Arch) (u : State) : Prop := exec i s = .next (retire u .seq) ∧ u.mem = s.mem ∧ u.rest = s.rest ∧
      u.th = { s.th with kept := [], chunk := c, a := a } ∧ lcOf u core = max (lcOf s core) (stampOf s line)
    let waits (t : State) : Prop := exec i s = .next t ∧ t.th.status = .waiting (.memory line) ∧ t.th.a = s.th.a ∧ t.mem = s.mem
    let single (c : Chunk) (byte : Nat → Byte) : Prop := ∃ u, exec i s = .next (retire u .access) ∧ u.mem = s.mem ∧ u.rest = s.rest ∧
      u.th = { s.th with kept := [], chunk := c, a := gives byte } ∧ lcOf u core = max (lcOf s core) (stampOf s line) + 1
    (HeldPage s va e pa .G .read →
      (gHas s pa n = true → ChunkGoesOn s → PassesAs i s { s.th with chunk := marked s line (touchedIn s e) } (gives (gByte s)) (following s.th)) ∧
      (gHas s pa n = false → Fetchable s line → ∃ u l, reads (marked s line (touchedIn s e)) (gives (gFetched s)) u ∧
        l1Get u core line = some l ∧ l.cls = .G ∧ l.valid = fullMask ∧ l.dirty = 0 ∧ l.va = va.toNat / 64 * 64)) ∧
    (HeldPage s va e pa .D .read → NoView s →
      (Fetchable s line → ∃ u, reads (touchedD s e line) (gives (dFetched s)) u ∧ hasLine u line .D = true ∧ (dirOf u line).st = .S ∧
        (clusterOf core ∈ (dirOf u line).ptrs ∨ (dirOf u line).bc = true)) ∧
      (l1Get s core line = none → entryFree s (clusterOf core) core = true → sliceRoom s line = true → readAsked s core line .D = false →
        lineBusy s line = true ∨ (dirOf s line).st = .O → ∃ t, waits t ∧ Event.readMiss core line .D (incOf s (clusterOf core)) ∈ t.agenda)) ∧
    (HeldPage s va e pa .W .read →
      (∀ l, l1Get s core line = some l → l.cls = .W → ChunkGoesOn s → PassesAs i s { s.th with chunk := marked s line (touchedIn s e) }
        (gives (fun a => l.data.getD (a % 64) 0)) (following s.th)) ∧
      (Fetchable s line → windowWaits s line = false → ∃ u, reads (marked s line (touchedIn s e)) (gives (cellGet s.mem.cells)) u ∧
        hasLine u line .W = true) ∧
      (l1Get s core line = none → entryFree s (clusterOf core) core = true → windowWaits s line = true → ∃ t, waits t)) ∧
    (Between s →
      (HeldPage s va e pa .U .read → FreeLine s line → single (touchedIn s e) (cellGet s.mem.cells)) ∧
      (OtherWindow s va pa → entryFree s (clusterOf core) core = true → s.mem.poisoned.contains line = false →
        single (touched s va) (cellGet s.mem.cells)) ∧
      (∀ cls, FarPage s va e pa cls .read → FarOpen s pa → (cls = .G → l1Get s core line = none ∧ gHas s pa n = false ∧ L1Room s core ∧
          (dirOf s line).queue = [] ∧ s.mem.poisoned.contains line = false) →
        let byte : Nat → Byte := if cls = .G then gFetched s else cellGet s.mem.cells
        (Config.remoteGrants pa (jobOf s s.th) = true → single { touchedIn s e with
          far := some (paDev pa), logged := wordOf ((List.range n).map (fun j => byte (pa + j))) :: s.th.chunk.logged } byte) ∧
        (Config.remoteGrants pa (jobOf s s.th) = false → ∃ u, u.th.a = s.th.a ∧ u.mem = s.mem ∧ u.rest = s.rest ∧
          exec i s = .next (raise u (trapOf s 0x07 0x07 va (accDesc .read n.log2 0) 0)))) ∧
      (ControlPage s va e pa .read →
        let w := withChunk s (touchedIn s e)
        let r := ctlReadAs w (.supervisor s.th.part) (paLocal pa - controlBase)
        (∀ v, sz = .d64 → replayedVal r.2 = none → r.1 = some v → ∃ u, exec i s = .next (retire u .access) ∧ u.mem = r.2.mem ∧
          u.th.a = written r.2.th.a d v 0 ∧ u.th.chunk.logged = v :: r.2.th.chunk.logged) ∧
        (sz ≠ .d64 ∨ r.1 = none → exec i s = .next (raise w (trapOf s 0x07 0x07 va (accDesc .read n.log2 0) 0)))))) ∧
  (∀ (i : Instr) (s : State) (as vs : List Opnd) (va v : Word) (sz : MemSz) (pa : Nat) (e : Tlb),
    storeOf i s = some (as, vs, va, v, sz) → Fits s (as ++ vs) .drop → NoView s → va.toNat % szBytes sz = 0 → pa % szBytes sz = 0 →
    let n := szBytes sz
    let core := s.th.core
    let line := lineOf pa
    let data := leBytes n v.toNat
    let keeps (c : Chunk) (u : State) : Prop := exec i s = .next (retire u .seq) ∧ u.mem = s.mem ∧ u.rest = s.rest ∧
      u.th = { s.th with kept := [], chunk := { c with dirty := dirtied s e } }
    let puts (u : State) : Prop := exec i s = .next (retire u .access) ∧ SameRegs u.th s.th.a ∧ cellsRead u.mem.cells pa n = data ∧ OnlyAt u s pa n ∧
      lcOf u core = max (lcOf s core) (stampOf s line) + 1 ∧ stampOf u line = lcOf u core
    let leaves (u : State) : Prop := exec i s = .next (retire u .access) ∧ u.th.a = s.th.a ∧ u.mem = s.mem ∧ u.rest = s.rest ∧
      u.th.chunk.dirty = dirtied s e ∧ u.th.chunk.far = some (paDev pa) ∧ lcOf u core = lcOf s core + 1
    (HeldPage s va e pa .G .write → specRoom s line = true → hasLine s line .G = true ∨ l1Get s core line = none ∧ L1Room s core →
      ∃ u, keeps { touchedIn s e with gwrites := addBytes pa data s.th.chunk.gwrites } u ∧ hasLine u line .G = true) ∧
    (HeldPage s va e pa .D .write → specRoom s line = true → Fetchable s line →
      ∃ u, keeps { touchedIn s e with writes := addBytes pa data s.th.chunk.writes } u ∧ hasLine u line .D = true) ∧
    (Between s → Memory.wf s.mem.cells = true →
      (HeldPage s va e pa .U .write → FreeLine s line → ∃ u, puts u ∧ u.th.chunk.dirty = dirtied s e) ∧
      (OtherWindow s va pa → entryFree s (clusterOf core) core = true → ∃ u, puts u ∧ u.th = { s.th with kept := [], chunk := touched s va })) ∧
    (Between s → routeLive s s.th.part (paDev pa) = true →
      (FarPage s va e pa .U .write → entryFree s (clusterOf core) core = true → (∀ h ∈ s.rep.skips, h.part ≠ s.th.part) →
        ∃ u p, leaves u ∧ u.coh.posted = s.coh.posted ++ [p] ∧ p.pa = pa ∧ p.data = data.map some ∧ p.dev = paDev pa ∧ p.uid = s.th.uid ∧
          p.back = false ∧ p.pc = s.th.a.pc ∧ Event.postedStorePerform (paDev pa) ∈ u.agenda) ∧
      (FarPage s va e pa .G .write → specRoom s line = true → s.th.chunk.gwrites = [] → l1Get s core line = none → L1Room s core →
        ∃ u l, leaves u ∧ u.th.chunk.gwrites = [] ∧ l1Get u core line = some l ∧ l.cls = .G ∧
          ∀ j, j < n → l.data.getD (pa % 64 + j) 0 = data.getD j 0 ∧ bitAt l.valid (pa % 64 + j) = true ∧ bitAt l.dirty (pa % 64 + j) = true)) ∧
    (Between s → ControlPage s va e pa .write →
      let w := withChunk s (touchedIn s e)
      let r := ctlWriteAs w (.supervisor s.th.part) (paLocal pa - controlBase) v
      (∀ t, sz = .d64 → r = some t → ∃ u, exec i s = .next (retire u .access) ∧ u.sys = t.sys ∧ u.mem = t.mem ∧ u.th = t.th) ∧
      (sz ≠ .d64 ∨ r = none → exec i s = .next (raise w (trapOf s 0x07 0x07 va (accDesc .write n.log2 0) 0)))))

/-- R324, R400, R401: a load or store whose address is not a multiple of its size raises the alignment fault, subcause 1, with the address and
its descriptor.
R49, R50, R401: a load or store whose address does not translate raises the translation fault with the address, its descriptor, the level
and the PA of the entry; one held for a context or granule waits. -/
def Obligations.AccessFaults : Prop :=
  (∀ (i : Instr) (s : State) (os as vs : List Opnd) (d : Dest) (va v : Word) (sz : MemSz), va.toNat % szBytes sz ≠ 0 →
    (loadOf i s = some (os, d, va, sz) → Fits s os d → Raises i s 0x06 1 va (accDesc .read (szBytes sz).log2 0) 0) ∧
    (storeOf i s = some (as, vs, va, v, sz) → Fits s (as ++ vs) .drop → Raises i s 0x06 1 va (accDesc .write (szBytes sz).log2 0) 0)) ∧
  (∀ (i : Instr) (s u : State) (os as vs : List Opnd) (d : Dest) (va v : Word) (sz : MemSz) (sub lvl pa : Nat) (w : Wait),
    va.toNat % szBytes sz = 0 →
    (loadOf i s = some (os, d, va, sz) → Fits s os d →
      (xlateAs (ready s) (whoOf s.th) va.toNat false .read = (.error (.fault sub lvl pa), u) →
        exec i s = .next (raise u (trapOf s 0x07 sub va (accDesc .read (szBytes sz).log2 lvl) (BitVec.ofNat 64 pa)))) ∧
      (xlateAs (ready s) (whoOf s.th) va.toNat false .read = (.error (.hold w), u) → exec i s = .next (waitAt u w))) ∧
    (storeOf i s = some (as, vs, va, v, sz) → Fits s (as ++ vs) .drop →
      (xlateAs (ready s) (whoOf s.th) va.toNat false .write = (.error (.fault sub lvl pa), u) →
        exec i s = .next (raise u (trapOf s 0x07 sub va (accDesc .write (szBytes sz).log2 lvl) (BitVec.ofNat 64 pa)))) ∧
      (xlateAs (ready s) (whoOf s.th) va.toNat false .write = (.error (.hold w), u) → exec i s = .next (waitAt u w))))

/-- R227, R235-R237, R332: a decoding load from a line of class D that the L1 holds delivers the element in its page's format, converted, with
the flags that raises; a page without a format, or without scales here, is misuse 0x08, or takes the scale 127. -/
def Obligations.DecodingLoads : Prop :=
  ∀ (i : Instr) (s : State) (os : List Opnd) (d : Dest) (va : Word) (rm : Rm) (df : FF4) (pa : Nat) (e : Tlb),
    decodingOf i s = some (os, d, va, rm, df) → Fits s os d → ChunkGoesOn s → HeldPage s va e pa .D .read → hasLine s (lineOf pa) .D = true →
    (∀ f, elFmt (peFmt e.leaf) = some f → va.toNat % 2 ^ f.bytes.log2 = 0 → peBgeo e.leaf = 0 →
      let v := valLdf df f (Machine.rmOf s.th.a rm) (leNat ((List.range f.bytes).map (fun j => dByte s (pa + j)))) 127
      v.fl &&& s.th.a.fpctl.bits 12 8 = 0 → PassesIn i s (unspill s s.th.chain (lineOf pa)) { s.th with chunk := touchedD s e (lineOf pa) }
        (written { s.th.a with fpflags := s.th.a.fpflags ||| BitVec.ofNat 64 (v.fl % 32) } d v.v 0) (following s.th)) ∧
    (elFmt (peFmt e.leaf) = none → exec i s = .next (raise (withChunk s (touchedIn s e)) (trapOf s 0x0d 0x08 va 0 0)))

/-! ### Atomics and orders -/

/-- R335: what an atomic writes: the operation on the low bits of its width, compared as signed or unsigned numbers.
R104, R122, R336: an atomic on a line of class D that the L1 holds, with any order but one that takes a ticket, reads and writes in its chunk and
delivers the old value, extended as its format says; memory is unchanged until the commit. With nothing left to release or acquire, a release
asks the chunk for one, and `.sc` for an acquire at its commit. -/
def Obligations.Atomics : Prop :=
  (∀ (w : AmoW) (old x : Nat), old < 2 ^ amoBits w →
    let b := x % 2 ^ amoBits w
    amoNew w .swap old x = b ∧ amoNew w .add old x = (old + x) % 2 ^ amoBits w ∧ amoNew w .and old x = old &&& b ∧
    amoNew w .or old x = old ||| b ∧ amoNew w .xor old x = old ^^^ b ∧
    (w = .z32 ∨ w = .z64 → amoNew w .min old x = min old b ∧ amoNew w .max old x = max old b) ∧
    (w = .s32 → BitVec.toInt (BitVec.ofNat 32 (amoNew w .min old x)) = min (BitVec.toInt (BitVec.ofNat 32 old)) (BitVec.toInt (BitVec.ofNat 32 x)) ∧
      BitVec.toInt (BitVec.ofNat 32 (amoNew w .max old x)) = max (BitVec.toInt (BitVec.ofNat 32 old)) (BitVec.toInt (BitVec.ofNat 32 x))) ∧
    (w = .s64 → BitVec.toInt (BitVec.ofNat 64 (amoNew w .min old x)) = min (BitVec.toInt (BitVec.ofNat 64 old)) (BitVec.toInt (BitVec.ofNat 64 x)) ∧
      BitVec.toInt (BitVec.ofNat 64 (amoNew w .max old x)) = max (BitVec.toInt (BitVec.ofNat 64 old)) (BitVec.toInt (BitVec.ofNat 64 x))) ∧
    amoNew w .min old x < 2 ^ amoBits w ∧ amoNew w .max old x < 2 ^ amoBits w) ∧
  (∀ (i : Instr) (s : State) (a : Opnd) (vs : List Opnd) (d : Dest) (w : AmoW) (ord : Ord) (sc : Scope) (f : Nat → Option Nat) (pa : Nat)
      (e : Tlb),
    atomicOf i s = some (a, vs, d, w, ord, sc, f) → Fits s (a :: vs) d → ChunkGoesOn s → NoView s →
    ¬ (ord = .sc ∧ (sc = .dom ∨ sc = .sys)) → ord = .rlx ∨ Quiet s →
    (opnd s a).toNat % (amoBits w / 8) = 0 → HeldPage s (opnd s a) e pa .D .rmw → hasLine s (lineOf pa) .D = true →
    specRoom s (lineOf pa) = true →
      let n := amoBits w / 8
      let old := leNat ((List.range n).map (fun j => dByte s (pa + j)))
      let c := { touchedD s e (lineOf pa) with
        rel := s.th.chunk.rel || decide (ord = .rel ∨ ord = .ar ∨ ord = .sc), acq := s.th.chunk.acq || decide (ord = .sc) }
      let c' := (f old).elim c (fun v => { c with dirty := dirtied s e, writes := addBytes pa (leBytes n v) s.th.chunk.writes })
      let r := if w = .s32 then BitVec.signExtend 64 (BitVec.ofNat 32 old) else BitVec.ofNat 64 old
      PassesAs i s { s.th with chunk := c' } (written s.th.a d r 0) (following s.th))

namespace Sys2Proof.Claims

/-- Where an atomic is performed between chunks, with the chunk that it leaves: (1) a scratchpad bank, own or another cluster's; (2) a free line
of class U or G, or of class D with a ticket, at its home; (3) another device, which grants it and may be reached, everything recorded
before having been acknowledged. -/
def AtomicPlace (s : State) (va : Word) (pa : Nat) (ticket far : Bool) (c : Chunk) : Prop :=
  ((OwnWindow s va pa ∨ OtherWindow s va pa) ∧ s.mem.poisoned.contains (lineOf pa) = false ∧ far = false ∧ c = touched s va) ∨
  (∃ e cls, HeldPage s va e pa cls .rmw ∧ (cls = .U ∨ cls = .G ∧ CleanCopy s (lineOf pa) ∨ cls = .D ∧ ticket = true) ∧ FreeLine s (lineOf pa) ∧
    far = false ∧ c = touchedIn s e) ∨
  (∃ e cls, FarPage s va e pa cls .rmw ∧ (cls = .G → CleanCopy s (lineOf pa)) ∧ FarOpen s pa ∧ ackedTo s s.th.part (logPos s s.th.part) = true ∧
    Config.remoteGrants pa (jobOf s s.th) = true ∧ far = true ∧ c = touchedIn s e)

end Sys2Proof.Claims

/-- R104, R115, R122, R124, R126, R336, R438, R439: an atomic on a scratchpad bank, on memory of class G or U, or on another device's memory is
performed between chunks, where nothing is left to release or acquire (without an order, nothing need be): the line's stamp and LC rise
above both, the bytes change there and nowhere else, and the old value is delivered; another device's is recorded. One that takes a ticket
of the sequencer, on class D too, asks for it and waits, and is performed once it holds it, the ticket recorded and noted at the home.
Which accesses another device grants, and what its memory holds, is open (notes/assumptions/18.md). -/
def Obligations.AtomicsAtBank : Prop :=
  ∀ (i : Instr) (s : State) (a : Opnd) (vs : List Opnd) (d : Dest) (w : AmoW) (ord : Ord) (sc : Scope) (f : Nat → Option Nat) (pa : Nat)
      (far : Bool) (c : Chunk),
    atomicOf i s = some (a, vs, d, w, ord, sc, f) → Fits s (a :: vs) d → Between s → NoView s →
    let n := amoBits w / 8
    let ticket : Bool := decide (ord = .sc ∧ (sc = .dom ∨ sc = .sys))
    (opnd s a).toNat % n = 0 → pa % n = 0 → ord = .rlx ∨ Quiet s → AtomicPlace s (opnd s a) pa ticket far c → Memory.wf s.mem.cells = true →
      let old := leNat (cellsRead s.mem.cells pa n)
      let st := max (lcOf s s.th.core) (stampOf s (lineOf pa)) + 1
      let r := if w = .s32 then BitVec.signExtend 64 (BitVec.ofNat 32 old) else BitVec.ofNat 64 old
      let performed (logged : List Word) (u : State) : Prop := exec i s = .next (retire u .access) ∧ lcOf u s.th.core = st ∧
        SameRegs u.th (written s.th.a d r 0) ∧
        u.th.chunk.logged = (if far then [BitVec.ofNat 64 old] else []) ++ logged ∧ (far = true → u.th.chunk.far = some (paDev pa)) ∧
        (isWindow (opnd s a).toNat = true → u.th = { s.th with
          kept := [], a := written s.th.a d r 0, chunk := { c with logged := u.th.chunk.logged } }) ∧
        (f old = none → u.mem = s.mem) ∧
        ∀ v, f old = some v → cellsRead u.mem.cells pa n = leBytes n v ∧ stampOf u (lineOf pa) = st ∧ OnlyAt u s pa n
      (ticket = false → ∃ u, performed s.th.chunk.logged u) ∧
      (ticket = true → NoReplay s →
        (∀ t, s.th.answered = some t → ∃ u, performed (t :: s.th.chunk.logged) u ∧ t.toNat ≤ Assoc.getD u.sys.performed (homeOf pa) 0) ∧
        (s.th.answered = none → ¬ s.th.uid ∈ s.sys.ticketQueue → exec i s = .next (waitAt { withChunk s c with
          sys := { s.sys with ticketQueue := s.sys.ticketQueue ++ [s.th.uid] }, agenda := s.agenda ++ [.sequencerTicket s.th.uid] } .ticket)))

/-- R333: `pf` changes nothing; `wb` of a line of class D asks for its write-back at the commit point; `inv` drops a line of class W and
nothing of class D.
R122, R126, R337, R438: a fence performed between chunks, where a release and an acquire have nothing left to do, changes nothing; one that
takes a ticket of the sequencer asks for it and waits, and passes once it holds it, the ticket recorded. -/
def Obligations.HintsAndFences : Prop :=
  (∀ (s : State) (a : Opnd) (pa : Nat) (e : Tlb), Fits s [a] .drop → ChunkGoesOn s →
    Passes (.pf a) s s.th.a (following s.th) ∧
    (HeldPage s (opnd s a) e pa .D .read →
      PassesAs (.wb a) s { s.th with chunk := { touchedIn s e with wbs := s.th.chunk.wbs ++ [lineOf pa] } } s.th.a (following s.th) ∧
      PassesAs (.inv a) s { s.th with chunk := touchedIn s e } s.th.a (following s.th)) ∧
    (HeldPage s (opnd s a) e pa .W .read → hasLine s (lineOf pa) .W = true →
      exec (.inv a) s = .next (retire (l1Drop (withChunk s (touchedIn s e)) s.th.core (lineOf pa)) .seq))) ∧
  (∀ (s : State) (ord : Ord) (sc : Scope), Between s → NoView s → Quiet s →
    (¬ (ord = .sc ∧ (sc = .dom ∨ sc = .sys)) → exec (.fence ord sc) s = .next (retire (ready s) .single)) ∧
    (∀ n, ord = .sc → sc = .dom ∨ sc = .sys → NoReplay s → s.th.answered = some n → exec (.fence ord sc) s = .next (retire { ready s with
      th := { (ready s).th with chunk := { s.th.chunk with logged := n :: s.th.chunk.logged } } } .single)) ∧
    (ord = .sc → sc = .dom ∨ sc = .sys → NoReplay s → s.th.answered = none → ¬ s.th.uid ∈ s.sys.ticketQueue →
      exec (.fence ord sc) s = .next (waitAt { ready s with
        sys := { s.sys with ticketQueue := s.sys.ticketQueue ++ [s.th.uid] }, agenda := s.agenda ++ [.sequencerTicket s.th.uid] } .ticket)))

/-- R341-R343: `monitor` arms a watch on a line; `mwait` delivers 2 without one, 1 when its line's stamp has risen, 0 after its limit, and
waits otherwise. R74, R76, R343: `wsref` delivers all ones outside the weight store, 0 in an open window, and else a count of at most a
refresh period, of 1,000 units for each bank whose window comes before it. -/
def Obligations.Monitors : Prop :=
  ∀ (s : State) (d : Dest) (a : Opnd) (pa : Nat) (e : Tlb) (w : Watch),
    (Fits s [a] .drop → HeldPage s (opnd s a) e pa .D .read ∨ HeldPage s (opnd s a) e pa .G .read ∨ HeldPage s (opnd s a) e pa .U .read →
      ∃ u, exec (.monitor a) s = .next (retire u .seq) ∧
        u.th = { s.th with kept := [], chunk := touchedIn s e, a := { s.th.a with monitor := some (lineOf pa) } } ∧
        watchOf u s.th.uid = some { line := lineOf pa, uid := s.th.uid, ref := stampOf s (lineOf pa), forced := false, fresh := true }) ∧
    (Between s → Fits s [a] d → s.th.a.monitor = none → exec (.mwait d a) s = .next (retire (pushResult (ready s) d 2 0) .single)) ∧
    (Between s → Fits s [a] d → watchOf s s.th.uid = none → exec (.mwait d a) s = .next (retire (pushResult (ready s) d 2 0) .single)) ∧
    (Between s → Fits s [a] d → NoReplay s → s.th.a.monitor.isSome = true → watchOf s s.th.uid = some w →
      (w.forced = true ∨ w.ref < stampOf s w.line → ∃ u, exec (.mwait d a) s = .next (retire u .single) ∧
        u.th = { s.th with kept := [], a := written s.th.a d 1 0, chunk := { s.th.chunk with logged := 1 :: s.th.chunk.logged } } ∧
        lcOf u s.th.core = max (lcOf s s.th.core) (stampOf s w.line) ∧ u.mem = s.mem) ∧
      (w.forced = false → stampOf s w.line ≤ w.ref →
        (s.th.answered.isSome = true → exec (.mwait d a) s = .next (retire { dropLimit s with th := { (ready s).th with
          a := written s.th.a d 0 0, chunk := { s.th.chunk with logged := 0 :: s.th.chunk.logged } } } .single)) ∧
        (s.th.answered = none → ∃ t, exec (.mwait d a) s = .next t ∧ t.th.status = .waiting (.mwait w.line) ∧ t.th.a.pc = s.th.a.pc ∧
          (opnd s a ≠ 0 → Event.mwaitLimitExpiry s.th.uid ∈ t.agenda)))) ∧
    (Fits s [a] d → ChunkGoesOn s → NoReplay s →
      (HeldPage s (opnd s a) e pa .D .read →
        PassesAs (.wsref d a) s { s.th with chunk := { touchedIn s e with logged := BitVec.allOnes 64 :: s.th.chunk.logged } }
          (written s.th.a d (BitVec.allOnes 64) 0) (following s.th)) ∧
      (HeldPage s (opnd s a) e pa .W .read →
        let die := (paLocal pa - weightBase) / 0x40000000
        let bank := weightBank (paLocal pa)
        ∃ v : Word, PassesAs (.wsref d a) s { s.th with chunk := { touchedIn s e with logged := v :: s.th.chunk.logged } }
          (written s.th.a d v 0) (following s.th) ∧ v.toNat ≤ 64000 ∧
          (s.sys.wsOpen.contains (die, bank) = true → v = 0) ∧
          ∀ b, Assoc.get s.sys.wsLast die = some b → s.sys.wsOpen.contains (die, bank) = false → b < bank →
            1000 * (bank - b - 1) ≤ v.toNat ∧ v.toNat ≤ 1000 * (bank - b)))

/-! ### Sync objects -/

/-- R90-R92, R338: operations on a well-formed sync object at a free home, with nothing left to release or acquire: an acquire of a free lock
writes 1; one for a value reached writes nothing; a release writes its value, or adds it and delivers the old one, or 0. Memory outside
SYNCWORD, and every register but the result, is unchanged.
R339: `syncacq.lk` of a lock that is held joins the waiter list and waits. -/
def Obligations.SyncOperations : Prop :=
  (∀ (s : State) (d : Dest) (a : Opnd) (sc : Scope) (e : Tlb) (pa : Nat), Between s → NoView s → NoReplay s → s.th.answered = none →
    Fits s [.q 0, a] d → HeldPage s (opnd s a) e pa .U .rmw → pa % 64 = 0 → FreeLine s pa → Quiet s → Memory.wf s.mem.cells = true →
    syncBad { va := (opnd s a).toNat, pa := pa, tgt := .mem .U, leafPa := e.leafPa, leaf := e.leaf, base := e.base, lg := e.lg }
      (leNat (cellsRead s.mem.cells pa 64)) = false →
      let old := leNat (cellsRead s.mem.cells pa 8)
      let v := opnd s (.q 0)
      let puts (i : Instr) (new : Option Nat) (r : Arch) : Prop :=
        ∃ u, exec i s = .next (retire u .access) ∧ SameRegs u.th r ∧ OnlyAt u s pa 8 ∧
          cellsRead u.mem.cells pa 8 = leBytes 8 (new.getD old) ∧
          lcOf u s.th.core = max (lcOf s s.th.core) (stampOf s pa) + 1
      (old = 0 → puts (.syncacqLk a sc) (some 1) s.th.a) ∧
      (v.toNat ≤ old → puts (.syncacqGe a sc) none s.th.a) ∧
      (old = 0 → puts (.syncacqTry d a sc) (some 1) (written s.th.a d 1 0)) ∧
      (old ≠ 0 → puts (.syncacqTry d a sc) none (written s.th.a d 0 0)) ∧
      puts (.syncrelSt a sc) (some v.toNat) s.th.a ∧
      puts (.syncrelAdd d a sc) (some ((old + v.toNat) % 2 ^ 64)) (written s.th.a d (BitVec.ofNat 64 old) 0) ∧
      puts (.syncrelClr a sc) (some 0) s.th.a) ∧
  (∀ (s : State) (a : Opnd) (sc : Scope) (e : Tlb) (pa : Nat), Between s → NoView s → NoReplay s → s.th.answered = none →
    Fits s [a] .drop → HeldPage s (opnd s a) e pa .U .rmw → pa % 64 = 0 → FreeLine s pa →
    syncBad { va := (opnd s a).toNat, pa := pa, tgt := .mem .U, leafPa := e.leafPa, leaf := e.leaf, base := e.base, lg := e.lg }
      (leNat (cellsRead s.mem.cells pa 64)) = false →
    leNat (cellsRead s.mem.cells pa 8) ≠ 0 → (s.coh.waiters.filter (fun w => homeOf w.line = homeOf pa)).length < 4096 →
      ∃ t, exec (.syncacqLk a sc) s = .next t ∧ t.th.status = .waiting (.sync pa) ∧ t.th.a = s.th.a ∧ t.mem = s.mem ∧
        t.coh.waiters = s.coh.waiters ++ [{ line := pa, uid := s.th.uid }])

/-! ### Long accumulators -/

namespace Sys2Proof.Claims

/-- A long accumulator at an aligned address of the own window, its seventeen doublewords at PAs (R243, R319). -/
def ObjectAt (s : State) (va : Word) (pas : List Nat) : Prop :=
  va.toNat % 8 = 0 ∧ pas.length = 17 ∧ ∃ off al, accOffset s va = some off ∧ allocOf s (clusterOf s.th.core) (ctxOf s.th) = some al ∧
    off + 136 ≤ al.size * 0x4000 ∧
    ∀ k, k < 17 → ∃ p, scratchAt s (clusterOf s.th.core) (ctxOf s.th) (off + 8 * k) = .ok p ∧ pas.getD k 0 = localPa s p

/-- A chunk that has read bytes of banks (R70, R71): marked where one of their lines is poisoned. -/
def markedAll (s : State) (pas : List Nat) (c : Chunk) : Chunk :=
  { c with poison := c.poison || pas.any (fun p => s.mem.poisoned.contains (lineOf p)) }

/-- The chunk after an object has been written whole (R320). -/
def objectPut (s : State) (pas : List Nat) (bytes : List Byte) : Chunk :=
  { s.th.chunk with wstores :=
    (pas.zipIdx).foldl (fun ws e => addBytes e.1 ((bytes.drop (8 * e.2)).take 8) ws) s.th.chunk.wstores }

/-- The window store buffer has room for every line of an object (R102, R320). -/
def ObjectRoom (s : State) (pas : List Nat) : Prop :=
  ((threads s).filter (fun t => t.core = s.th.core)).foldl (fun n t => n + (bufLines t.chunk).length) 0 +
    (((pas.map lineOf).eraseDups).filter (fun l => !(bufLines s.th.chunk).contains l)).length ≤ 64

/-- A value added to an object (R244, R245): truncated to a multiple of 2^BASE, the sum taken modulo 2^1024; no product at all is that of 0 and
an infinity. -/
def Accumulates (l : LongAcc) (x : Option Val) (l' : LongAcc) : Prop :=
  match x with
  | none | some (.nan _) => l' = { l with sticky := l.sticky ||| 8 }
  | some (.inf n) => l' = { l with sticky := l.sticky ||| if n then 32 else 16 }
  | some (.num _ x) => ∃ k : ℤ, RoundsIn .rtz ((x / (2 : ℚ) ^ l.base : ℚ) : ℝ) k ∧ l'.base = l.base ∧
      (l'.w - (l.w + k)) % 2 ^ 1024 = 0 ∧ -2 ^ 1023 ≤ l'.w ∧ l'.w < 2 ^ 1023 ∧
      l'.sticky = l.sticky ||| (if (k : ℚ) * (2 : ℚ) ^ l.base = x then 0 else 4) |||
        if -2 ^ 1023 ≤ l.w + k ∧ l.w + k < 2 ^ 1023 then 0 else 2

/-- What `xrnd` delivers from an object (R246). -/
def Sums (l : LongAcc) (rm : Rm) (v : FV) : Prop :=
  let has (b : Nat) : Prop := l.sticky &&& b ≠ 0
  (has 8 ∨ (has 16 ∧ has 32) ∨ has 2 → GivesNan (.ieee .d) true v) ∧
  (¬ has 8 → ¬ has 2 →
    (has 16 → ¬ has 32 → Holds (.ieee .d) v.v (.inf false) ∧ v.fl = 0) ∧ (has 32 → ¬ has 16 → Holds (.ieee .d) v.v (.inf true) ∧ v.fl = 0) ∧
    (¬ has 16 → ¬ has 32 → Gives (.ieee .d) rm .sat false (((l.w * (2 : ℚ) ^ l.base) : ℚ) : ℝ) v))

end Sys2Proof.Claims

/-- R243-R246, R318-R320: `xinit` makes an empty object with its base; `xadd`, `xmad` and `xaddn` add a value, an exact product and another
object; `xrnd` delivers the rounded value with its flags; `xstat` delivers the header's status. Updates stay in the chunk.
That `xinit` clears all five sticky bits, where R244 says four, is the model's choice (notes/assumptions/88.md).
R243: an object's bytes read back as it. R244, R245: what adding a value, a product or another object makes of it. R246: what it rounds to. -/
def Obligations.LongAccumulators : Prop :=
  (∀ (s : State) (d : Dest) (a b c : Opnd) (rm : Rm) (pas pbs : List Nat), ChunkGoesOn s → NoView s → ObjectAt s (opnd s a) pas →
    let l := LongAcc.read (accRead s pas)
    let puts (i : Instr) (read : List Nat) (x : LongAcc) : Prop :=
      PassesAs i s { s.th with chunk := markedAll s read (objectPut s pas x.bytes) } s.th.a (following s.th)
    let reader : Thread := { s.th with chunk := markedAll s pas s.th.chunk }
    (ObjectRoom s pas →
      (Fits s [a, b] .drop → puts (.xinit a b) [] { base := BitVec.toInt ((opnd s b).truncate 12), sticky := 0, w := 0 }) ∧
      (Fits s [a, b] .drop → puts (.xadd a b) pas (l.add (fread (.ieee .d) (opnd s b)))) ∧
      (Fits s [a, b, c] .drop → puts (.xmad a b c) pas (l.add (Ex.mul (fread (.ieee .d) (opnd s b)) (fread (.ieee .d) (opnd s c))).x)) ∧
      (Fits s [a, b] .drop → ObjectAt s (opnd s b) pbs → puts (.xaddn a b) (pas ++ pbs) (l.addAcc (LongAcc.read (accRead s pbs))))) ∧
    (Fits s [a] d →
      PassesAs (.xstat d a) s reader (written s.th.a d (BitVec.ofNat 64 (accRead s pas % 2 ^ 20)) 0) (following s.th) ∧
      (let v := l.round (Machine.rmOf s.th.a rm)
       v.fl &&& s.th.a.fpctl.bits 12 8 = 0 → PassesAs (.xrnd d a rm) s reader
        (written { s.th.a with fpflags := s.th.a.fpflags ||| BitVec.ofNat 64 (v.fl % 32) } d v.v 0) (following s.th)))) ∧
  (∀ l : LongAcc, -2 ^ 11 ≤ l.base → l.base < 2 ^ 11 → l.sticky < 64 → l.sticky % 2 = 0 → -2 ^ 1023 ≤ l.w → l.w < 2 ^ 1023 →
    l.bytes.length = 136 ∧ LongAcc.read (leNat l.bytes) = l) ∧
  (∀ (l o : LongAcc) (a b : Word),
    Accumulates l (some (fval (.ieee .d) a)) (l.add (fread (.ieee .d) a)) ∧
    Accumulates l (product (fval (.ieee .d) a) (fval (.ieee .d) b)) (l.add (Ex.mul (fread (.ieee .d) a) (fread (.ieee .d) b)).x) ∧
    ∃ r, Accumulates l (some (.num (decide (o.w < 0)) (o.w * (2 : ℚ) ^ o.base))) r ∧ l.addAcc o = { r with sticky := r.sticky ||| o.sticky }) ∧
  ∀ (l : LongAcc) (rm : Rm), rm ≠ .dyn → Sums l rm (l.round rm)

/-! ### Threads, groups, crews -/

namespace Sys2Proof.Claims

/-- The state with a value recorded by the front thread's chunk and delivered (R105, R270). -/
def loggedPush (s : State) (d : Dest) (v : Word) : State :=
  { ready s with th := { (ready s).th with a := written s.th.a d v 0, chunk := { s.th.chunk with logged := v :: s.th.chunk.logged } } }

end Sys2Proof.Claims

/-- R344, R345: `spawn` puts a continuation record on top of its cluster's deque, with its code, frame, join address, index and the thread's
origin key, and nothing of the thread changes; code or join out of alignment raises the alignment fault.
R346: `join` on a free line of class U takes one from the count and delivers what is left; the last one puts the object's continuation
on the deque. Memory outside the count is unchanged.
R303, R347: `yield` with no work that wants its slot goes on.
R302: `exit` of a program whose posted stores have been performed frees its slot, and the completion of its launch is looked at. That a
misaligned code or join reports access descriptor 0 is the model's choice (notes/assumptions/10.md). -/
def Obligations.SpawnsAndJoins : Prop :=
  (∀ (s : State) (a b c : Opnd) (idx : Bool), Between s → NoView s → Fits s ([a, c] ++ (if idx then [b, .q 0] else [b])) .drop →
    ((opnd s a).toNat % 4 = 0 → (opnd s c).toNat % 64 = 0 → dequeRoom s (clusterOf s.th.core) = true → Quiet s →
      ∃ u r, exec (.spawn a b c idx) s = .next (retire u .single) ∧ u.th = (ready s).th ∧ u.mem = s.mem ∧
        (clWork u (clusterOf s.th.core)).deque = r :: (clWork s (clusterOf s.th.core)).deque ∧
        r.code = opnd s a ∧ r.frame = opnd s b ∧ r.join = opnd s c ∧ r.lnum = s.th.lnum ∧ r.origin = s.th.origin ++ [s.th.seq] ∧
        r.index = (if idx then (opnd s (.q 0)).toNat % 2 ^ 48 else s.th.index) ∧ r.saved = none) ∧
    ((opnd s a).toNat % 4 ≠ 0 → Raises (.spawn a b c idx) s 0x06 1 (opnd s a) 0 0) ∧
    ((opnd s a).toNat % 4 = 0 → (opnd s c).toNat % 64 ≠ 0 → Raises (.spawn a b c idx) s 0x06 1 (opnd s c) 0 0)) ∧
  (∀ (s : State) (d : Dest) (a : Opnd) (e : Tlb) (pa : Nat), Between s → NoView s → Fits s [a] d →
    HeldPage s (opnd s a) e pa .U .rmw → (opnd s a).toNat % 64 = 0 → pa % 64 = 0 → FreeLine s pa → Quiet s → Memory.wf s.mem.cells = true →
    dequeRoom s (clusterOf s.th.core) = true →
      let o := leNat (cellsRead s.mem.cells pa 64)
      let cnt := bits o 63 0
      bits o 255 64 = 0 → cnt ≠ 0 → (cnt = 1 → bits o 257 256 = 0 ∧ bits o 461 460 = 0) →
        ∃ u, exec (.join d a) s = .next (retire u .access) ∧ SameRegs u.th (written s.th.a d (BitVec.ofNat 64 (cnt - 1)) 0) ∧
          cellsRead u.mem.cells pa 8 = leBytes 8 (cnt - 1) ∧ OnlyAt u s pa 8 ∧
          (1 < cnt → (clWork u (clusterOf s.th.core)).deque = (clWork s (clusterOf s.th.core)).deque) ∧
          (cnt = 1 → ∃ r, (clWork u (clusterOf s.th.core)).deque = r :: (clWork s (clusterOf s.th.core)).deque ∧
            r.code.toNat = bits o 319 256 ∧ r.frame.toNat = bits o 383 320 ∧ r.join.toNat = bits o 447 384 ∧ r.index = bits o 511 464 ∧
            r.lnum = s.th.lnum ∧ r.origin = s.th.origin ++ [s.th.seq])) ∧
  (∀ s : State, Between s → wantsSlot (ready s) (clusterOf s.th.core) = false → exec .yield s = .next (retire (ready s) .single)) ∧
  (∀ s : State, Between s → NoView s → NoReplay s → s.th.chunk.dirty = [] → s.th.a.level = 0 → s.th.crew = none →
    (∀ p ∈ s.coh.posted, p.uid ≠ s.th.uid) → (∀ e ∈ s.eng.cc, ∀ g ∈ e.2.tags, g.uid ≠ s.th.uid) →
    ∃ t, exec .exit s = .next t ∧ t.th = { Thread.vacant with core := s.th.core, slot := s.th.slot } ∧ t.rest = s.rest ∧ t.mem = s.mem ∧
      t.coh.watches = s.coh.watches.filter (fun w => w.uid ≠ s.th.uid) ∧ t.coh.waiters = s.coh.waiters.filter (fun w => w.uid ≠ s.th.uid) ∧
      t.wk = s.wk ∧ Event.launchCompletion s.th.lnum ∈ t.agenda ∧
      t.rep.log = s.rep.log ++ [{ part := s.th.part, identity := s.th.origin, seq := s.th.seq, stamp := lcOf s s.th.core + 1,
                                  core := s.th.core, values := s.th.chunk.logged.reverse }])

/-- R350: an arrival counts in the group's phase and delivers its rank; the last one completes the phase. `bar` goes on when the phase is
complete, and else waits with its arrival made; `bar.wait` goes on when the phase of the last arrival is complete, and else waits.
R207, R351: the last member of a group to convene on its crew's cluster completes the crew and gets its member number; `disband` takes the
thread out of its crew; a group of more than four is misuse 0x03, and `disband` without a crew misuse 0x07. -/
def Obligations.BarriersAndCrews : Prop :=
  (∀ (s : State) (d : Dest) (k : Fin 4) (g : Nat) (gr : Group), Between s → NoView s → NoReplay s → Quiet s → Writable s.th d → HasGroup s k g →
    GroupIs s g gr →
    let rank : Word := BitVec.ofNat 64 gr.arrived
    let last := gr.size ≤ gr.arrived + 1
    let counted := if last then { gr with phase := gr.phase + 1, arrived := 0 } else { gr with arrived := gr.arrived + 1 }
    let arrives (u : State) : Prop := GroupIs u g counted ∧ u.th.arrivals = Assoc.set s.th.arrivals k.val gr.phase ∧ u.mem = s.mem
    let past := ∀ p, Assoc.get s.th.arrivals k.val = some p → p < gr.phase
    (past →
      (∃ u, exec (.barArrive d k) s = .next (retire u .single) ∧ arrives u ∧ SameRegs u.th (written s.th.a d rank 0)) ∧
      (s.th.answered = none → last → ∃ u, exec (.bar d k) s = .next (retire u .single) ∧ arrives u ∧ SameRegs u.th (written s.th.a d rank 0)) ∧
      (s.th.answered = none → ¬ last → ∃ t, exec (.bar d k) s = .next t ∧ arrives t ∧ SameRegs t.th s.th.a ∧
        t.th.status = .waiting (.barrier s.th.lnum g gr.phase) ∧ t.th.answered = some rank) ∧
      (∀ r, s.th.answered = some r → exec (.bar d k) s = .next (retire (loggedPush s d r) .single)) ∧
      ((Assoc.get s.th.arrivals k.val).isSome = true → exec (.barWait k) s = .next (retire (ready s) .single))) ∧
    (∀ p, Assoc.get s.th.arrivals k.val = some p → gr.phase ≤ p → ∃ t, exec (.barWait k) s = .next t ∧ SameRegs t.th s.th.a ∧ t.mem = s.mem ∧
      t.th.status = .waiting (.barrier s.th.lnum g p))) ∧
  (∀ (s : State) (d : Dest) (k : Fin 4) (g : Nat) (gr : Group), Between s → NoView s → Writable s.th d → HasGroup s k g → GroupIs s g gr →
    let m := bits s.th.a.grpslots.toNat (16 * k.val + 9) (16 * k.val + 8)
    (gr.size ≤ 4 → s.th.crew = none → ∀ c, convening s s.th.lnum g = some c → c.cl = clusterOf s.th.core → c.size ≤ c.members.length + 1 →
      ∃ u, exec (.convene d k) s = .next (retire u .single) ∧ u.th.a = written s.th.a d (BitVec.ofNat 64 m) 0 ∧
        u.th.crew = some (c.cl, c.entry, m) ∧ u.mem = s.mem ∧
        crewAt u c.cl c.entry = some { c with members := c.members ++ [(m, s.th.uid)], convened := true }) ∧
    (4 < gr.size → Misuses (.convene d k) s 0x03 (BitVec.ofNat 64 k.val)) ∧
    (∀ c mem, s.th.crew = some (c.cl, c.entry, mem) → crewAt s c.cl c.entry = some c → c.grp = g → c.lnum = s.th.lnum →
      ∃ u, exec (.disband k) s = .next (retire u .single) ∧ u.th = { (ready s).th with crew := none } ∧ u.mem = s.mem) ∧
    (s.th.crew = none → Misuses (.disband k) s 0x07 (BitVec.ofNat 64 k.val)))

/-! ### Messages -/

namespace Sys2Proof.Claims

/-- The 16-byte pieces of a payload at an address stand at PAs, their granules present (R63, R353). -/
def PayloadAt (s : State) (va : Word) (pas : List Nat) : Prop :=
  payloadOk s s.th va (16 * pas.length) = true ∧
    ∀ j, j < pas.length → ∃ p, scratchAt s (clusterOf s.th.core) (ctxOf s.th) ((va + BitVec.ofNat 64 (16 * j)).toNat - 0x1fe000000000000) = .ok p ∧
      pas[j]? = some (localPa s p)

end Sys2Proof.Claims

/-- R352-R354: a send to a mailbox that has room, or to another device whose route is live, injects its payload into the network, whole, with
the sender and the release; no register and no byte of memory changes. A name that is not well formed is misuse 0x0e, a payload out of
place misuse 0x10, a full mailbox a wait. -/
def Obligations.Sends : Prop :=
  ∀ (i : Instr) (s : State) (a b : Opnd) (n : Nat) (rel : Bool) (pas : List Nat), sendOf i = some (a, b, n, rel) → Between s → NoView s → Quiet s →
    Fits s [a, b] .drop →
    let name := opnd s a
    (nameOk s s.th name = true → pas.length = n → PayloadAt s (opnd s b) pas → (∀ p ∈ pas, s.mem.poisoned.contains (lineOf p) = false) →
      (sendReady s s.th name = none → NoReplay s → (∀ e ∈ s.rep.skips, e.part ≠ s.th.part) →
        ∃ u, exec i s = .next (retire u .single) ∧ u.mem = s.mem ∧ SameRegs u.th s.th.a ∧
          (∃ m, u.coh.net = s.coh.net ++ [m] ∧ Event.messageArrival 0 ∈ u.agenda ∧ m.dev = nameDev name ∧
            m.core = (if nameDev name = ownDev s then mailCore s name else name.bits 26 16) ∧ m.box = nameBox name ∧ m.data = pas.flatMap (fun p => cellsRead s.mem.cells p 16) ∧ m.rel = rel ∧
            m.src = s.th.core ∧ m.stamp = lcOf s s.th.core + 1)) ∧
      (∀ w, sendReady s s.th name = some w → exec i s = .next (waitAt (ready s) w))) ∧
    (nameOk s s.th name = false → Misuses i s 0x0e name) ∧
    (nameOk s s.th name = true → payloadOk s s.th (opnd s b) (16 * n) = false → Misuses i s 0x10 (opnd s b))

/-- R105, R355: `recv` takes the oldest message of the lowest mailbox that its mask names and has one, writes its 48 bytes to its area, and
delivers the sender, the length and the box; with none it waits. `mbpeek` delivers the mailboxes that have one. An empty mask is misuse 0x0f. -/
def Obligations.Receives : Prop :=
  ∀ (s : State) (d : Dest) (a b : Opnd) (p0 p1 p2 : Nat), NoReplay s →
    let mask := (opnd s a).toNat % 2 ^ 16
    let c := ccOf s s.th.core (ctxOf s.th)
    (Between s → NoView s → Fits s [a, b] d → mask ≠ 0 → PayloadAt s (opnd s b) [p0, p1, p2] →
      (∀ p ∈ [p0, p1, p2], s.mem.poisoned.contains (lineOf p) = false) →
      (∀ m box, box < 16 → bitAt mask box = true → (∀ j, j < box → bitAt mask j = true → ∀ x ∈ c.boxes, x.box ≠ j) →
        c.boxes.find? (fun x => x.box = box) = some m → m.rel = false →
        ∃ u, exec (.recv d a b) s = .next (retire u .access) ∧ (ccOf u s.th.core (ctxOf s.th)).boxes = c.boxes.erase m ∧
          u.th.a = written s.th.a d (BitVec.ofNat 64 (m.dev * 2 ^ 42 + m.core * 2 ^ 31 + (m.data.length / 16 - 1) * 2 ^ 4 + m.box)) 0 ∧
          m.stamp < lcOf u s.th.core ∧
          u.mem.cells = cellsWriteMask (cellsWriteMask (cellsWriteMask s.mem.cells p0 (((m.data ++ List.replicate 16 0).take 16).map some))
            p1 ((((m.data.drop 16) ++ List.replicate 16 0).take 16).map some)) p2 ((((m.data.drop 32) ++ List.replicate 16 0).take 16).map some)) ∧
      ((∀ x ∈ c.boxes, bitAt mask x.box = false) → ∃ t, exec (.recv d a b) s = .next t ∧ t.th.status = .waiting (.recv mask) ∧
        SameRegs t.th s.th.a ∧ t.mem = s.mem)) ∧
    (Between s → NoView s → Fits s [a, b] d → mask = 0 → Misuses (.recv d a b) s 0x0f (opnd s a)) ∧
    (Fits s [a] d → mask = 0 → Misuses (.mbpeek d a) s 0x0f (opnd s a)) ∧
    (Fits s [a] d → ChunkGoesOn s → mask ≠ 0 → ∃ v, (∀ j, v.getLsbD j = (decide (j < 16) && bitAt mask j && c.boxes.any (fun x => x.box = j))) ∧
      PassesAs (.mbpeek d a) s { s.th with chunk := { s.th.chunk with logged := v :: s.th.chunk.logged } } (written s.th.a d v 0) (following s.th))

/-! ### Recipes -/

/-- R259, R260, R356-R358: `rcp.def` records words that pass and goes on after them; `rcp.tag` binds a declared soft register to a recorded
recipe; `rcp.clr` removes one binding, or all; `rcp.drop` changes nothing. A register that is not soft, or a recipe not recorded, is an illegal
instruction, subcause 8.
R260: a recipe holds an integer instruction whose result goes to the queue alone, whose queue operands name results inside it, and whose
named registers are declared and not soft; no division. -/
def Obligations.Recipes : Prop :=
  (∀ (s : State) (n : Fin 4) (idx : Fin 128) (k : Fin 44) (ws : List Nat), ChunkGoesOn s →
    (recordWords (n.val + 1) (following s.th) s = .ok ws s →
      (recipeOf s idx.val = none → exec (.rcpDef n idx) s = .next (retire
        (setRecipe s { idx := idx.val, addr := (following s.th).toNat, words := ws }) (.jump (following s.th + BitVec.ofNat 64 (4 * ws.length))))) ∧
      (recipeOf s idx.val = some { idx := idx.val, addr := (following s.th).toNat, words := ws } →
        Passes (.rcpDef n idx) s s.th.a (following s.th + BitVec.ofNat 64 (4 * ws.length)))) ∧
    (isSoft s.th k.val = true →
      (recipeOf s idx.val ≠ none → Passes (.rcpTag idx (.n k)) s { s.th.a with binds := Assoc.set s.th.a.binds k.val idx.val } (following s.th)) ∧
      (recipeOf s idx.val = none → exec (.rcpTag idx (.n k)) s = .next (raise s (trapOf s 0x05 8 0 0 0))) ∧
      Passes (.rcpDrop (.n k)) s s.th.a (following s.th) ∧
      Passes (.rcpClr (.n k)) s { s.th.a with binds := Assoc.erase s.th.a.binds k.val } (following s.th)) ∧
    Passes (.rcpClr .z) s { s.th.a with binds := [] } (following s.th) ∧
    (∀ r : Opnd, (∀ m : Fin 44, r = .n m → isSoft s.th m.val = false) →
      exec (.rcpTag idx r) s = .next (raise s (trapOf s 0x05 8 0 0 0)) ∧ exec (.rcpDrop r) s = .next (raise s (trapOf s 0x05 8 0 0 0)) ∧
      (r ≠ .z → exec (.rcpClr r) s = .next (raise s (trapOf s 0x05 8 0 0 0))))) ∧
  (∀ (s : State) (pos w : Nat) (i : Instr) (os : List Opnd) (x : Dest × Word × Nat), intOf i s = some (os, x) →
    (recipeOk s.th pos w i = true ↔ (∀ d a b, i ≠ .divS d a b ∧ i ≠ .divZ d a b ∧ i ≠ .remS d a b ∧ i ≠ .remZ d a b) ∧ bits w 21 16 = 0 ∧
      (∀ m : Fin 16, Opnd.q m ∈ os → m.val < pos) ∧ ∀ k : Fin 44, Opnd.n k ∈ os → k.val < s.th.nreg ∧ isSoft s.th k.val = false))

/-! ### Engines as threads use them -/

/-- R129, R156, R180, R377, R380: `push` of a command word in the own window reads it once and allocates a free tag, which it holds from then on;
with FIFO room it enters the command with that tag in its tag field, and delivers the tag; without, it waits with the tag held, and enters the
command that it has read with that tag once there is room. Without a free tag it waits for one. `push.defer` outside a view is the same. -/
def Obligations.Pushes : Prop :=
  ∀ (i : Instr) (s w : State) (d : Dest) (a : Opnd) (cw : Nat), i = .push d a ∨ i = .pushDefer d a → Between s → NoView s → Fits s [a] d →
    let first := s.th.command = none ∧ Quiet s ∧ (opnd s a).toNat % 32 = 0 ∧ ∃ pa, OwnWindow s (opnd s a) pa ∧
      cw = leNat ((List.range 32).map (fun j => winByte s (pa + j))) ∧
      w = { s with th := { s.th with kept := [], chunk := marked s (lineOf pa) (touched s (opnd s a)), cmd := some (s.th.a.pc, cw) } }
    let again := s.th.command = some cw ∧ w = ready s
    first ∨ again →
    let room := (s.eng.fifo.filter (fun c => c.core = s.th.core)).length < 16
    let entered (u : State) (t : Nat) : Prop := exec i s = .next (retire u .single) ∧ u.mem = s.mem ∧ u.th.cmd = none ∧
      u.th.a = written s.th.a d (BitVec.ofNat 64 t) 0 ∧ ∃ c, u.eng.fifo = s.eng.fifo ++ [c] ∧ c.word = putBits cw 247 242 t ∧
        c.core = s.th.core ∧ c.uid = s.th.uid ∧ c.pc = s.th.a.pc ∧ c.ctx = ctxOf s.th ∧ c.user = !s.th.a.sup ∧ c.finished = false ∧
        startEvent c.cl c.core c.word false ∈ u.agenda
    let held (u : State) (t : Nat) : Prop := u.th.tagCount = s.th.tagCount + 1 ∧
      ∃ g, tagSt u t = some g ∧ g.uid = s.th.uid ∧ g.op = bits cw 255 248 ∧ g.done = false
    (s.th.answered = none →
      (TagFree s → ∃ u t, t < 64 ∧ tagSt s t = none ∧ held u t ∧ (room → entered u t) ∧
        (¬ room → exec i s = .next (waitAt u (.fifo s.th.core)) ∧ u.th.answered = some (BitVec.ofNat 64 t) ∧ u.th.command = some cw ∧
          u.th.a = s.th.a ∧ u.eng.fifo = s.eng.fifo ∧ u.mem = s.mem)) ∧
      (¬ TagFree s → exec i s = .next (waitAt w .freeTag))) ∧
    (∀ t : Word, t.toNat < 64 → s.th.answered = some t →
      (room → ∃ u, entered u t.toNat ∧ u.th.tagCount = s.th.tagCount) ∧ (¬ room → exec i s = .next (waitAt w (.fifo s.th.core))))

/-- R105, R180, R378, R379, R438: `pop` takes the oldest element of its tag; `waitt` passes in its chunk on a set bit without a fault, where it was
seen recorded, and waits between chunks on a clear one; `tagff` delivers the first set bit of its mask, or 64; `tagclr` frees a done tag; a tag that is not held is misuse. -/
def Obligations.Tags : Prop :=
  ∀ (s : State) (d : Dest) (a : Opnd) (g : TagSt), NoReplay s →
    let t := (opnd s a).toNat % 64
    let c := ccOf s s.th.core (ctxOf s.th)
    let clk := max (lcOf s s.th.core) (clockOf s (engineClock (clusterOf s.th.core)))
    (tagSt s t = some g →
      (Between s → NoView s → Fits s [a] d → ∀ v, c.elems.find? (fun e => e.1 = t) = some (t, v) →
        ∃ u, exec (.pop d a) s = .next (retire u .single) ∧ u.th.a = written s.th.a d v 0 ∧ lcOf u s.th.core = clk ∧ u.mem = s.mem ∧
          (ccOf u s.th.core (ctxOf s.th)).elems = c.elems.erase (t, v) ∧ tagSt u t = some { g with popped := g.popped + 1 }) ∧
      (Fits s [a] .drop → g.fault = none → bitAt c.tagmap.toNat t = true →
        ∃ u, exec (.waitt a) s = .next (retire u (if s.th.boundary then .single else .seq)) ∧ lcOf u s.th.core = clk ∧ u.mem = s.mem ∧
          u.th = { (ready s).th with chunk := { s.th.chunk with logged := (if s.th.boundary then 2 else 1) :: s.th.chunk.logged } }) ∧
      (Fits s [a] .drop → bitAt c.tagmap.toNat t = false → Between s → exec (.waitt a) s = .next (waitAt (ready s) (.tag t))) ∧
      (Between s → NoView s → Fits s [a] .drop → g.fault = none → bitAt c.tagmap.toNat t = true → g.uid = s.th.uid →
        ∃ u, exec (.tagclr a) s = .next (retire u .single) ∧ tagSt u t = none ∧ u.th.tagCount = s.th.tagCount - 1 ∧ u.th.a = s.th.a ∧
          bitAt (ccOf u s.th.core (ctxOf s.th)).tagmap.toNat t = false ∧ u.mem = s.mem ∧ ∀ t', t' ≠ t → tagSt u t' = tagSt s t') ∧
      (Between s → NoView s → Fits s [a] .drop → bitAt c.tagmap.toNat t = false → Misuses (.tagclr a) s 0x1a (opnd s a))) ∧
    (tagSt s t = none → Fits s [a] .drop → Misuses (.waitt a) s 0x19 (opnd s a) ∧ (Between s → NoView s → Misuses (.tagclr a) s 0x19 (opnd s a))) ∧
    (Fits s [a] d → ∃ u v, exec (.tagff d a) s = .next (retire u .seq) ∧
      u.th = { s.th with kept := [], a := written s.th.a d v 0, chunk := { s.th.chunk with logged := v :: s.th.chunk.logged } } ∧
      (v.toNat < 64 ∧ (opnd s a &&& c.tagmap).getLsbD v.toNat = true ∧ (∀ j, j < v.toNat → (opnd s a &&& c.tagmap).getLsbD j = false) ∨
        v = 64 ∧ opnd s a &&& c.tagmap = 0))

/-- R163, R381: `lrec` of 96 bytes in the own window writes the cluster's layout record that operand b names.
R380, R383: `ovld` of frames that its mode may load takes a free tag and drops the residency of its frames; with FIFO room it enters its load
and delivers the tag, without it waits with the tag held. A frame below PINF in user mode is an illegal instruction, subcause 5; an operand
outside the frames is misuse 0x1e, a source out of alignment the alignment fault.
R178, R180, R183, R382: `sub.mc` takes a tag and a free match-table entry, asks for the join and waits; once its join is acknowledged it
delivers the tag; with a full table it delivers a tag whose fault is the match table's. `unsub` frees the entry, leaves the tree and sets
the tag's bit, once no delivery is under way. That a misaligned overlay source, of 1 KiB, reports LSIZE 5 is the model's choice
(notes/assumptions/10.md). -/
def Obligations.LayoutsAndSubscriptions : Prop :=
  (∀ (s : State) (a b : Opnd) (pas : List Nat), Between s → NoView s → Fits s [a, b] .drop → (opnd s a).toNat % 8 = 0 → pas.length = 12 →
    (∀ j, j < 12 → ∃ pa, pas[j]? = some pa ∧ OwnWindow s (opnd s a + BitVec.ofNat 64 (8 * j)) pa) →
      ∃ u, exec (.lrec a b) s = .next (retire u .access) ∧ u.th.a = s.th.a ∧ u.mem = s.mem ∧
        u.eng.layouts = { cl := clusterOf s.th.core, idx := (opnd s b).toNat % 128, ctx := ctxOf s.th,
                          word := leNat (pas.flatMap (fun pa => (List.range 8).map (fun j => winByte s (pa + j)))) } ::
          s.eng.layouts.filter (fun x => !(x.cl == clusterOf s.th.core && x.idx == (opnd s b).toNat % 128))) ∧
  (∀ (s : State) (d : Dest) (a b : Opnd), Between s → NoView s → Fits s [a, b] d →
    let f := (opnd s b).toNat % 128
    let n := (opnd s b).toNat / 256 % 128
    let room := (s.eng.fifo.filter (fun c => c.core = s.th.core)).length < 16
    let other := s.mem.frames.filter (fun x => !(x.core == s.th.core && decide (f ≤ x.frame) && decide (x.frame < f + n)))
    let without : MemSt := { s.mem with frames := other }
    let entered (u : State) (t : Nat) : Prop := exec (.ovld d a b) s = .next (retire u .single) ∧
      u.th.a = written s.th.a d (BitVec.ofNat 64 t) 0 ∧
      ∃ c, u.eng.fifo = s.eng.fifo ++ [c] ∧ c.ovld = true ∧ c.word = ovldWord t f n (opnd s a) ∧ Event.ovldCommand c.cl c.core ∈ u.agenda
    ((opnd s a).toNat % 1024 = 0 → (opnd s b).toNat = n * 256 + f → n ≠ 0 → f + n ≤ 96 →
      (s.th.a.sup = true ∨ Assoc.getD s.mem.pinf s.th.core 0 ≤ f →
        (s.th.answered = none → TagFree s → ∃ u t, t < 64 ∧ tagSt s t = none ∧ (∃ g, tagSt u t = some g ∧ g.uid = s.th.uid ∧ g.done = false) ∧
          u.mem = without ∧ (room → entered u t) ∧
          (¬ room → exec (.ovld d a b) s = .next (waitAt u (.fifo s.th.core)) ∧ u.th.answered = some (BitVec.ofNat 64 t) ∧
            u.eng.fifo = s.eng.fifo)) ∧
        (s.th.answered = none → ¬ TagFree s → exec (.ovld d a b) s = .next (waitAt (ready s) .freeTag)) ∧
        (∀ t : Word, t.toNat < 64 → s.th.answered = some t → room → ∃ u, entered u t.toNat ∧ u.mem = s.mem)) ∧
      (s.th.a.sup = false → f < Assoc.getD s.mem.pinf s.th.core 0 → Raises (.ovld d a b) s 0x05 5 0 0 0)) ∧
    ((opnd s a).toNat % 1024 = 0 → (opnd s b).toNat ≠ n * 256 + f ∨ n = 0 ∨ 96 < f + n → Misuses (.ovld d a b) s 0x1e (opnd s b)) ∧
    ((opnd s a).toNat % 1024 ≠ 0 → Raises (.ovld d a b) s 0x06 1 (opnd s a) (accDesc .exec 5 0) 0)) ∧
  (∀ (s : State) (d : Dest) (a b : Opnd) (t : Word) (x : Sub), Between s → NoView s →
    (Fits s [a, b] d → (opnd s a).toNat < 2 ^ 32 → s.th.answered = none → TagFree s → (∃ e, e < 32 ∧ subAt s (clusterOf s.th.core) e = none) →
      ∃ u e x', exec (.subMc d a b) s = .next u ∧ u.th.status = .waiting (.subJoin e) ∧ e < 32 ∧ subAt s (clusterOf s.th.core) e = none ∧
        subAt u (clusterOf s.th.core) e = some x' ∧ x'.mtag = (opnd s a).toNat ∧ x'.core = s.th.core ∧ x'.joined = false ∧
        u.th.answered = some (BitVec.ofNat 64 x'.tag) ∧ Event.multicastJoin (clusterOf s.th.core) e ∈ u.agenda ∧ u.mem = s.mem) ∧
    (Fits s [a, b] d → (opnd s a).toNat < 2 ^ 32 → s.th.answered = some t →
      s.eng.subs.find? (fun e => e.cl = clusterOf s.th.core ∧ e.core = s.th.core ∧ e.ctx = ctxOf s.th ∧ e.tag = t.toNat) = some x →
      x.joined = true → exec (.subMc d a b) s = .next (retire (pushResult (ready s) d t 0) .single)) ∧
    (Fits s [a, b] d → (opnd s a).toNat < 2 ^ 32 → s.th.answered = none → TagFree s → (∀ e, e < 32 → subAt s (clusterOf s.th.core) e ≠ none) →
      s.th.status ≠ .vacant →
      ∃ u n g f, exec (.subMc d a b) s = .next (retire u .single) ∧ n < 64 ∧ tagSt s n = none ∧ u.th.a = written s.th.a d (BitVec.ofNat 64 n) 0 ∧
        tagSt u n = some g ∧ g.fault = some f ∧ f.1.cause = 0x0e ∧ f.1.sub = 0x10 ∧ g.done = true ∧ g.faultDelivered = false ∧
        u.eng.subs = s.eng.subs ∧ u.mem = s.mem) ∧
    (∀ g, Fits s [a] .drop → tagSt s ((opnd s a).toNat % 64) = some g → g.op = 0x10 →
      s.eng.subs.find? (fun e => e.core = s.th.core ∧ e.ctx = ctxOf s.th ∧ e.tag = (opnd s a).toNat % 64) = some x →
      (∀ m ∈ s.eng.mcasts, m.id ≠ x.id ∨ m.pos = 0) →
      ∃ u, exec (.unsub a) s = .next (retire u .single) ∧ subAt u x.cl x.entry = none ∧ Event.multicastLeave x.cl x.mtag ∈ u.agenda ∧
        bitAt (ccOf u s.th.core (ctxOf s.th)).tagmap.toNat ((opnd s a).toNat % 64) = true ∧ u.th = (ready s).th ∧ u.mem = s.mem))

/-! ### Rings and tiles -/

namespace Sys2Proof.Claims

/-- A ring of the front thread's context on its cluster (R360). -/
def HasRing (s : State) (g : Fin 16) (r : Ring) : Prop :=
  ringAt s (clusterOf s.th.core) (ctxOf s.th) g.val = some r ∧ r.cl = clusterOf s.th.core ∧ r.ctx = ctxOf s.th ∧ r.g = g.val

/-- A state that names a tile: it is present, and nothing but the naming count differs (R372). -/
def named (s : State) (cl e acc : Nat) : State :=
  setTile { ready s with eng := { s.eng with namings := s.eng.namings + 1 } }
    { tileAt s cl e acc with present := true, named := s.eng.namings + 1 }

/-- Element p of the tile of a ring entry, in a format (R362). -/
def entryElem (e : EntryData) (fm : FFmt) (p : Nat) : Word :=
  BitVec.ofNat 64 (leNat ((e.tile.drop (p * (widthOf fm / 8))).take (widthOf fm / 8)))

/-- The same with the scale of its block of g elements (R226, R239, R241). -/
def entryVal (e : EntryData) (fm : FFmt) (g p : Nat) : Val :=
  let s := (e.side.getD (p / g) 0).toNat
  if s = 255 then .nan false
  else match fval fm (entryElem e fm p) with
    | .num n x => .num n (x * (2 : ℚ) ^ ((s : ℤ) - 127))
    | y => y

/-- The exact sum of a K-block of products (R239, R241): NaN where one is NaN or 0 × ∞ or where infinities of both signs meet. That a zero sum
is +0 is the model's reading (notes/assumptions/29.md). -/
def blockOf (ps : List (Option Val)) : Val :=
  let inf (n : Bool) : Bool := ps.any (fun p => match p with
    | some (.inf m) => m == n
    | _ => false)
  let sum : ℚ := (ps.map (fun p => match p with
    | some (.num _ x) => x
    | _ => 0)).sum
  if ps.any (fun p => match p with
    | none => true
    | some p => p.isNan) || (inf true && inf false) then .nan false
  else if inf true then .inf true else if inf false then .inf false else .num (decide (sum < 0)) sum

/-- One accumulator element through an `mma` (R239, R240, R370): by K-blocks of `g` for the narrow formats, else by one fused step for each k. -/
def Accumulated (m : Mma) (a b : EntryData) (i j : Nat) (old new : Word) : Prop :=
  ∃ c : Nat → Word, c 0 = old ∧
    match m.fa with
    | .ieee .d => c 16 = new ∧ ∀ k, k < 16 → ∃ fl, Fuses (.ieee .d) m.rm .sat false false (fval (.ieee .d) (entryElem a (.ieee .d) (i * 16 + k)))
        (fval (.ieee .d) (entryElem b (.ieee .d) (j * 16 + k))) (fval (.ieee .d) (c k)) { v := c (k + 1), fl := fl }
    | .ieee .f => c 16 = new ∧ ∀ k, k < 16 → ∃ fl, Fuses (.ieee .f) .rne .sat false false (fval (.ieee .f) (entryElem a (.ieee .f) (i * 16 + k)))
        (fval (.ieee .f) (entryElem b (.ieee .f) (j * 16 + k))) (fval (.ieee .f) (c k)) { v := c (k + 1), fl := fl }
    | fa =>
      let depth := if widthOf fa = 8 then 64 else 32
      let g := if widthOf fa = 8 then 32 else 16
      c 2 = new ∧ ∀ q, q < 2 → ∃ fl, Adds (.ieee .f) .rne .sat (fval (.ieee .f) (c q))
        (blockOf ((List.range g).map (fun k => product (entryVal a fa g (i * depth + q * g + k)) (entryVal b m.fb g (j * depth + q * g + k)))))
        { v := c (q + 1), fl := fl }

/-- An element stored from a tile (R242, R375): its code, whether it counts as clamped and whether it counts as overflowed. -/
def Stored (src dst : FFmt) (rm : Rm) (ov : Ovf) (c v : Word) (sat ovf : Bool) : Prop :=
  let x := fval src c
  (∃ u, Converts dst rm ov x u ∧
    match dst, ov, x, fval dst u.v with
    | .ieee _, .sat, .num n _, .inf _ => Holds dst v (topVal dst n)
    | _, _, _, _ => v = u.v) ∧
  (sat = true ↔ ov = .sat ∧ match x with
    | .num _ y => ∃ r : ℚ, RoundsTo dst rm (y : ℝ) r ∧ (topOf dst < |r| ∨ (unsignedFmt dst = true ∧ r < 0))
    | .inf _ => ∃ n y, fval dst v = .num n y
    | .nan _ => False) ∧
  (ovf = true ↔ ov = .ovf ∧ (∃ n y, x = .num n y) ∧ ¬ ∃ n y, fval dst v = .num n y)

end Sys2Proof.Claims

/-- R360, R363-R366: `ringcfg` makes an empty ring of its entries; `rpush.res` reserves the next entry and delivers the offsets of its tile and its
sidecar; `rpush.fill` fills a reserved entry; `rpop` frees the head; a full or an empty ring is waited for, and one never configured is misuse
0x13.
R368-R371, R399: an `mma` of the issuer whose heads are filled and present, on a free unit, starts with what the heads hold, names its tile
and waits for its retirement; with a head not filled it waits; the same ring twice is misuse 0x12, a tile of another format misuse 0x17. -/
def Obligations.Rings : Prop :=
  (∀ (s : State) (d : Dest) (a : Opnd) (g : Fin 16), Between s → NoView s →
    (∀ al, Fits s [a] .drop → allocOf s (clusterOf s.th.core) (ctxOf s.th) = some al →
      let v := (opnd s a).toNat
      let base := v % 2 ^ 21
      let n := v / 2 ^ 32
      v = n * 2 ^ 32 + base → 2 ≤ n → n ≤ 64 → base % 4096 = 0 → base + n * 4224 ≤ al.size * 0x4000 →
      ringAt s (clusterOf s.th.core) (ctxOf s.th) g.val = none → ringNamed s (clusterOf s.th.core) (ctxOf s.th) g.val = false →
      exec (.ringcfg a g) s = .next (retire (setRing (ready s)
        { cl := clusterOf s.th.core, ctx := ctxOf s.th, g := g.val, base := base, count := n, head := 0, next := 0,
          ents := List.replicate n .free }) .single)) ∧
    (∀ r, HasRing s g r →
      (Writable s.th d → r.ents.getD r.next .reserved = .free → exec (.rpushRes d g) s = .next (retire (pushResult
        (setRing (ready s) { r with ents := r.ents.set r.next .reserved, next := (r.next + 1) % r.count }) d
        (BitVec.ofNat 64 (r.base + r.next * 4096 + (r.base + r.count * 4096 + r.next * 128) * 2 ^ 32)) 0) .single)) ∧
      (Writable s.th d → r.ents.getD r.next .reserved ≠ .free → exec (.rpushRes d g) s = .next (waitAt (ready s) (.ring g.val))) ∧
      (∀ e, Fits s [a] .drop → e < r.count → r.ents.getD e .free = .reserved → r.base + e * 4096 = (opnd s a).toNat % 2 ^ 32 →
        exec (.rpushFill a g) s = .next (retire (setRing (ready s) { r with ents := r.ents.set e .filled }) .single)) ∧
      (r.ents.getD r.head .free = .filled → s.eng.mma = [] → exec (.rpop g) s = .next (retire
        (setRing (ready s) { r with ents := r.ents.set r.head .free, head := (r.head + 1) % r.count }) .single)) ∧
      (r.ents.getD r.head .free ≠ .filled → exec (.rpop g) s = .next (waitAt (ready s) (.ring g.val)))) ∧
    (ringAt s (clusterOf s.th.core) (ctxOf s.th) g.val = none →
      Misuses (.rpop g) s 0x13 (BitVec.ofNat 64 g.val) ∧ (Writable s.th d → Misuses (.rpushRes d g) s 0x13 (BitVec.ofNat 64 g.val)))) ∧
  (∀ (i : Instr) (s : State) (ra rb : Fin 16) (acc : Fin 8) (fa fb : FFmt) (rm : Rm) (ka kb : Bool) (a b : Ring) (cl e : Nat) (c : Crew),
    mmaOf i = some (ra, rb, acc, fa, fb, rm, ka, kb) → Between s → NoView s → Issuer s cl e c →
    (ra = rb → Misuses i s 0x12 (BitVec.ofNat 64 ra.val)) ∧
    (ra ≠ rb → HasRing s ra a → HasRing s rb b →
      ((tileAt s cl e acc.val).fmt ≠ (match fa with | .ieee .d => .d | _ => .f) → Misuses i s 0x17 (BitVec.ofNat 64 acc.val)) ∧
      ((tileAt s cl e acc.val).fmt = (match fa with | .ieee .d => .d | _ => .f) →
        (ringReadable s a = true → ringReadable s b = true → entryPoisoned s a = false → entryPoisoned s b = false → s.eng.mma = [] → (tileAt s cl e acc.val).present = true →
          ∃ t, exec i s = .next t ∧ t.th.status = .waiting .mma ∧ t.th.a = s.th.a ∧ t.mem = s.mem ∧
            Event.mmaRetirement s.th.uid ∈ t.agenda ∧
            t.eng.mma = [{ uid := s.th.uid, cl := a.cl, ra := ra.val, rb := rb.val, acc := acc.val, fa := fa, fb := fb, rm := rm, ka := ka,
                           kb := kb, dataA := entryBytes s a, dataB := entryBytes s b }]) ∧
        (ringReadable s a = false → ∃ t, exec i s = .next t ∧ t.th.status = .waiting (.ring ra.val) ∧ t.th.a = s.th.a ∧ t.eng = s.eng))))

/-- R372-R376: `accz` clears a tile in its format; `accld` loads it from lines of the own window; `accst` stores it, each element rounded to the
target format, and counts what was clamped or overflowed; `mstat` delivers a counter or the format, and clears where it says so.
R239-R242, R370: what an `mma` makes of each element of a tile, and of its counters. R242, R375: what each element is stored as, and which count.
That an exact block sum of zero is +0 is the model's reading (notes/assumptions/29.md). -/
def Obligations.Tiles : Prop :=
  (∀ (t : Tile) (m : Mma) (a b : EntryData), m.rm ≠ .dyn → mmaClass m.fb = mmaClass m.fa → t.fmt = (match m.fa with | .ieee .d => .d | _ => .f) →
    let t' := mmaTile t m a b
    let n := if t.fmt = .d then 32 else 64
    let ff : FFmt := .ieee (accFF t.fmt)
    let cell (t : Tile) (p : Nat) : Word := BitVec.ofNat 64 (Assoc.getD t.data p 0)
    (∀ i j, i < n → j < n → Accumulated m a b i j (cell t (i * n + j)) (cell t' (i * n + j))) ∧
    t'.inv = min (t.inv + (List.range (n * n)).countP (fun p => (fval ff (cell t' p)).isNan && !(fval ff (cell t p)).isNan)) (2 ^ 32 - 1) ∧
    t'.ovf = min (t.ovf + (List.range (n * n)).countP (fun p => match fval ff (cell t' p), fval ff (cell t p) with
      | .inf _, .num _ _ => true
      | _, _ => false)) (2 ^ 32 - 1) ∧
    t' = { t with data := t'.data, inv := t'.inv, ovf := t'.ovf }) ∧
  (∀ (t : Tile) (dst : FFmt) (rm : Rm) (ov : Ovf), rm ≠ .dyn → ∃ (v : Nat → Word) (sat ovf : Nat → Bool),
    (∀ p, p < accCount t.fmt →
      Stored (.ieee (accFF t.fmt)) dst rm ov (BitVec.ofNat 64 (Assoc.getD t.data p 0)) (v p) (sat p) (ovf p)) ∧
    storeTile t dst rm ov = ((List.range (accCount t.fmt)).flatMap (fun p => leBytes (widthOf dst / 8) (v p).toNat),
      (List.range (accCount t.fmt)).countP sat, (List.range (accCount t.fmt)).countP ovf)) ∧
  ∀ (s : State) (d : Dest) (a : Opnd) (fm : AccFmt) (dst : FFmt) (rm : Rm) (acc : Fin 8) (q : Fin 7) (cl e : Nat) (c : Crew) (pas : List Nat),
    Between s → NoView s → Issuer s cl e c →
    let t := tileAt s cl e acc.val
    let t' := { t with present := true, named := s.eng.namings + 1 }
    (t.present = true → exec (.accz fm acc) s = .next (retire (setTile (named s cl e acc.val) { t' with fmt := fm, data := [] }) .single)) ∧
    (∀ i ov, i = .accst dst a acc rm ∧ ov = .sat ∨ i = .accstOvf dst a acc rm ∧ ov = .ovf →
      t.present = true → Fits s [a] .drop → accTarget t.fmt dst = true →
      (opnd s a).toNat % 64 = 0 → (∃ al off, areaOffset s (opnd s a) (accCount t.fmt * FFmt.bytes dst) = some off ∧
        allocOf s (clusterOf s.th.core) (ctxOf s.th) = some al ∧ off + accCount t.fmt * FFmt.bytes dst ≤ al.size * 0x4000 ∧
        linePas (accCount t.fmt * FFmt.bytes dst / 64) off (named s cl e acc.val) = .ok pas (named s cl e acc.val)) →
      ∃ u, exec i s = .next (retire u .access) ∧ u.th = (ready s).th ∧
        u.mem.cells = (pas.zipIdx).foldl (fun m x => cellsWriteMask m x.1
          (((((storeTile t dst rm ov).1.drop (64 * x.2)).take 64)).map some)) s.mem.cells ∧
        tileAt u cl e acc.val = { t' with sat := sat32 (t.sat + (storeTile t dst rm ov).2.1), ovf := sat32 (t.ovf + (storeTile t dst rm ov).2.2) }) ∧
    (t.present = true → Fits s [a] .drop → (opnd s a).toNat % 64 = 0 → (∃ al off, areaOffset s (opnd s a) (accCount fm * accWidth fm) = some off ∧
        allocOf s (clusterOf s.th.core) (ctxOf s.th) = some al ∧ off + accCount fm * accWidth fm ≤ al.size * 0x4000 ∧
        linePas (accCount fm * accWidth fm / 64) off (ready s) = .ok pas (ready s)) → (∀ p ∈ pas, s.mem.poisoned.contains (lineOf p) = false) →
      exec (.accld fm a acc) s = .next (retire (setTile (named s cl e acc.val) { t' with
        fmt := fm, data := tileData (accWidth fm) (pas.flatMap (fun p => cellsRead s.mem.cells p 64)) (accCount fm) 0 }) .single)) ∧
    (Writable s.th d → ∃ u, exec (.mstat d acc q) s = .next (retire u .single) ∧ u.mem = s.mem ∧
      u.th.a = written s.th.a d (BitVec.ofNat 64 (if q.val = 3 then (if t.fmt = .d then 1 else 2)
        else if q.val = 0 ∨ q.val = 4 then t.inv else if q.val = 1 ∨ q.val = 5 then t.ovf else t.sat)) 0 ∧
      tileAt u cl e acc.val = { t with inv := if q.val = 4 then 0 else t.inv, ovf := if q.val = 5 then 0 else t.ovf,
                                       sat := if q.val = 6 then 0 else t.sat, cl := cl, crew := e, acc := acc.val })

/-! ### Views -/

/-- R135, R138, R384, R399: `forkw` of 2 to 16 rivals suspends the parent and makes that many rivals, numbered from 0, each with the parent's
registers, its rival number delivered, and an innermost view of its own; other numbers are misuse 0x1f. -/
def Obligations.Forks : Prop :=
  ∀ (i : Instr) (s : State) (d : Dest) (a : Opnd) (defer : Bool), i = .forkw d a ∧ defer = false ∨ i = .forkwDefer d a ∧ defer = true →
    Between s → NoView s → Fits s [a] d →
    let n := (opnd s a).toNat
    (n < 2 ∨ 16 < n → heldForChoice s s.th.uid = none → Misuses i s 0x1f (opnd s a)) ∧
    (2 ≤ n → n ≤ 16 → n ≤ (freeViews s).length → (rivalBlocks s s.th.part n).isSome = true → Quiet s → NoReplay s →
      s.th.chunk.dirty = [] → heldForChoice s s.th.uid = none →
      ∃ t, exec i s = .next t ∧ t.th.status = .parent s.vw.nextFork ∧ t.th.a.pc = s.th.a.pc ∧ t.th.a.q = s.th.a.q ∧ t.th.a.n = s.th.a.n ∧
        t.mem = s.mem ∧ ∃ rs f, t.wk.saved = s.wk.saved ++ rs ∧ rs.length = n ∧ t.vw.forks = f :: s.vw.forks ∧ f.parent = s.th.uid ∧
          f.id = s.vw.nextFork ∧ f.rivals.length = n ∧ f.closed = false ∧
          ∀ k, k < n → ∃ r tag, rs[k]? = some r ∧ f.rivals[k]? = some (k, r.uid, tag, true) ∧ tag ∈ freeViews s ∧ r.chain = tag :: s.th.chain ∧
            r.fork = some s.vw.nextFork ∧ r.a.monitor = none ∧ r.world.bits 11 11 = defer.toNat ∧ r.world.bits 19 16 = k ∧
            r.a.q = (written s.th.a (destOfWord s.th.words) (BitVec.ofNat 64 k) 0).q ∧
            r.a.n = (written s.th.a (destOfWord s.th.words) (BitVec.ofNat 64 k) 0).n ∧ r.a.pc = following s.th)

/-- R153, R385, R399: a rival's `choose` of a living rival closes the fork, registers the choice and waits for its event, and passes once the event
has taken place; outside a view it is misuse 0x20. `wself` delivers WORLD with the count of deferred entries.
R154, R385: a rival that abandons while another of its fork lives is removed, and the fork goes on with the others. That a misused
`abandon` reports TINFO0 = 0 is the model's choice (notes/assumptions/10.md). -/
def Obligations.ChoosesAndAbandons : Prop :=
  (∀ (s : State) (d : Dest) (a : Opnd) (f : Fork) (k : Nat) (r : Nat × Nat),
    (Between s → Fits s [a] .drop → heldForChoice s s.th.uid = none → s.th.answered = none → s.th.chain ≠ [] → (opnd s a).toNat = k →
      k < s.th.world.bits 15 12 + 1 →
      s.th.fork.bind (forkAt s) = some f → f.closed = false → f.rival k = some r → f.parentChain = [] →
      ∃ t, exec (.choose a) s = .next t ∧ t.th.status = .waiting (.choice f.id) ∧ t.th.a = s.th.a ∧ Event.choiceEvent f.id ∈ t.agenda ∧
        t.mem = s.mem ∧ ∃ f', f' ∈ t.vw.forks ∧ f' = { f with closed := true, choice := some (s.th.uid, k) }) ∧
    (Between s → Fits s [a] .drop → heldForChoice s s.th.uid = none → s.th.answered.isSome = true →
      exec (.choose a) s = .next (retire (ready s) .single)) ∧
    (∀ id, Between s → Fits s [a] .drop → heldForChoice s s.th.uid = some id → exec (.choose a) s = .next (waitAt (ready s) (.choice id))) ∧
    (Between s → Fits s [a] .drop → heldForChoice s s.th.uid = none → s.th.answered = none → NoView s → Misuses (.choose a) s 0x20 (opnd s a)) ∧
    (Between s → heldForChoice s s.th.uid = none → NoView s → Misuses .abandon s 0x20 0) ∧
    (Writable s.th d → ChunkGoesOn s → Passes (.wself d) s (written s.th.a d (s.th.world.putBits 7 3 s.th.deferral.length) 2) (following s.th))) ∧
  (∀ (s : State) (f : Fork), Between s → s.th.chain ≠ [] → NoReplay s → s.th.chunk.dirty = [] → s.th.fork = some f.id →
    s.vw.forks = [f] → f.closed = false → (∀ t ∈ s.rest ++ s.wk.saved, t.uid ≠ s.th.uid) → heldForChoice s s.th.uid = none →
    (∃ r ∈ f.rivals, r.2.1 ≠ s.th.uid ∧ r.2.2.2 = true) →
      ∃ t f', exec .abandon s = .next t ∧ t.th.status = .vacant ∧ t.vw.forks = [f'] ∧ f'.closed = false ∧
        f'.rivals = f.rivals.map (fun r => if r.2.1 = s.th.uid then (r.1, r.2.1, r.2.2.1, false) else r))

/-! ### Steps of the other agents -/

namespace Sys2Proof.Claims

/-- A step taken from the agenda, about to be performed. -/
def due (s : State) (e : Event) : State := { s with now := some e }

/-- The state without it. -/
def done (s : State) : State := { s with now := none }

/-- No thread and no byte of memory differs. -/
def Still (t s : State) : Prop := t.th = s.th ∧ t.rest = s.rest ∧ t.mem = s.mem

/-- Every home that a front thread's chunk has asked has granted, but one (R111). -/
def LastGrant (s : State) (home : Nat) : Prop := ∀ h ∈ s.th.chunk.asked, h = home ∨ h ∈ s.th.chunk.granted

/-- No line is reserved for a commit request of a thread (R85). -/
def Unasked (s : State) (uid : Nat) : Prop := ∀ d ∈ s.coh.dir, ∀ i, d.busy ≠ some (.asks uid i)

/-- No line is reserved for a walk of a cluster (R85). -/
def Unwalked (s : State) (cl ctx va : Nat) : Prop := ∀ d ∈ s.coh.dir, ∀ h, d.busy = some h → Held.isWalk cl ctx va h = false

/-- No resident chunk on a core has touched a line (R109). -/
def Untouched (s : State) (core line : Nat) : Prop := ∀ t ∈ threads s, t.core = core → t.chunk.touches line = false

/-- A line that its home may write at once: stable, with room in its slice, free of requests, and held by no L1 (R85-R87). -/
def WritableLine (s : State) (line : Nat) : Prop := canHomeWrite s line = true ∧ lineHeld s line = false

/-- Sharers of which none is fenced, and fewer than broadcast (R83, R96). -/
def Sharers (s : State) (d : DirEnt) : Prop := d.st = .S ∧ d.bc = false ∧ d.ptrs ≠ [] ∧ ∀ cl ∈ d.ptrs, cl ∉ s.coh.fencedCl

/-- A line awaits the answer to a recall of its owner (R86). -/
def Recalled (d : DirEnt) : Prop := d.st = .RC ∧ d.ptrs = [] ∧ d.bc = false

/-- A message that its home drops because its cluster is fenced or has a new incarnation, and counts (R95, R97). -/
def Dropped (i : Instr) (s : State) (e : Event) (line : Nat) : Prop := exec i (due s e) = .next (ctlCount (done s) (slCounter line 8) 1)

end Sys2Proof.Claims

/-- R96-R98, R102, R111-R114, R116: the steps of a commit: a chunk end asks the homes of the written lines; a home grants a request that nothing stands
against; the last grant starts the commit and is confirmed to every home; a confirmed line is owned, or its sharers are sent invalidations; an
invalidation drops the copy and is acknowledged, or is refused by a pinned chunk; the last acknowledgement gives the line to the committing core;
a refusal squashes the chunk, or keeps a line that was being replaced; at the commit point the chunk's bytes are committed with a stamp above
every clock seen; the pin token goes to the first that asked. What a fenced or restarted cluster sends is dropped and counted, and a fenced die's
home does nothing. The model's own: a held request stands in its line's queue (notes/assumptions/17.md), and a refused invalidation squashes no
chunk of its core (notes/assumptions/37.md). -/
def Obligations.CommitSteps : Prop :=
  ∀ (s : State) (home core line : Nat) (r : CommitReq),
    let uid := s.th.uid
    let own := incOf s (clusterOf s.th.core)
    let d := dirOf s line
    (s.th.status = .running → s.th.chunk.phase = .running → s.th.boundary = false → 0 < s.th.chunk.count → s.th.chunk.writes ≠ [] →
      s.th.chunk.dirty = [] → poisonedRead s s.th.chunk = false →
      ∃ t, exec .chunkEnd (due s (.chunkEnd uid)) = .next t ∧ t.th.status = .waiting .commit ∧ t.th.chunk.phase = .requesting ∧
        t.th.a = s.th.a ∧ t.mem = s.mem ∧
        ∀ w ∈ s.th.chunk.writes, homeOf (lineOf w.1) ∈ t.th.chunk.asked ∧ Event.commitRequest (homeOf (lineOf w.1)) uid own ∈ t.agenda) ∧
    (s.th.chunk.phase = .requesting → home ∈ s.th.chunk.asked → (∀ x ∈ s.coh.reqs, x.home ≠ home) → clusterOf s.th.core ∉ s.coh.fencedCl →
      deadHome s home = false → Unasked s uid →
      (∀ w ∈ s.th.chunk.writes, stampOf s (lineOf w.1) < s.th.chunk.key ∧ (dirOf s (lineOf w.1)).st ≠ .O) →
      ((∀ w ∈ s.th.chunk.writes, lineBusy s (lineOf w.1) = false) →
        ∃ t, exec .commitRequest (due s (.commitRequest home uid own)) = .next t ∧ Event.commitGrant home uid ∈ t.agenda ∧ Still t s ∧
          ∃ x ∈ t.coh.reqs, x.home = home ∧ x.uid = uid ∧ x.granted = true ∧ x.stamp = s.th.chunk.key) ∧
      (s.th.chunk.lines = [line] → homeOf line = home → lineBusy s line = true → s.th.chain = [] → (∀ i, Held.asks uid i ∉ d.queue) →
        ∃ t, exec .commitRequest (due s (.commitRequest home uid own)) = .next t ∧ (dirOf t line).queue = d.queue ++ [.asks uid own] ∧
          Still t s)) ∧
    (∀ inc, freshAnswer s (clusterOf s.th.core) inc = false → deadHome s home = false → Unasked s uid →
      ∃ l, Dropped .commitRequest s (.commitRequest home uid inc) l ∧
        (reqAt s home uid = some r → ∃ l', Dropped .commitConfirmation s (.commitConfirmation home uid inc) l')) ∧
    (deadHome s home = true → Unasked s uid → ∀ inc,
      exec .commitRequest (due s (.commitRequest home uid inc)) = .next (done s) ∧
      exec .commitConfirmation (due s (.commitConfirmation home uid inc)) = .next (done s)) ∧
    (clusterOf s.th.core ∈ s.coh.fencedCl → exec .commitGrant (due s (.commitGrant home uid)) = .next (done s) ∧
      exec .commitPoint (due s (.commitPoint uid)) = .next (done s)) ∧
    (s.th.chunk.phase = .requesting → reqAt s home uid = some r → r.granted = true → LastGrant s home → deadHome s home = false →
      clusterOf s.th.core ∉ s.coh.fencedCl →
      ∃ t, exec .commitGrant (due s (.commitGrant home uid)) = .next t ∧ t.th.chunk.phase = .committing ∧ home ∈ t.th.chunk.granted ∧
        clockOf s home ≤ lcOf t s.th.core ∧ t.th.a = s.th.a ∧ t.mem = s.mem ∧
        ∀ h ∈ s.th.chunk.asked, Event.commitConfirmation h uid own ∈ t.agenda) ∧
    (s.th.chunk.phase = .committing → reqAt s home uid = some r → r.confirmed = false → r.view = none → r.lines = [line] → s.rest = [] →
      lineBusy s line = false → sliceRoom s line = true → deadHome s home = false → clusterOf s.th.core ∉ s.coh.fencedCl → Unasked s uid →
      (d.st = .I → ∃ t, exec .commitConfirmation (due s (.commitConfirmation home uid own)) = .next t ∧ (dirOf t line).st = .O ∧
        (dirOf t line).owner = s.th.core ∧ home ∈ t.th.chunk.reported ∧ t.th.a = s.th.a ∧ t.mem = s.mem ∧
        ((∀ h ∈ s.th.chunk.asked, h = home ∨ h ∈ s.th.chunk.reported) → Event.commitPoint uid ∈ t.agenda)) ∧
      (Sharers s d →
        ∃ t, exec .commitConfirmation (due s (.commitConfirmation home uid own)) = .next t ∧ (dirOf t line).st = .IA ∧ Still t s ∧
          ∀ cl ∈ d.ptrs, ∀ c ∈ coresOf cl, Event.invalidation c line (.commit uid) ∈ t.agenda)) ∧
    (∀ cause, (cause = .replace ∨ cause = .homeWrite) → clusterOf core ∉ s.coh.fencedCl → Untouched s core line →
      ∀ l, l1Get s core line = some l → l.cls = .D →
      ∃ t, exec .invalidation (due s (.invalidation core line cause)) = .next t ∧ l1Get t core line = none ∧ Still t s ∧
        clockOf s (homeOf line) ≤ lcOf t core ∧
        Event.invalidationAcknowledgement core line (lcOf t core) (incOf s (clusterOf core)) ∈ t.agenda) ∧
    (∀ cause, (cause = .replace ∨ cause = .homeWrite) → clusterOf s.th.core ∉ s.coh.fencedCl → s.th.chunk.touches line = true →
      s.th.pinned = true → uid ≠ 0 →
      ∃ t, exec .invalidation (due s (.invalidation s.th.core line cause)) = .next t ∧ Still t s ∧ t.coh.l1 = s.coh.l1 ∧
        Event.invalidationRefusal s.th.core line 0 (lcOf t s.th.core) (incOf s (clusterOf s.th.core)) ∈ t.agenda) ∧
    (∀ inc st v, freshAnswer s (clusterOf core) inc = false →
      Dropped .invalidationAcknowledgement s (.invalidationAcknowledgement core line st inc) line ∧
      Dropped .invalidationRefusal s (.invalidationRefusal core line v st inc) line) ∧
    (∀ inc st, freshAnswer s (clusterOf core) inc = true → deadHome s (homeOf line) = false → core ∈ d.due → d.st = .IA → d.busy = some (.commit uid) →
      ∃ t, exec .invalidationAcknowledgement (due s (.invalidationAcknowledgement core line st inc)) = .next t ∧ t.mem = s.mem ∧
        t.th.a = s.th.a ∧ st ≤ t.th.chunk.seen ∧ st ≤ clockOf t (homeOf line) ∧ (dirOf t line).owner = d.owner ∧
        (if 1 < d.pend then (dirOf t line).st = .IA ∧ (dirOf t line).pend = d.pend - 1 else (dirOf t line).st = .O)) ∧
    (∀ inc st, freshAnswer s (clusterOf core) inc = true → deadHome s (homeOf line) = false → core ∈ d.due → d.st = .RC → d.busy = some .replace → d.queue = [] →
      ∃ t, exec .invalidationRefusal (due s (.invalidationRefusal core line 0 st inc)) = .next t ∧
        (dirOf t line).st = (if d.ptrs = [] ∧ d.bc = false then .O else .S) ∧ (dirOf t line).ptrs = d.ptrs ∧ (dirOf t line).busy = none ∧
        st ≤ clockOf t (homeOf line) ∧ Still t s) ∧
    (∀ inc st, freshAnswer s (clusterOf core) inc = true → deadHome s (homeOf line) = false → core ∈ d.due → d.st = .IA → d.busy = some (.commit uid) →
      (∀ e ∈ s.coh.dir, e.queue = []) →
      ∃ t, exec .invalidationRefusal (due s (.invalidationRefusal core line uid st inc)) = .next t ∧ t.th.a = s.th.chunk.start ∧
        t.th.chunk.phase = .running ∧ t.th.chunk.count = 0 ∧ t.th.chunk.writes = [] ∧ t.mem = s.mem) ∧
    (∀ pa b, s.th.chunk.phase = .committing → clusterOf s.th.core ∉ s.coh.fencedCl → (∀ h ∈ s.th.chunk.asked, h ∈ s.th.chunk.reported) → s.th.chain = [] → s.rest = [] → NoReplay s →
      s.th.pendTrap = none → s.th.chunk.writes = [(pa, b)] → s.th.chunk.gwrites = [] → s.th.chunk.wstores = [] → s.th.chunk.wbs = [] →
      s.th.chunk.rel = false → s.th.chunk.dirty = [] → s.th.chunk.sub = false → (∀ x ∈ s.coh.reqs, x.uid = uid) →
      (∀ e ∈ s.coh.dir, e.queue = []) →
      (∀ l, l1Get s s.th.core (lineOf pa) = some l → l.data.length = 64) → (homeLine s (lineOf pa)).length = 64 →
      ∃ t, exec .commitPoint (due s (.commitPoint uid)) = .next t ∧ t.th.seq = s.th.seq + 1 ∧ t.th.chunk.count = 0 ∧ t.th.chunk.writes = [] ∧
        t.th.a.pc = s.th.a.pc ∧ t.th.a.q = s.th.a.q ∧ t.th.a.n = s.th.a.n ∧ s.th.chunk.seen < t.th.a.lastStamp ∧
        lcOf s s.th.core < t.th.a.lastStamp ∧ stampOf t (lineOf pa) = t.th.a.lastStamp ∧ homeByte t pa = b ∧ t.mem = s.mem ∧
        t.coh.reqs = []) ∧
    (∀ p e, s.coh.pinQueue.find? (fun x => x.1 = p) = some e → e.2 = uid → (∀ h ∈ s.coh.pinHolder, h.1 ≠ p) → s.th.status = .waiting .pin →
      ∃ t, exec .pinTokenGrant (due s (.pinTokenGrant p)) = .next t ∧ t.th.pinned = true ∧ t.th.status = .running ∧
        t.th.chunk.key = lcOf s s.th.core + 1 ∧ t.coh.pinHolder = e :: s.coh.pinHolder ∧ t.coh.pinQueue = s.coh.pinQueue.erase e ∧
        t.th.a = s.th.a ∧ t.mem = s.mem)

/-- R57, R85-R88, R95, R97, R115, R120: the steps of homes: a read is answered, forwarded to the owner, or held while the line is busy; the
owner sends its data or a negative acknowledgement; owner's data and write-backs reach memory and answer the reader or let the held write be
performed; a line leaves an L1 or a slice; a write is performed, recalls the owner, invalidates the sharers, or is held; a thread's access is
given its turn at the line; a posted store leaves. What a fenced or restarted cluster sends is dropped and counted. The model's own: a singleton
access is given its turn at the line and the home performs that of a killed thread (notes/assumptions/17.md); another device grants a posted
store, and its own writes arrive, as notes/assumptions/18.md says. -/
def Obligations.HomeSteps : Prop :=
  ∀ (s : State) (core line cl inc : Nat) (data : List Byte) (l : L1Line),
    let d := dirOf s line
    let ownerInc := incOf s (clusterOf d.owner)
    (∀ cls, core < 2048 → freshAnswer s (clusterOf core) inc = true →
      (lineBusy s line = false → d.st ≠ .O → cls = .D → L1Room s core → (∀ x, l1Get s core line = some x → x.cls ≠ .G) →
        ∃ t x, exec .readMiss (due s (.readMiss core line cls inc)) = .next t ∧ l1Get t core line = some x ∧ x.cls = .D ∧
          x.data = cellsRead s.mem.cells line 64 ∧ (dirOf t line).st = .S ∧ stampOf s line ≤ lcOf t core ∧ Still t s) ∧
      (lineBusy s line = false → d.st ≠ .O → cls = .G → l1Get s core line = some l → l.cls = .G → d.queue = [] →
        ∃ t x, exec .readMiss (due s (.readMiss core line cls inc)) = .next t ∧ l1Get t core line = some x ∧ x.valid = fullMask ∧
          x.dirty = l.dirty ∧ (∀ i, i < 64 → x.data.getD i 0 =
            if bitAt l.valid i then l.data.getD i 0 else (cellsRead s.mem.cells line 64).getD i 0) ∧
          dirOf t line = d ∧ Still t s) ∧
      (lineBusy s line = false → d.st = .O →
        ∃ t, exec .readMiss (due s (.readMiss core line cls inc)) = .next t ∧ (dirOf t line).st = .FW ∧ (dirOf t line).inc = ownerInc ∧
          Event.forwardedRead line ∈ t.agenda ∧ Still t s) ∧
      (lineBusy s line = true →
        ∃ t, exec .readMiss (due s (.readMiss core line cls inc)) = .next t ∧ (dirOf t line).queue = d.queue ++ [.read core cls inc] ∧
          Still t s)) ∧
    (core < 2048 → freshAnswer s (clusterOf core) inc = false → ∀ cls mask pa op v,
      Dropped .readMiss s (.readMiss core line cls inc) line ∧ Dropped .writeBack s (.writeBack core line cls inc mask data) line ∧
      Dropped .singletonAccess s (.singletonAccess pa op core v inc) (lineOf pa)) ∧
    (d.st = .FW ∨ d.st = .WP → clusterOf d.owner ∉ s.coh.fencedCl →
      (l1Get s d.owner line = some l → l.cls = .D →
        ∃ t, exec .forwardedRead (due s (.forwardedRead line)) = .next t ∧ Still t s ∧
          Event.ownerData line (clusterOf d.owner) ownerInc l.data ∈ t.agenda) ∧
      (l1Get s d.owner line = none →
        ∃ t sent, exec .forwardedRead (due s (.forwardedRead line)) = .next t ∧ Still t s ∧
          (sent = true ↔ writeBackSent s d.owner line = true ∨ d.st = .WP ∧ d.gotWb = true) ∧
          Event.negativeAcknowledgement line (clusterOf d.owner) ownerInc sent ∈ t.agenda)) ∧
    (freshAnswer s cl inc = true → d.inc = inc → d.queue = [] →
      (∀ k i, d.st = .FW → d.busy = some (.read core k i) → L1Room s core →
        ∃ t, exec .ownerData (due s (.ownerData line cl inc data)) = .next t ∧ (dirOf t line).st = .S ∧ cl ∈ (dirOf t line).ptrs ∧
          t.mem.cells = cellsWriteMask s.mem.cells line (data.map some) ∧ t.th = s.th ∧ t.rest = s.rest) ∧
      (∀ bs agent i, Recalled d → d.busy = some (.write bs agent i) → agentFresh s agent i = true → dtsOf s agent line = [] →
        ∃ t, exec .ownerData (due s (.ownerData line cl inc data)) = .next t ∧ (dirOf t line).st = .I ∧
          t.mem.cells = cellsWriteMask (cellsWriteMask s.mem.cells line (data.map some)) line bs ∧ t.th = s.th ∧ t.rest = s.rest) ∧
      (Recalled d → d.busy = some .replace →
        ∃ t, exec .ownerData (due s (.ownerData line cl inc data)) = .next t ∧ dirOf t line = DirEnt.fresh line ∧
          t.mem.cells = cellsWriteMask s.mem.cells line (data.map some) ∧ t.th = s.th ∧ t.rest = s.rest)) ∧
    (freshAnswer s cl inc = false ∨ d.st.transient = true ∧ d.inc ≠ inc → ∀ sent,
      Dropped .ownerData s (.ownerData line cl inc data) line ∧
      Dropped .negativeAcknowledgement s (.negativeAcknowledgement line cl inc sent) line) ∧
    (freshAnswer s cl inc = true → d.inc = inc →
      (d.st = .FW → exec .negativeAcknowledgement (due s (.negativeAcknowledgement line cl inc true)) =
        .next (setDir (done s) { d with st := .WP, gotNack := true })) ∧
      (∀ i, d.st = .WP → d.gotWb = true → d.queue = [] → d.busy = some (.read core .D i) → freshAnswer s (clusterOf core) i = true →
        ∃ t, exec .negativeAcknowledgement (due s (.negativeAcknowledgement line cl inc true)) = .next t ∧ (dirOf t line).st = .S ∧
          (dirOf t line).ptrs = [clusterOf core] ∧ Still t s) ∧
      (d.st.transient = true → ∃ t, exec .negativeAcknowledgement (due s (.negativeAcknowledgement line cl inc false)) = .next t ∧
        line ∈ t.mem.poisoned ∧ t.mem.cells = s.mem.cells ∧ t.th = s.th)) ∧
    (freshAnswer s (clusterOf core) inc = true → deadHome s (homeOf line) = false → ∀ mask,
      (d.st = .O → d.owner = core → d.queue = [] →
        ∃ t, exec .writeBack (due s (.writeBack core line .D inc mask data)) = .next t ∧ (dirOf t line).st = .I ∧
          t.mem.cells = cellsWriteMask s.mem.cells line (data.map some) ∧ t.th = s.th ∧ t.rest = s.rest) ∧
      (∀ c k i, d.st = .FW → d.owner = core → d.busy = some (.read c k i) → L1Room s c →
        ∃ t, exec .writeBack (due s (.writeBack core line .D inc mask data)) = .next t ∧ (dirOf t line).st = .WP ∧ (dirOf t line).gotWb = true ∧
          t.mem.cells = cellsWriteMask s.mem.cells line (data.map some) ∧ t.th = s.th ∧ t.rest = s.rest) ∧
      (WritableLine s line → lineOf line = line → agentRoom s (coreAgent core) = true → dtsOf s (coreAgent core) line = [] →
        ∃ t, exec .writeBack (due s (.writeBack core line .G inc mask data)) = .next t ∧ t.th = s.th ∧ t.rest = s.rest ∧
          t.mem.cells = cellsWriteMask s.mem.cells line ((List.range 64).map (fun i => if bitAt mask i then some (data.getD i 0) else none)))) ∧
    (l1Get s core line = some l → l1Bound s l = false →
      (l.cls = .D → l.dirty ≠ 0 → d.owner = core → entryFree s (clusterOf core) core = true →
        ∃ t, exec .l1Replacement (due s (.l1Replacement core line)) = .next t ∧ l1Get t core line = none ∧ Still t s ∧
          Event.writeBack core line .D (incOf s (clusterOf core)) fullMask l.data ∈ t.agenda) ∧
      (l.cls = .G → l.dirty &&& fullMask ≠ 0 → isLocal s line = true → core < 2048 → lineOf line = line →
        let sent := maskedData l (l.dirty &&& fullMask)
        (WritableLine s line → agentRoom s (coreAgent core) = true → dtsOf s (coreAgent core) line = [] →
          ∃ t, exec .l1Replacement (due s (.l1Replacement core line)) = .next t ∧ l1Get t core line = none ∧ t.th = s.th ∧ t.rest = s.rest ∧
            t.mem.cells = cellsWriteMask s.mem.cells line sent) ∧
        (lineBusy s line = true → entryFree s (clusterOf core) core = true →
          writeSent s line (coreAgent core) (incOf s (clusterOf core)) = false →
          ∃ t, exec .l1Replacement (due s (.l1Replacement core line)) = .next t ∧ l1Get t core line = none ∧ Still t s ∧
            Event.homePerformedWrite line sent (coreAgent core) (incOf s (clusterOf core)) ∈ t.agenda)) ∧
      (l.dirty = 0 →
        ∃ t, exec .l1Replacement (due s (.l1Replacement core line)) = .next t ∧ l1Get t core line = none ∧ Still t s ∧ t.agenda = s.agenda)) ∧
    (∀ pa bs agent i, isLocal s pa = true → agentFresh s agent i = true → sliceRoom s (lineOf pa) = true → dtsOf s agent (lineOf pa) = [] →
      let e := dirOf s (lineOf pa)
      let w := lineData pa bs
      (WritableLine s (lineOf pa) → w.any Option.isSome = true →
        ∃ t, exec .homePerformedWrite (due s (.homePerformedWrite pa bs agent i)) = .next t ∧
          t.mem.cells = cellsWriteMask s.mem.cells (lineOf pa) w ∧ (dirOf t (lineOf pa)).st = .I ∧
          stampOf t (lineOf pa) = max (stampOf s (lineOf pa)) (clockOf s (agentClock agent)) + 1 ∧ t.th = s.th ∧ t.rest = s.rest) ∧
      (mustHold s (lineOf pa) (.write w agent i) = false → e.st = .O →
        ∃ t, exec .homePerformedWrite (due s (.homePerformedWrite pa bs agent i)) = .next t ∧ (dirOf t (lineOf pa)).st = .RC ∧
          (dirOf t (lineOf pa)).busy = some (.write w agent i) ∧ Event.recall (lineOf pa) ∈ t.agenda ∧ Still t s) ∧
      (mustHold s (lineOf pa) (.write w agent i) = false → Sharers s e →
        ∃ t, exec .homePerformedWrite (due s (.homePerformedWrite pa bs agent i)) = .next t ∧ (dirOf t (lineOf pa)).st = .IA ∧
          t.mem.cells = cellsWriteMask s.mem.cells (lineOf pa) w ∧ (dirOf t (lineOf pa)).pend = 4 * e.ptrs.length ∧
          (∀ k ∈ e.ptrs, ∀ c ∈ coresOf k, Event.invalidation c (lineOf pa) .homeWrite ∈ t.agenda) ∧ t.th = s.th ∧ t.rest = s.rest) ∧
      (mustHold s (lineOf pa) (.write w agent i) = true →
        ∃ t, exec .homePerformedWrite (due s (.homePerformedWrite pa bs agent i)) = .next t ∧ Still t s ∧
          (dirOf t (lineOf pa)).queue = e.queue ++ [.write w agent i])) ∧
    (Recalled d → clusterOf d.owner ∉ s.coh.fencedCl → Untouched s d.owner line → l1Get s d.owner line = some l → l.cls = .D →
      ∃ t, exec .recall (due s (.recall line)) = .next t ∧ l1Get t d.owner line = none ∧ Still t s ∧
        Event.ownerData line (clusterOf d.owner) ownerInc l.data ∈ t.agenda) ∧
    (lineBusy s line = false → touching s line 0 = [] →
      (d.st = .O → ∃ t, exec .sliceReplacement (due s (.sliceReplacement line)) = .next t ∧ (dirOf t line).st = .RC ∧
        Event.recall line ∈ t.agenda ∧ Still t s) ∧
      (Sharers s d → ∃ t, exec .sliceReplacement (due s (.sliceReplacement line)) = .next t ∧ (dirOf t line).st = .RC ∧
        (∀ k ∈ d.ptrs, ∀ c ∈ coresOf k, Event.invalidation c line .replace ∈ t.agenda) ∧ Still t s) ∧
      (d.st = .I → d.queue = [] →
        ∃ t, exec .sliceReplacement (due s (.sliceReplacement line)) = .next t ∧ dirOf t line = DirEnt.fresh line ∧ Still t s)) ∧
    (freshAnswer s (clusterOf core) inc = true → ∀ pa,
      (∀ b bs v, anyThread s v = none → turnOf s v (lineOf pa) = true → (dirOf s (lineOf pa)).queue = [] →
        let st := max (lcOf s core) (stampOf s (lineOf pa)) + 1
        ∃ t, exec .singletonAccess (due s (.singletonAccess pa (.write (some b :: bs)) core v inc)) = .next t ∧
          t.mem.cells = cellsWriteMask s.mem.cells pa (some b :: bs) ∧ lcOf t core = st ∧ stampOf t (lineOf pa) = st ∧ t.th = s.th) ∧
      (∀ op v, anyThread s v = none ∧ turnOf s v (lineOf pa) = false ∨ v = s.th.uid ∧ s.th.status = .waiting (.memory (lineOf pa)) →
        sliceRoom s (lineOf pa) = true →
        let h := Held.turn v core pa op inc
        let e := dirOf s (lineOf pa)
        (mustHold s (lineOf pa) h = false → e.st = .I →
          ∃ t, exec .singletonAccess (due s (.singletonAccess pa op core v inc)) = .next t ∧ (dirOf t (lineOf pa)).busy = some h ∧
            (dirOf t (lineOf pa)).st = .I ∧ (dirOf t (lineOf pa)).queue = e.queue ∧ Still t s ∧
            (anyThread s v = none → Event.singletonAccess pa op core v inc ∈ t.agenda)) ∧
        (mustHold s (lineOf pa) h = false → e.st = .O →
          ∃ t, exec .singletonAccess (due s (.singletonAccess pa op core v inc)) = .next t ∧ (dirOf t (lineOf pa)).busy = some h ∧
            (if opWrites op = true then Event.recall (lineOf pa) else Event.forwardedRead (lineOf pa)) ∈ t.agenda ∧ Still t s) ∧
        (mustHold s (lineOf pa) h = true →
          exec .singletonAccess (due s (.singletonAccess pa op core v inc)) = .next (queueAt (done s) (lineOf pa) h)))) ∧
    (∀ op, isLocal s line = false → ∃ t, exec .homePerformedWrite (due s (.homePerformedWrite line op core inc)) = .next t ∧ t.th.uid = s.th.uid ∧
      t.mem.cells = cellsWriteMask s.mem.cells line op ∧ stampOf t (lineOf line) = stampOf s (lineOf line) + 1) ∧
    (∀ dev p, s.coh.posted.find? (fun x => x.dev = dev) = some p →
      (replayPart s p.part = true → ∃ t, exec .postedStorePerform (due s (.postedStorePerform dev)) = .next t ∧
        t.coh.posted = s.coh.posted.erase p ∧ Still t s) ∧
      (p.core < 2048 → replayPart s p.part = false →
        (freshAnswer s (clusterOf p.core) p.inc = false → ∃ t, exec .postedStorePerform (due s (.postedStorePerform dev)) = .next t ∧
          t.coh.posted = s.coh.posted.erase p ∧ Still t s) ∧
        (freshAnswer s (clusterOf p.core) p.inc = true → routeLive s p.part dev = true → ackedTo s p.part p.upTo = true →
          ∃ t, exec .postedStorePerform (due s (.postedStorePerform dev)) = .next t ∧ t.coh.posted = s.coh.posted.erase p ∧ t.th = s.th ∧
            t.mem.cells =
              (if Config.remoteGrants p.pa (pdJob s p.part) then cellsWriteMask s.mem.cells p.pa p.data else s.mem.cells))))

namespace Sys2Proof.Claims

/-- The clauses of UpkeepSteps about clusters and dies that do not answer (R95-R98). -/
def FenceSteps : Prop :=
  ∀ (s : State) (line cl die n m : Nat),
    let d := dirOf s line
    (d.st.transient = true →
      ∃ t, exec .answerResend (due s (.answerResend line)) = .next t ∧ dirOf t line = { d with resent := true } ∧
        (∀ c ∈ awaited d, answerUnderWay s d c = false → awaitedMessage d c ∈ t.agenda) ∧ Still t s) ∧
    (d.st.transient = false → exec .answerResend (due s (.answerResend line)) = .next (done s)) ∧
    (d.st.transient = true → d.resent = true →
      ∃ t, exec .clusterReport (due s (.clusterReport line n)) = .next t ∧ Still t s ∧
        ∀ c ∈ awaited d, clusterOf c ∈ t.coh.reports ∧ Event.clusterFence (clusterOf c) ∈ t.agenda ∧
          (4 ≤ (t.coh.reports.filter (fun x => dieOf x = dieOf (clusterOf c))).length → Event.dieFence (dieOf (clusterOf c)) ∈ t.agenda)) ∧
    (d.st.transient = false ∨ d.resent = false → exec .clusterReport (due s (.clusterReport line n)) = .next (done s)) ∧
    (cl ∉ s.coh.fencedCl → (∀ e ∈ s.coh.dir, e.queue = []) →
      ∃ t, exec .clusterFence (due s (.clusterFence cl)) = .next t ∧ cl ∈ t.coh.fencedCl ∧ incOf t cl = (incOf s cl + 1) % 256 ∧
        (∀ l ∈ t.coh.l1, clusterOf l.core ≠ cl) ∧ (∀ e ∈ t.coh.dir, cl ∉ e.ptrs) ∧ Still t s ∧
        (d.st = .O → clusterOf d.owner = cl → (dirOf t line).st = .I ∧ (dirOf t line).stale = true) ∧
        (∀ p, (List.range 20).find? (fun q => inPart s q cl) = some p → Event.rollback p [] [] ∈ t.agenda)) ∧
    (cl ∈ s.coh.fencedCl → exec .clusterFence (due s (.clusterFence cl)) = .next (done s)) ∧
    (∃ t, exec .ucieLinkFailure (due s (.ucieLinkFailure die)) = .next t ∧ Event.dieFence die ∈ t.agenda ∧ Still t s) ∧
    (die ∉ s.coh.fencedDie → (∀ e ∈ s.coh.dir, e.queue = []) →
      ∃ t, exec .dieFence (due s (.dieFence die)) = .next t ∧ die ∈ t.coh.fencedDie ∧ (∀ i, i < 64 → 64 * die + i ∈ t.coh.fencedCl) ∧
        (∀ e ∈ t.coh.dir, homeDie (paLocal e.line) ≠ die) ∧ t.sys.answers = s.sys.answers ++ [.dieFenced die] ∧
        (∀ p, p < 20 → dieInPart s p die = true → Event.rollback p [] [] ∈ t.agenda) ∧ Still t s) ∧
    (die ∈ s.coh.fencedDie → exec .dieFence (due s (.dieFence die)) = .next (done s)) ∧
    (∀ x, s.coh.net[n]? = some x →
      let u : State := { done s with coh := { s.coh with net := s.coh.net.eraseIdx n } }
      exec .messageAgeDiscard (due s (.messageAgeDiscard m n)) =
        .next (if freshAnswer s x.cl x.inc then u else ctlCount u (cntAddr (0x2000 + 8 * (m % 10))) 1)) ∧
    (s.coh.net[n]? = none → exec .messageAgeDiscard (due s (.messageAgeDiscard m n)) = .next (done s)) ∧
    (cl ∈ s.coh.fencedCl → dieOf cl ∉ s.coh.fencedDie →
      ∃ t, exec .clusterReadmission (due s (.clusterReadmission cl)) = .next t ∧ cl ∉ t.coh.fencedCl ∧ cl ∉ t.coh.reports ∧
        incOf t cl = incOf s cl ∧ Event.rangeRequest cl ∈ t.agenda ∧ Still t s) ∧
    (cl ∉ s.coh.fencedCl ∨ dieOf cl ∈ s.coh.fencedDie → exec .clusterReadmission (due s (.clusterReadmission cl)) = .next (done s))

end Sys2Proof.Claims

/-- R37, R38, R50, R70-R75, R126, R127, R341, R342: a watch takes the line's stamp; a limit that passes answers its `mwait`; the sequencer's
head takes the next ticket, and after the elected device has been fenced the live device with the next number goes on 2^32 above the highest
performed ticket; a walk waits for one of its die's 32 walkers and a request entry, sets AC and installs the leaf that it reaches in the cluster's
TLB, a faulting one installs nothing, one whose line is not stable is held there in order of arrival; an uncorrectable line is poisoned and a corrected error counted; refresh changes nothing; the weight-store windows of a die
open one by one, banks 0 to 63 round and round, and close.
R95-R98 (the clauses of FenceSteps): a home whose line awaits answers sends its message again, with the same incarnation, to each that has not
answered, then reports their clusters; four reported clusters of a die fence the die; a reported cluster is fenced with a new incarnation, no
line is owned or shared by it any more, and its partition rolls back; a die whose link fails is fenced with its clusters and home slices;
readmission ends a cluster's fence; a router drops a message too old, and counts one of an old incarnation. The model's own: steps that
time or the outside causes stand in the agenda (notes/assumptions/2.md); a fenced die is told to the host as an answer
(notes/assumptions/40.md); a message is not sent again while it or its answer is under way (notes/assumptions/44.md); the first bank that
opens is free (notes/assumptions/81.md). -/
def Obligations.UpkeepSteps : Prop :=
  FenceSteps ∧
  ∀ (s : State) (line cl die bank n m : Nat),
    (∃ t w, exec .watchArrival (due s (.watchArrival s.th.uid line)) = .next t ∧ w ∈ t.coh.watches ∧ w.line = line ∧ w.uid = s.th.uid ∧
      w.ref = stampOf s line ∧ w.fresh = true ∧ Still t s) ∧
    (anyThread s n = none → exec .watchArrival (due s (.watchArrival n line)) = .next (done s) ∧
      exec .mwaitLimitExpiry (due s (.mwaitLimitExpiry n)) = .next (done s)) ∧
    (∀ x, s.th.status = .waiting (.mwait x) ∨ s.th.status = .halted (some (.mwait x)) →
      ∃ t, exec .mwaitLimitExpiry (due s (.mwaitLimitExpiry s.th.uid)) = .next t ∧ t.th.answered = some 0 ∧ t.th.a = s.th.a ∧ t.mem = s.mem) ∧
    (s.sys.ticketQueue.head? = some s.th.uid → s.th.status = .waiting .ticket → s.th.answered = none →
      Event.checkpoint s.th.part ∉ s.agenda →
      ∃ t, exec .sequencerTicket (due s (.sequencerTicket s.th.uid)) = .next t ∧ t.th.answered = some (BitVec.ofNat 64 s.sys.ticket) ∧
        t.sys.ticket = s.sys.ticket + 1 ∧ t.th.a = s.th.a ∧ t.mem = s.mem) ∧
    (s.sys.ticketQueue.head? ≠ some n → n ∈ s.sys.ticketQueue →
      exec .sequencerTicket (due s (.sequencerTicket n)) = .next { done s with agenda := s.agenda ++ [.sequencerTicket n] }) ∧
    (electedDev s = some n →
      ∃ t, exec .sequencerTakeover (due s (.sequencerTakeover n m)) = .next t ∧ t.sys.ticket = max (performedMost s) m + 2 ^ 32 ∧
        electedDev t = (List.range 1024).find? (fun x => deviceLive s x && x != n) ∧ t.th.a = s.th.a ∧ t.mem = s.mem ∧
        (s.th.uid ∈ s.sys.ticketQueue → s.th.answered.isSome = true →
          t.th.answered = none ∧ Event.rollback s.th.part [] [] ∈ t.agenda)) ∧
    (electedDev s ≠ some n → exec .sequencerTakeover (due s (.sequencerTakeover n m)) = .next (done s)) ∧
    (∀ o ctx va kind user inc, Unwalked s cl ctx va →
      let e : Event := .pageWalk cl o ctx va kind user inc
      (freshAnswer s cl inc = false → exec .pageWalk (due s e) = .next (ctlCount (done s) (cntAddr (0x2000 + 8 * dieOf cl)) 1)) ∧
      (freshAnswer s cl inc = true → (List.range 20).find? (fun q => inPart s q cl) = none → exec .pageWalk (due s e) = .next (done s)) ∧
      (∀ p, freshAnswer s cl inc = true → (List.range 20).find? (fun q => inPart s q cl) = some p →
        let w := whoWalks s p cl o ctx user
        let start := walkStart s w va
        (canonical s p va = false ∨ isWindow va = true → exec .pageWalk (due s e) = .next (done s)) ∧
        (canonical s p va = true → isWindow va = false → l1TlbFind s w va = none → tlbFind s w va = none → walkPending s w va = false →
          (walkerFree s cl = false → exec .pageWalk (due s e) = .next (post (done s) (.awaitEntry (8192 + cl) (walkEvent s w va kind)))) ∧
          (walkerFree s cl = true →
            (∀ pa x lvl nodes, walk s w va start.1 start.2 [] = .leaf pa x lvl nodes →
              (leafBars s w false kind x (replicaFrame s p x) = none →
                ∃ t y, exec .pageWalk (due s e) = .next t ∧ y ∈ t.mem.tlb ∧ y.cl = cl ∧ y.ctx = ctx ∧
                  y.leafPa = pa ∧ y.leaf = x ∧ t.th = s.th ∧ t.rest = s.rest ∧
                  t.mem.cells = if bitAt x 5 then s.mem.cells else cellsWriteMask s.mem.cells pa ((leBytes 16 (putBits x 5 5 1)).map some)) ∧
              (∀ sub, leafBars s w false kind x (replicaFrame s p x) = some sub →
                exec .pageWalk (due s e) = .next (dropWalks (walked (done s) w va) ctx va))) ∧
            (∀ sub lvl pa, walk s w va start.1 start.2 [] = .fault sub lvl pa →
              exec .pageWalk (due s e) = .next (dropWalks (walked (done s) w va) ctx va)) ∧
            (∀ x, walk s w va start.1 start.2 [] = .held x → sliceRoom s x = true →
              (lineBusy s x = true → exec .pageWalk (due s e) =
                .next (queueAt (done s) x (.walk cl w.walker ctx va kind user (incOf s cl)))) ∧
              (lineBusy s x = false → (dirOf s x).st = .O → ∃ t, exec .pageWalk (due s e) = .next t ∧ (dirOf t x).st = .FW ∧
                Event.forwardedRead x ∈ t.agenda ∧ Still t s)))))) ∧
    (∀ found, found = .uncorrectable ∨ found = .l2Uncorrectable →
      ∃ t, exec .hbmScrub (due s (.hbmScrub line found)) = .next t ∧ line ∈ t.mem.poisoned ∧ t.mem.cells = s.mem.cells ∧ t.th = s.th) ∧
    (∀ x, region (paLocal line) = .hbm x →
      exec .hbmScrub (due s (.hbmScrub line .corrected)) = .next (ctlCount (done s) (cntAddr (0x2100 + 0x10 * x)) 1)) ∧
    (∀ x, region (paLocal line) = .weight x →
      exec .hbmScrub (due s (.hbmScrub line .corrected)) = .next (ctlCount (done s) (cntAddr (0x2200 + 8 * x)) 1)) ∧
    (∀ x, region (paLocal line) = .scratch x →
      exec .hbmScrub (due s (.hbmScrub line .corrected)) = .next (ctlCount (done s) (cntAddr (0x2300 + 8 * dieOf x)) 1)) ∧
    (exec .hbmScrub (due s (.hbmScrub line .l2Corrected)) = .next (ctlCount (done s) (cntAddr (0x2300 + 8 * homeDie (paLocal line))) 1)) ∧
    (exec .hbmScrub (due s (.hbmScrub line .clean)) = .next (done s)) ∧
    (exec .hbmRefresh (due s (.hbmRefresh n)) = .next (done s)) ∧
    (die < 8 → bank < 64 → (∀ e ∈ s.sys.wsOpen, e.1 ≠ die) → (∀ b, Assoc.get s.sys.wsLast die = some b → bank = (b + 1) % 64) →
      ∃ t, exec .weightStoreWindowOpen (due s (.weightStoreWindowOpen die bank)) = .next t ∧ Still t s ∧
        t.sys.wsOpen = (die, bank) :: s.sys.wsOpen ∧ Assoc.get t.sys.wsLast die = some bank) ∧
    (8 ≤ die ∨ 64 ≤ bank ∨ (∃ e ∈ s.sys.wsOpen, e.1 = die) ∨ (∃ b, Assoc.get s.sys.wsLast die = some b ∧ bank ≠ (b + 1) % 64) →
      exec .weightStoreWindowOpen (due s (.weightStoreWindowOpen die bank)) = .next (done s)) ∧
    (∃ t, exec .weightStoreWindowClose (due s (.weightStoreWindowClose die bank)) = .next t ∧ Still t s ∧
      ∀ e, e ∈ t.sys.wsOpen ↔ e ∈ s.sys.wsOpen ∧ e ≠ (die, bank))

namespace Sys2Proof.Claims

/-- A window address of an agent whose byte stands at a PA (R18-R21, R63, R79). -/
def WindowOf (s : State) (w : Who) (va pa : Nat) : Prop :=
  va < 2 ^ 57 ∧ isWindow va = true ∧ ∃ off p, windowOf w.cl va = some (w.cl, off) ∧ scratchAt s w.cl w.ctx off = .ok p ∧ pa = localPa s p

/-- One whose line is not poisoned, which an engine may read (R70, R71). -/
def SoundWindowOf (s : State) (w : Who) (va pa : Nat) : Prop := WindowOf s w va pa ∧ lineOf pa ∉ s.mem.poisoned

/-- No line is reserved for a read of a cluster's engine (R85). -/
def Unfetched (s : State) (cl : Nat) : Prop := ∀ d ∈ s.coh.dir, ∀ h, d.busy = some h → Held.isFetch (engineClock cl) h = false

/-- A layout record of one element in memory at its base address, which no line boundary divides (R163-R165). -/
def OneElement (w : Nat) : Prop :=
  lyNdim w = 1 ∧ lyWin w 0 = 1 ∧ lyOrg w 0 = 0 ∧ lyExt w 0 ≠ 0 ∧ lyKind w = 0 ∧ lyBie w = false ∧ lyPgfmt w = false ∧
    bits w 56 0 % 64 + lyWidth w ≤ 64

/-- The state in which a command has left its FIFO (R157). -/
def started (s : State) (c : Command) : State :=
  { done s with eng := { s.eng with fifo := s.eng.fifo.filter (fun x => x.id != c.id), last := Assoc.set s.eng.last c.cl c.core } }

/-- A command of one element without a stamp, at the head of its core's FIFO, whose turn it is on an idle engine, and whose checks pass
(R157, R184). -/
structure Startable (s : State) (c : Command) : Prop where
  head : fifoHead s c.core = some c
  turn : nextCore s c.cl = some c.core
  checks : startCheck (started s c) c = none
  root : rootBad (started s c) c = false
  alone : s.eng.active = []
  seq : cwSeq c.word = false
  running : engStopped s c.cl = false
  pos : c.pos = 0
  slab : c.slab = none
  buf : c.buf = []
  unfetched : Unfetched s c.cl

/-- The payload of a command is performed, and its completion is due; no thread has changed (R181). -/
def Finishes (t s : State) (c : Command) : Prop :=
  (∃ x ∈ t.eng.active, x.id = c.id ∧ x.finished = true) ∧ Event.commandCompletion c.cl c.id ∈ t.agenda ∧ t.th = s.th ∧ t.rest = s.rest

/-- The bytes of an element as an engine reads them (R167). -/
def elemAt (s : State) (pa width : Nat) : Nat := leNat (cellsRead s.mem.cells pa width)

/-- Memory in which an engine has written an element (R167). -/
def elemPut (s : State) (pa width v : Nat) : List Host.Cell := cellsWriteMask s.mem.cells pa ((leBytes width v).map some)

end Sys2Proof.Claims

/-- R157, R162-R183, R383: what the engines do with a command of one element between windows: COPY moves it, GATHER takes the element that its index
names, or DECKLE for the index of all ones, FILL writes DECKLE, READQ delivers a doubleword to the core, MCAST sends what it reads to each subscriber,
MARK does nothing, an overlay fills its frame; a command that waited goes on; a completion writes the stamp and sets the tag; a join is acknowledged;
a delivery writes through the subscriber's record, consumes the subscription and sets its tag. That an entry of the match table holds its
subscribers, from which the ports follow, is the model's own (notes/assumptions/36.md). -/
def Obligations.EngineSteps : Prop :=
  ∀ (s : State) (c : Command) (a d : LayoutCopy) (pa pb : Nat),
    (Startable s c → c.ovld = false →
      (c.src = some a → c.dst = some d → OneElement d.word → OneElement a.word → cwTrn c.word = false → lyWidth a.word = lyWidth d.word →
        WindowOf s (whoCmd c) (bits d.word 56 0) pb → cwOp c.word = 1 → SoundWindowOf s (whoCmd c) (bits a.word 56 0) pa →
        ∃ t, exec .copy (due s (.copy c.cl c.core)) = .next t ∧ Finishes t s c ∧
          t.mem.cells = elemPut s pb (lyWidth d.word) (elemAt s pa (lyWidth d.word))) ∧
      (∀ pi x, c.src = some a → c.dst = some d → OneElement d.word → OneElement a.word → lyWidth a.word = lyWidth d.word →
        WindowOf s (whoCmd c) (bits d.word 56 0) pb → cwOp c.word = 2 → cwAux c.word % 64 = 0 → SoundWindowOf s (whoCmd c) (cwAux c.word) pi →
        elemAt s pi 4 = x → x ≠ 0xffffffff → x < lyExt a.word 0 → elemVa a.word (lyWidth d.word) [(x : Int)] % 64 + lyWidth d.word ≤ 64 →
        SoundWindowOf s (whoCmd c) (elemVa a.word (lyWidth d.word) [(x : Int)]) pa →
        ∃ t, exec .gather (due s (.gather c.cl c.core)) = .next t ∧ Finishes t s c ∧
          t.mem.cells = elemPut s pb (lyWidth d.word) (elemAt s pa (lyWidth d.word))) ∧
      (∀ pi, c.src = some a → c.dst = some d → OneElement d.word → OneElement a.word →
        WindowOf s (whoCmd c) (bits d.word 56 0) pb → cwOp c.word = 2 → cwAux c.word % 64 = 0 → SoundWindowOf s (whoCmd c) (cwAux c.word) pi →
        elemAt s pi 4 = 0xffffffff →
        ∃ t, exec .gather (due s (.gather c.cl c.core)) = .next t ∧ Finishes t s c ∧
          t.mem.cells = elemPut s pb (lyWidth d.word) (lyDeckle a.word % 2 ^ (8 * lyWidth d.word))) ∧
      (c.dst = some d → OneElement d.word → WindowOf s (whoCmd c) (bits d.word 56 0) pb → cwOp c.word = 3 →
        ∃ t, exec .fill (due s (.fill c.cl c.core)) = .next t ∧ Finishes t s c ∧
          t.mem.cells = elemPut s pb (lyWidth d.word) (lyDeckle d.word % 2 ^ (8 * lyWidth d.word))) ∧
      (c.dst = none → cwOp c.word = 4 → cwNres c.word = 0 → cwAux c.word % 64 = 0 → SoundWindowOf s (whoCmd c) (cwAux c.word) pa →
        ∃ t, exec .readq (due s (.readq c.cl c.core)) = .next t ∧ Finishes t s c ∧ t.mem.cells = s.mem.cells ∧
          (ccOf t c.core c.ctx).elems = (ccOf s c.core c.ctx).elems ++ [(cwTag c.word, BitVec.ofNat 64 (elemAt s pa 8))]) ∧
      (∀ e, c.src = some a → c.dst = none → OneElement a.word → cwOp c.word = 5 → SoundWindowOf s (whoCmd c) (bits a.word 56 0) pa →
        e ∈ s.eng.subs → e.mtag = bits c.word 31 0 → e.joined = true → cdJob s e.ctx = cdJob s c.ctx → s.eng.mcasts = [] →
        ∃ t m, exec .mcast (due s (.mcast c.cl c.core)) = .next t ∧ m ∈ t.eng.mcasts ∧ m.cl = c.cl ∧ m.cmd = c.id ∧ m.sub = e.cl ∧
          m.entry = e.entry ∧ m.id = e.id ∧ m.data.map (fun x => x.val) = [elemAt s pa (lyWidth a.word)] ∧
          Event.multicastDelivery c.cl c.id (e.cl * 32 + e.entry) ∈ t.agenda ∧ t.mem.cells = s.mem.cells ∧ t.th = s.th) ∧
      (c.src = none → c.dst = none → cwOp c.word = 6 →
        ∃ t, exec .mark (due s (.mark c.cl c.core)) = .next t ∧ Finishes t s c ∧ t.mem = s.mem)) ∧
    (∀ pas : List Nat, Startable s c → c.ovld = true → cwOp c.word = 7 → c.src = none → c.dst = none → bits c.word 232 226 = 0 → pas.length = 16 →
      cwAux c.word % 1024 = 0 → (∀ j, j < 16 → ∃ p, pas[j]? = some p ∧ SoundWindowOf s (whoCmd c) (cwAux c.word + 64 * j) p) →
      ∃ t, exec .ovldCommand (due s (.ovldCommand c.cl c.core)) = .next t ∧ Finishes t s c ∧ t.mem.cells = s.mem.cells ∧
        t.mem.icells = cellsWrite s.mem.icells (frameAddr c.core (cwSrec c.word) 0) (pas.flatMap (fun p => cellsRead s.mem.cells p 64))) ∧
    (∀ g, activeOf s c.cl c.id = some c → c.finished = true → c.ovld = false → c.stamped = false → c.fault = none → engStopped s c.cl = false →
      engWrites s c.cl = false → Unfetched s c.cl → tagOf (ccOf s c.core c.ctx) (cwTag c.word) = some g →
      (cwSeq c.word = true → cwStampVa c.word % 64 + 8 ≤ 64 ∧ WindowOf s (whoCmd c) (cwStampVa c.word) pa) →
      ∃ t, exec .commandCompletion (due s (.commandCompletion c.cl c.id)) = .next t ∧ (∀ x ∈ t.eng.active, x.id ≠ c.id) ∧
        bitAt (ccOf t c.core c.ctx).tagmap.toNat (cwTag c.word) = true ∧ Event.launchCompletion c.lnum ∈ t.agenda ∧ t.th = s.th ∧
        t.mem.cells = (if cwSeq c.word then elemPut s pa 8 (bits c.word 127 64) else s.mem.cells)) ∧
    (∀ f, activeOf s c.cl c.id = some c → c.finished = true → engStopped s c.cl = false → engWrites s c.cl = false → c.fault = some f →
      exec .commandCompletion (due s (.commandCompletion c.cl c.id)) = .next (endCommand (done s) c (some f))) ∧
    (activeOf s c.cl c.id = some c → c.finished = true → (engStopped s c.cl = true ∨ engWrites s c.cl = true) →
      exec .commandCompletion (due s (.commandCompletion c.cl c.id)) = .next (post (done s) (.commandCompletion c.cl c.id))) ∧
    (activeOf s c.cl c.id = some c → s.eng.active = [c] → c.finished = false → c.ovld = false → engStopped s c.cl = false → c.pos = 0 →
      cwOp c.word = 3 → c.dst = some d → OneElement d.word → WindowOf s (whoCmd c) (bits d.word 56 0) pb →
      ∃ t, exec .channelResume (due s (.channelResume c.cl c.id)) = .next t ∧ Finishes t s c ∧
        t.mem.cells = elemPut s pb (lyWidth d.word) (lyDeckle d.word % 2 ^ (8 * lyWidth d.word))) ∧
    (∀ cl n e, subAt s cl n = some e →
      exec .multicastJoin (due s (.multicastJoin cl n)) = .next (setSub (done s) { e with joined := true })) ∧
    (∀ cl n, exec .multicastLeave (due s (.multicastLeave cl n)) = .next (done s)) ∧
    (∀ m e x g, s.eng.mcasts = [m] → subAt s m.sub m.entry = some e → e.id = m.id → subHeld s e = false →
      engWrites s e.cl = false → s.eng.farMcasts = [] → m.fault = none → m.pos = 0 → m.slot = none → m.data = [x] → deliveryCheck s e m = none →
      OneElement e.layout.word → WindowOf s (whoSub e) (bits e.layout.word 56 0) pb → e.tag < 64 → tagOf (ccOf s e.core e.ctx) e.tag = some g →
      ∃ t, exec .multicastDelivery (due s (.multicastDelivery m.cl m.cmd (m.sub * 32 + m.entry))) = .next t ∧ subAt t m.sub m.entry = none ∧
        t.eng.mcasts = [] ∧ Event.commandCompletion m.cl m.cmd ∈ t.agenda ∧ bitAt (ccOf t e.core e.ctx).tagmap.toNat e.tag = true ∧
        t.mem.cells = elemPut s pb (lyWidth e.layout.word) x.val ∧ t.th = s.th) ∧
    (∀ dev id mtag job,
      let others := s.eng.farSubs.filter (fun x => !(x.dev == dev && x.id == id))
      exec .multicastJoin (due s (.farMulticastJoin dev id mtag job)) =
        .next { done s with eng := { s.eng with farSubs := others ++ [{ dev := dev, id := id, mtag := mtag, job := job }] } } ∧
      exec .multicastLeave (due s (.farMulticastLeave dev id)) = .next { done s with eng := { s.eng with farSubs := others } } ∧
      ∀ m : FarMcast, s.eng.farMcasts = [m] → m.dev = dev → m.id = id →
        (m.sent = false → ackedTo s m.part m.upTo = true → routeLive s m.part dev = true →
          ∃ t, exec .multicastDelivery (due s (.farMulticastSend dev id)) = .next t ∧ t.eng = { s.eng with farMcasts := [{ m with sent := true }] } ∧
            (∃ o ∈ t.rep.done, o.part = m.part ∧ o.eff = .mcast dev id m.data) ∧ t.th = s.th ∧ t.mem = s.mem) ∧
        (m.sent = false → ackedTo s m.part m.upTo = false ∨ routeLive s m.part dev = false →
          exec .multicastDelivery (due s (.farMulticastSend dev id)) = .next (post (done s) (.farMulticastSend dev id))) ∧
        (m.sent = true → s.eng.mcasts = [] →
          exec .multicastDelivery (due s (.farMulticastDone dev id)) =
            .next (post { done s with eng := { s.eng with farMcasts := [], farSubs := others } } (.commandCompletion m.cl m.cmd)))) ∧
    (∀ e dev id src fmt data, s.eng.subs = [e] → e.joined = true → e.part < 20 → s.eng.mcasts = [] → replayOf s e.part = none →
      replayPart s e.part = false →
      ∃ t m, exec .multicastDelivery (due s (.farMulticast dev id e.mtag (cdJob s e.ctx) src fmt data)) = .next t ∧ t.eng.mcasts = [m] ∧
        m.sub = e.cl ∧ m.entry = e.entry ∧ m.id = e.id ∧ m.data = data ∧ m.srcRec = src ∧
        Event.multicastDelivery m.cl m.cmd (e.cl * 32 + e.entry) ∈ t.agenda ∧
        t.rep.log.length = s.rep.log.length + 1 ∧ t.th = s.th ∧ t.mem = s.mem)

/-- R151, R153, R185, R369-R371, R411, R414, R415, R454: a waiting `mma` starts once both heads are filled, and retires with its sums, its pops and its
counters; a tile that is waited for is brought in; a kill ends the context's threads, drops its engine work, collects the acknowledgements and writes
the stamp, unless KILLPA lies in a hole; a choice makes the chosen view committed memory and puts the rival in its parent's place; a deferred entry
is performed as a singleton. The model's own: the chosen rival keeps its slot (notes/assumptions/33.md); one acknowledgement of a kill is
due for each cluster (notes/assumptions/39.md); a kill stamp in a hole stops the machine (notes/assumptions/66.md). -/
def Obligations.UnitSteps : Prop :=
  ∀ (s : State) (ra rb acc cl e ctx : Nat) (fa fb : FFmt) (rm : Rm) (ka kb : Bool) (a b : Ring),
    let uid := s.th.uid
    (waitingMma s.th = some (ra, rb, acc, fa, fb, rm, ka, kb) → s.th.crew = some (cl, e, 0) → ringAt s cl (ctxOf s.th) ra = some a →
      ringAt s cl (ctxOf s.th) rb = some b → clusterHalted s cl = false → mmaCanStart s a b = none → (tileAt s cl e acc).present = true →
      ∃ t m, exec .mmaStart (due s (.mmaStart uid)) = .next t ∧ t.th.status = .waiting .mma ∧ t.th.a = s.th.a ∧ t.mem = s.mem ∧
        t.eng.mma = s.eng.mma ++ [m] ∧ m.uid = uid ∧ m.ra = ra ∧ m.rb = rb ∧ m.acc = acc ∧ m.dataA = entryBytes s a ∧
        m.dataB = entryBytes s b ∧ Event.mmaRetirement uid ∈ t.agenda) ∧
    (∀ m mem, s.eng.mma = [m] → m.uid = uid → clusterHalted s m.cl = false → ringAt s m.cl (ctxOf s.th) m.ra = some a →
      ringAt s m.cl (ctxOf s.th) m.rb = some b → m.ra ≠ m.rb → s.th.crew = some (cl, e, mem) → NoReplay s → s.th.chunk.dirty = [] →
      ∃ t, exec .mmaRetirement (due s (.mmaRetirement uid)) = .next t ∧ t.eng.mma = [] ∧ t.mem = s.mem ∧ t.th.a.pc = following s.th ∧
        tileAt t cl e m.acc = mmaTile { tileAt s cl e m.acc with cl := cl, crew := e, acc := m.acc } m (entryData s a m.dataA 0)
          (entryData s b m.dataB 2) ∧
        ringAt t m.cl (ctxOf s.th) m.ra = some (if m.ka then a else a.pop) ∧ ringAt t m.cl (ctxOf s.th) m.rb = some (if m.kb then b else b.pop)) ∧
    (∀ mem, s.th.status = .waiting .saveBlock → s.th.crew = some (cl, e, mem) → e < 4 →
      (s.eng.tiles.filter (fun x => x.cl = cl ∧ x.present)).length < 8 →
      ∃ t, exec .tileSwap (due s (.tileSwap (cl * 4 + e) acc)) = .next t ∧ (tileAt t cl e acc).present = true ∧
        (tileAt t cl e acc).data = (tileAt s cl e acc).data ∧ Still t s) ∧
    (s.th.ctx = ctx → s.th.status = .running → s.th.chain = [] → s.th.fork = none → s.th.deferral = [] → s.rest = [] → s.wk.saved = [] →
      (∀ k ∈ s.sys.kills, k.ctx ≠ ctx) → replayOf s (cdPart s ctx) = none → replayPart s (cdPart s ctx) = false →
      (∀ x ∈ s.coh.dir, x.queue = []) →
      ∃ t, exec .killWrite (due s (.killWrite ctx)) = .next t ∧ t.th.status = .vacant ∧ Event.contextKill ctx ∈ t.agenda ∧ t.mem = s.mem ∧
        t.sys.kills = { ctx := ctx, due := clustersOf s (cdPart s ctx), blocks := none } :: s.sys.kills) ∧
    (∀ k, s.sys.kills.find? (fun x => x.ctx = ctx) = some k → s.coh.l1 = [] → (∀ g ∈ k.due, Unfetched s g) →
      ∃ t, exec .contextKill (due s (.contextKill ctx)) = .next t ∧ Still t s ∧
        (∀ c ∈ t.eng.fifo ++ t.eng.active, c.ctx ≠ (cdXlctx s ctx).bits 63 52) ∧ (∀ x ∈ t.eng.subs, x.ctx ≠ (cdXlctx s ctx).bits 63 52) ∧
        (∀ r ∈ t.eng.rings, r.ctx = (cdXlctx s ctx).bits 63 52 → inPart s (cdPart s ctx) r.cl = false) ∧
        (k.due = [] → Event.killStampWrite ctx ∈ t.agenda) ∧ ∀ g ∈ k.due, Event.fenceOutAcknowledgement ctx g ∈ t.agenda) ∧
    (s.sys.kills = [{ ctx := ctx, due := [cl], blocks := none }] → engineWriting s ctx cl = false →
      ∃ t, exec .fenceOutAcknowledgement (due s (.fenceOutAcknowledgement ctx cl)) = .next t ∧ Still t s ∧
        t.sys.kills = [{ ctx := ctx, due := [], blocks := none }] ∧ Event.killStampWrite ctx ∈ t.agenda) ∧
    (killDone s ctx = true →
      (atHole s (cdKillPa s ctx) = true →
        exec .killStampWrite (due s (.killStampWrite ctx)) = .fault (.hole (cdKillPa s ctx))) ∧
      (atHole s (cdKillPa s ctx) = false → WritableLine s (lineOf (cdKillPa s ctx)) → launchesOf s ctx = [] →
        s.sys.kills = [{ ctx := ctx, due := [], blocks := none }] → s.coh.dts = [] →
        ∃ t, exec .killStampWrite (due s (.killStampWrite ctx)) = .next t ∧ t.th = s.th ∧ t.rest = s.rest ∧
          t.mem.cells = elemPut s (cdKillPa s ctx) 8 (freeWord s).toNat ∧ t.sys.kills = [])) ∧
    (∀ f k tag p v, forkAt s f.id = some f → f.choice = some (uid, k) → f.rival k = some (uid, tag) → f.parentChain = [] →
      (∀ r ∈ f.rivals, r.2.1 = uid ∨ r.2.2.2 = false) → s.wk.saved = [p] → s.rest = [] → p.uid = f.parent → p.uid ≠ uid → p.chain = [] →
      p.crew = none → s.th.status = .waiting (.choice f.id) → s.th.crew = none → s.th.deferral = [] → s.th.chunk.phase = .running →
      s.th.chunk.count = 0 → (∀ h ∈ s.coh.pinHolder, h.1 ≠ f.part) → viewLines s tag = [v] → WritableLine s v.line →
      touching s v.line 0 = [] → s.vw.fallen = [] → (∀ x ∈ s.vw.dirty, x.1 ≠ tag) → replayOf s f.part = none →
      (∀ x ∈ s.coh.dir, x.queue = [] ∧ x.busy ≠ some (.commit p.uid)) →
      ∃ t, exec .choiceEvent (due s (.choiceEvent f.id)) = .next t ∧ t.th.uid = uid ∧ t.th.status = .running ∧ t.th.chain = [] ∧
        t.th.world = p.world ∧ t.th.fork = p.fork ∧ t.th.a = s.th.a ∧ t.wk.saved = [] ∧ forkAt t f.id = none ∧ tag ∉ t.vw.tags ∧
        t.mem.cells = cellsWriteMask s.mem.cells v.line v.masked) ∧
    (∀ pc name data scope, s.th.deferral = [.send pc name data false scope] → clusterHalted s (clusterOf s.th.core) = false → Quiet s →
      NoReplay s → sendReady s s.th name = none → nameDev name = ownDev s → (∀ x ∈ s.rep.skips, x.part ≠ s.th.part) → s.th.chunk.dirty = [] →
      ∃ t m, exec .deferredEntryPerform (due s (.deferredEntryPerform uid)) = .next t ∧ t.th.deferral = [] ∧ t.th.status = .running ∧
        t.th.a.pc = s.th.a.pc ∧ t.mem = s.mem ∧ t.coh.net = s.coh.net ++ [m] ∧ m.data = data ∧ m.core = mailCore s name ∧
        Event.messageArrival 0 ∈ t.agenda)

/-! ### Steps of the schedulers -/

namespace Sys2Proof.Claims

/-- The front thread is marked for eviction, and the eviction is due (R214, R450). -/
def Marked (t s : State) : Prop :=
  t.th = { s.th with marked := true } ∧ Event.threadEviction s.th.uid ∈ t.agenda ∧ t.mem = s.mem

/-- The front thread is to leave at its next pre-emption point (R203). -/
def Leaves (t s : State) : Prop :=
  t.th = { s.th with leave := true } ∧ Event.threadEviction s.th.uid ∈ t.agenda ∧ t.mem = s.mem

end Sys2Proof.Claims

/-- R79, R187-R194, R200, R409, R453: the steps of queues and distributors: a due granule comes back from the save area; a context leaves a core with
its last thread, and its scratchpad is switched out with the last of the cluster; it is switched in where a thread is; a changed tail has its record
taken, or stops its queue on an overrun; an accepted record enters the launch table and HEAD counts it; a distributor hands a cluster up to 256
indices; a die without indices takes the upper part of another's share; a queue that has waited is raised a level; a thief takes a record.
The model's own: the division of ranges and which end of a share moves (notes/assumptions/14.md); a completion that must follow a write
comes again until that has been performed (notes/assumptions/63.md). -/
def Obligations.WorkSteps : Prop :=
  ∀ (s : State) (cl ctx core q n p : Nat) (l : Launch) (g : Range) (u : State),
    (∀ a off ph, allocOf s cl ctx = some a → Assoc.get a.due off = some ph → a.resident = false ∨ restoreNext s a off = false →
      exec .granuleRestore (due s (.granuleRestore cl ctx off)) = .next (post (done s) (.granuleRestore cl ctx off))) ∧
    (∀ a off ph, allocOf s cl ctx = some a → Assoc.get a.due off = some ph → a.resident = true → restoreNext s a off = true →
      ∃ t b, exec .granuleRestore (due s (.granuleRestore cl ctx off)) = .next t ∧ allocOf t cl ctx = some b ∧
        Assoc.get b.present off = some ph ∧ off ∉ b.saved ∧ t.th = s.th ∧ t.rest = s.rest ∧
        t.mem.cells = cellsWriteMask s.mem.cells (localPa s (scratchPa cl (ph * granuleBytes)))
          ((cellsRead s.mem.cells (savePa s cl ctx off) granuleBytes).map some)) ∧
    ((∀ x ∈ onCore s core, ctxOf x ≠ ctx) → (ccOf s core ctx).resident = true →
      let area := lineOf (cdState s ctx + 0x2000 * core)
      (∀ x ∈ threads s, ∀ line, area ≤ line → line < area + 0x2000 → x.chunk.touches line = false) →
      ∃ t, exec .contextSwitchOut (due s (.contextSwitchOut core ctx)) = .next t ∧ (ccOf t core ctx).resident = false ∧ t.th = s.th ∧
        t.rest = s.rest ∧ OnlyAt t s area 0x2000 ∧
        ∀ a, (∀ x ∈ threadsOf s (clusterOf core), ctxOf x ≠ ctx) → allocOf s (clusterOf core) ctx = some a →
          ∃ b, allocOf t (clusterOf core) ctx = some b ∧ b.resident = false ∧ b.present = a.present) ∧
    ((∃ x ∈ onCore s core, ctxOf x = ctx) → exec .contextSwitchIn (due s (.contextSwitchIn core ctx)) =
      .next (setCc (done s) core ctx { ccOf s core ctx with resident := true })) ∧
    (scanned s q = true → statusDue s q = true →
      exec .queueTailChange (due s (.queueTailChange q)) = .next (post (done s) (.queueTailChange q)) ∧
      exec .launchRecordTake (due s (.launchRecordTake q)) = .next (post (done s) (.launchRecordTake q))) ∧
    (scanned s q = true → statusDue s q = false → tailDiff (done s) q = .ok (n, u) →
      (n = 0 → exec .queueTailChange (due s (.queueTailChange q)) = .next u) ∧
      (0 < n → n ≤ 2 ^ qtLogn u q →
        ∃ t, exec .queueTailChange (due s (.queueTailChange q)) = .next t ∧ Event.launchRecordTake q ∈ t.agenda ∧ Still t u) ∧
      (2 ^ qtLogn u q < n →
        ∃ t, exec .queueTailChange (due s (.queueTailChange q)) = .next t ∧ qtEn t q = false ∧ ctlBits t (vfAddr (qtVf u q) 0x10) 4 4 = 1) ∧
      (∀ lnum bs v gs w x0 w1, 0 < n → n ≤ 2 ^ qtLogn u q → freeLnum s = some lnum → replayOf u (cdPart u (qtCtx u q)) = none →
        replayPart u (cdPart u (qtCtx u q)) = false → chooseQueue u scannerNo (takeable u q) (fun _ => 256) = some q →
        deviceRead u (whoQueue u q) (qtBase u q + 64 * ((qsOf u q).head % 2 ^ qtLogn u q)) 64 = .ok (bs, v) →
        checkRecord v (whoQueue v q) (leNat bs) = .ok (1, gs, w) →
        writeXlate w (whoQueue v q) (qtBase u q + 64 * ((qsOf u q).head % 2 ^ qtLogn u q) + 11) = (.ok x0, w1) →
        ∃ t x, exec .launchRecordTake (due s (.launchRecordTake q)) = .next t ∧ x ∈ t.wk.launches ∧ x.lnum = lnum ∧ x.queue = q ∧
          x.record = leNat bs ∧ x.groups = gs ∧ (qsOf t q).head = ((qsOf w1 q).head + 1) % 2 ^ 64)) ∧
    (partOfCl s cl = some p → admitting s cl = true → (clWork s cl).ranges.length < 2 → sharesAt s p (dieOf cl) = [(l, g)] → 0 < g.count →
      ∃ t, exec .rangeRequest (due s (.rangeRequest cl)) = .next t ∧ g ∉ t.wk.shares ∧ Still t s ∧
        (clWork t cl).ranges = (clWork s cl).ranges ++ [{ place := cl, lnum := l.lnum, first := g.first, count := min 256 g.count }]) ∧
    (∀ d, p < 20 → dieInPart s p d = true → s.wk.shares = [g] → launchOf s g.lnum = some l → l.part = p → vfTurn s p l.vf = true →
      g.place < 8 → g.place ≠ d → 0 < g.count →
      ∃ t r, exec .shareRebalance (due s (.shareRebalance d)) = .next t ∧ r ∈ t.wk.shares ∧ r.place = d ∧ r.lnum = g.lnum ∧
        r.first + r.count = g.first + g.count ∧ (r.count + 255) / 256 = ((g.count + 255) / 256 + 1) / 2 ∧ Still t s ∧
        (256 < g.count → ∃ r' ∈ t.wk.shares, r'.place = g.place ∧ r'.lnum = g.lnum ∧ r'.first = g.first ∧ r'.first + r'.count = r.first)) ∧
    (∀ launch, launch = true ∧ oldestLaunch s q = some l ∨ launch = false ∧ hasRecord (done s) q = true →
      ∃ t, exec .priorityAging (due s (.priorityAging q launch)) = .next t ∧ levelOf t q = min 3 (qtPrio s q + 1) ∧ Still t s) ∧
    (∀ launch, launch = true ∧ oldestLaunch s q = none ∨ launch = false ∧ hasRecord (done s) q = false →
      exec .priorityAging (due s (.priorityAging q launch)) = .next (done s)) ∧
    (∀ victim r, partOfCl s cl = some p → idle s cl = true → admitting s cl = true → clusterHalted s victim = false →
      victim ∉ s.coh.fencedCl → inPart s p victim = true → (clWork s victim).deque = [r] → r.bound = false → mayHost (done s) cl r = true →
      ∃ t, exec .stealProbe (due s (.stealProbe cl victim)) = .next t ∧ (clWork t cl).deque = [r] ∧ (clWork t victim).deque = [] ∧ Still t s)

/-- R191, R198-R214, R390, R450: the steps of the clusters' schedulers: the next index becomes a thread at the launch's KPC; waits for granules and
slots mark a thread; a long miss is noted; a marked thread between chunks is saved with its start state; a saved thread whose wake condition holds is
resumed, and only then; a launch without work left is complete; a slice passes to the function with work, and the last one's threads are marked; a
pending trap is delivered. That a completion block which is not yet performed has the completion come again is the model's own
(notes/assumptions/63.md). -/
def Obligations.ThreadSteps : Prop :=
  ∀ (s : State) (cl core slot n p : Nat) (l : Launch) (g : Range) (u : State),
    let uid := s.th.uid
    (s.th.status = .vacant → (∀ x ∈ s.rest, x.core = core → x.slot ≠ slot) → admitting s (clusterOf core) = true →
      (clWork s (clusterOf core)).resume = [] → (clWork s (clusterOf core)).deque = [] → firstRange s (clusterOf core) = some (l, g) →
      mayAdmit (done s) core (rangeRec l g) = some u → (groupsOf l g.first).length ≤ 4 →
      ∃ t, exec .recordAdmission (due s (.recordAdmission core slot)) = .next t ∧ t.th.status = .running ∧ t.th.core = core ∧
        t.th.slot = slot ∧ t.th.index = g.first ∧ t.th.lnum = l.lnum ∧ t.th.part = l.part ∧ t.th.nreg = l.nreg ∧ t.th.nsoft = l.nsoft ∧
        t.th.a.pc = BitVec.ofNat 64 l.kpc ∧ (nReg t.th.a 0).val = BitVec.ofNat 64 l.args ∧ t.th.a.level = 0 ∧ t.th.a.sup = false) ∧
    (s.rest = [] → s.th.status ≠ .vacant → clusterOf s.th.core = cl → clusterHalted s cl = false →
      (waitingRecs (done s) cl).any (lacksGranules (done s) cl) = true →
        ∃ t, exec .granulePlacementEviction (due s (.granulePlacementEviction cl)) = .next t ∧ Leaves t s) ∧
    (clusterOf s.th.core = cl → clusterHalted s cl = false → admitting s cl = true →
      ((∃ cs ∈ slotWaits (done s) cl, s.th.core ∈ cs) → s.th.status = .running → s.th.marked = false →
        (∀ x ∈ threadsOf s cl, waitsAtPoint s x = false) → (∀ x ∈ s.rest, x.core = s.th.core → s.th.since ≤ x.since ∧ x.marked = false) →
          ∃ t, exec .slotWaitMark (due s (.slotWaitMark cl)) = .next t ∧ Marked t s) ∧
      (∀ cs, slotWaits (done s) cl = [cs] → s.th.core ∈ cs → waitsAtPoint s s.th = true → (∀ x ∈ s.rest, s.th.waited ≤ x.waited) →
          ∃ t, exec .slotWaitMark (due s (.slotWaitMark cl)) = .next t ∧ Event.threadEviction uid ∈ t.agenda ∧ Still t s)) ∧
    (∀ line, s.th.status = .waiting (.memory line) → atLoad s.th = false ∨ s.th.pinned = true →
      exec .longMissTimeout (due s (.longMissTimeout uid)) = .next (done s)) ∧
    (∀ line, s.th.status = .waiting (.memory line) → atLoad s.th = true → s.th.pinned = false →
      ∃ t, exec .longMissTimeout (due s (.longMissTimeout uid)) = .next t ∧ t.th.longMiss = true ∧ t.th.status = s.th.status ∧
        t.th.a = s.th.a ∧ t.mem = s.mem) ∧
    (s.rest = [] → s.th.status = .running → s.th.marked = true → s.th.pinned = false → s.th.chunk.phase = .running → s.th.chunk.count = 0 →
      s.th.pendTrap = none → clusterHalted s (clusterOf s.th.core) = false → blockFree s s.th = true → (∀ x ∈ s.coh.dir, x.queue = []) →
      ∃ t x r, exec .threadEviction (due s (.threadEviction uid)) = .next t ∧ t.th.status = .vacant ∧ x ∈ t.wk.saved ∧ x.uid = uid ∧
        x.a = s.th.chunk.start ∧ x.status = .running ∧ r ∈ (clWork t (homeCluster s.th)).resume ∧ r.saved = some uid ∧
        r.code = s.th.chunk.start.pc ∧ t.mem = s.mem) ∧
    (∀ x w, s.wk.saved.find? (fun y => y.uid = n) = some x → x.status = .waiting w → listed s n = false →
      (wakes (done s) x w = true →
        ∃ t r, exec .wakeConditionMet (due s (.wakeConditionMet n)) = .next t ∧ r.saved = some n ∧ Still t s ∧
          (clWork t (homeCluster x)).resume = (clWork s (homeCluster x)).resume ++ [r]) ∧
      (wakes (done s) x w = false →
        exec .wakeConditionMet (due s (.wakeConditionMet n)) = .next (postOnce (done s) (.wakeConditionMet n)))) ∧
    (launchOf s n = some l →
      (l.block = none ∧ launchBusy s n = false ∧ (∀ k ∈ s.sys.kills, k.ctx ≠ l.ctx) ∧ dirtyCores s l = [] ∧ launchReleased s l = true ∧
          l.cblk = 0) ∨ (∃ pas, l.block = some pas ∧ ∀ pa ∈ pas, writeDue s pa = false) →
      ∃ t, exec .launchCompletion (due s (.launchCompletion n)) = .next t ∧ launchOf t n = none ∧ Still t s ∧
        (qtIrq s l.queue = true → ctlBits t (vfAddr l.vf 0x10) 0 0 = 1)) ∧
    (∀ pas, launchOf s n = some l → l.block = some pas → (∃ pa ∈ pas, writeDue s pa = true) →
      exec .launchCompletion (due s (.launchCompletion n)) = .next (post (done s) (.launchCompletion n))) ∧
    (launchOf s n = some l → l.block = none → launchBusy s n = true →
      exec .launchCompletion (due s (.launchCompletion n)) = .next (done s)) ∧
    (launchOf s n = some l → l.block = none → launchBusy s n = false → (∀ k ∈ s.sys.kills, k.ctx ≠ l.ctx) → dirtyCores s l = [] → launchReleased s l = false →
      exec .launchCompletion (due s (.launchCompletion n)) = .next (post (done s) (.launchCompletion n))) ∧
    (∀ v cur, Assoc.get s.sys.curVf p = some cur → v < 256 → v ≠ cur → vfWork s p v = true →
      (∀ w, w < 256 → w ≠ cur → w ≠ v → vfWork s p w = false) →
      ∃ t, exec .vfSliceEnd (due s (.vfSliceEnd p)) = .next t ∧ Assoc.get t.sys.curVf p = some v ∧ t.mem = s.mem ∧
        (s.th.status ≠ .vacant → s.th.part = p → s.th.vf = cur → Marked t s)) ∧
    (∀ tr, s.th.status = .waiting .commit → s.th.pendTrap = some tr → s.th.chunk.phase = .running → s.th.a.level = 0 →
      s.th.kern.handler ≠ 0 → tr.cause ≠ 0x11 →
      exec .trapDelivery (due s (.trapDelivery uid)) = .next (deliverTrap (done s) tr s.th.a.pc))

/-! ### Debug modules, trace, samples, Sillage -/

namespace Sys2Proof.Claims

/-- Bytes that an area of a cluster's trace buffer holds (R423). -/
def areaBytes (s : State) (cl area : Nat) : List Byte :=
  (s.dbg.trace.filter (fun e => e.1 = cl ∧ e.2.1 = area)).map (fun e => e.2.2.2)

/-- An area without a ring in memory (R418). -/
def NoRing (s : State) (cl area : Nat) : Prop := (ctlGet s (dmAddr cl (0x108 + 0x20 * area))).bits 4 0 = 0

/-- A register of a thread as DTSEL numbers it, up to the pc and the register-pending bits, of which none is ever set between steps (R418). -/
def itemOf (a : Arch) (k : Nat) : Option Word :=
  if k < 16 then some (qReg a k).val
  else if k < 0x3c then some (nReg a (k - 16)).val
  else if k = 0x3c then some a.pc
  else if k = 0x3d then some 0
  else none

/-- A write of one: a pc has two zero bits at its end (R418). -/
def itemPut (k : Nat) (v : Word) : Option (Arch → Arch) :=
  if k < 16 then some (fun a => { a with q := a.q.set k (Reg.of v) })
  else if k < 0x3c then some (fun a => { a with n := a.n.set (k - 16) (Reg.of v) })
  else if k = 0x3c then some (fun a => { a with pc := v &&& ~~~3#64 })
  else if k = 0x3d then some id
  else none

/-- Results of filter instructions that write a register: the register and the value (R433). -/
def filterOf (i : Instr) (r : FilterRun) : Option (Fin 8 × Word) :=
  match i with
  | .filterLdev d n => some (d, r.ev.fields.getD n.val 0)
  | .filterLi d imm => some (d, BitVec.ofInt 64 imm.toInt)
  | .filterMulu d a b => some (d, BitVec.ofNat 64 ((r.reg a).toNat * (r.src b).toNat))
  | .filterAdd d a b => some (d, BitVec.ofNat 64 ((r.reg a).toNat + (r.src b).toNat))
  | .filterSub d a b => some (d, BitVec.ofNat 64 ((r.reg a).toNat + 2 ^ 64 - (r.src b).toNat))
  | .filterAnd d a b => some (d, r.reg a &&& r.src b)
  | .filterOr d a b => some (d, r.reg a ||| r.src b)
  | .filterXor d a b => some (d, r.reg a ^^^ r.src b)
  | .filterShl d a b => some (d, BitVec.ofNat 64 ((r.reg a).toNat * 2 ^ ((r.src b).toNat % 64)))
  | .filterShr d a b => some (d, BitVec.ofNat 64 ((r.reg a).toNat / 2 ^ ((r.src b).toNat % 64)))
  | .filterMin d a b => some (d, BitVec.ofNat 64 (min (r.reg a).toNat (r.src b).toNat))
  | .filterMax d a b => some (d, BitVec.ofNat 64 (max (r.reg a).toNat (r.src b).toNat))
  | _ => none

/-- Filter branches: the condition and the offset (R433). -/
def filterJump (i : Instr) (r : FilterRun) : Option (Prop × Nat) :=
  match i with
  | .filterBeq a b off => some (r.reg a = r.reg b, off.val)
  | .filterBne a b off => some (r.reg a ≠ r.reg b, off.val)
  | .filterBltu a b off => some ((r.reg a).toNat < (r.reg b).toNat, off.val)
  | .filterBgeu a b off => some ((r.reg b).toNat ≤ (r.reg a).toNat, off.val)
  | .filterBr off => some (True, off.val)
  | _ => none

/-- After a filter instruction: the run at the head goes on with given registers and index, one instruction is counted, and neither threads nor
memory have changed (R431, R433). -/
def Ran (t s : State) (r : FilterRun) (rs : List FilterRun) (regs : List Word) (pc : Nat) : Prop :=
  t.dbg.runs = { r with regs := regs, pc := pc, count := r.count + 1 } :: rs ∧ Still t s

/-- The object area's bytes outside a range are as they were (R434). -/
def SramElse (t s : State) (die a n : Nat) : Prop := ∀ b, b < a ∨ a + n ≤ b → sramByte t die b = sramByte s die b

end Sys2Proof.Claims

/-- R416-R423, R426, R462: a halt stops a cluster's threads and shows in DSTAT; a release lets them wait or run as before; a cluster that subscribes
halts with cause 4; DTDATA answers or writes the selected item while the cluster is halted, and is refused while it is not; a write of TRBASE starts
TRHEAD at 0; a change of a core's trace state is noted; a span repeats the state with 2^30 - 1 cycles; sampling without token holders takes none; a
stretched clock is counted in DSTRETCH. -/
def Obligations.DebugSteps : Prop :=
  ∀ (s : State) (cl core k : Nat) (v : Word),
    (s.rest = [] → s.th.status ≠ .vacant → clusterOf s.th.core = cl → clusterHalted s cl = false → (∀ x ∈ s.coh.dir, x.queue = []) →
      ∃ t, exec .dctlHalt (due s (.dctlHalt cl)) = .next t ∧ clusterHalted t cl = true ∧
        ((∀ w, s.th.status = .waiting w → w ≠ .commit → midChunk s.th = false → t.th = { s.th with status := .halted (some w) } ∧
            t.mem = s.mem ∧ ctlBits t (dmAddr cl 0x88) 0 0 = 1 ∧ ctlBits t (dmAddr cl 0x88) 7 4 = 0) ∧
         (s.th.status = .running ∨ (∃ w, s.th.status = .waiting w) → midChunk s.th = true → poisonedRead s s.th.chunk = false →
            s.th.chunk.dirty = [] → s.th.chunk.writes ≠ [] →
            t.th.status = .halted none ∧ t.th.chunk.phase = .requesting ∧ t.th.a = s.th.a ∧ t.mem = s.mem ∧
              ∀ h ∈ homesOf s.th.chunk, Event.commitRequest h s.th.uid (incOf s cl) ∈ t.agenda) ∧
         (s.th.status = .running → s.th.boundary = true → t.th = { s.th with status := .halted none } ∧ t.mem = s.mem))) ∧
    (s.rest = [] → s.th.status ≠ .vacant → clusterOf s.th.core = cl → clusterHalted s cl = true →
      ∃ t, exec .dctlRel (due s (.dctlRel cl)) = .next t ∧ clusterHalted t cl = false ∧ ctlBits t (dmAddr cl 0x88) 0 0 = 0 ∧ t.mem = s.mem ∧
        (∀ w, s.th.status = .halted (some w) → t.th = { s.th with status := .waiting w }) ∧
        (s.th.status = .halted none → s.th.chunk.phase = .running → s.th.pendTrap = none → t.th = { s.th with status := .running })) ∧
    (ctlBits s (dmAddr cl 0x90) 0 0 = 0 → exec .crossTriggerHalt (due s (.crossTriggerHalt cl)) = .next (done s)) ∧
    (ctlBits s (dmAddr cl 0x90) 0 0 = 1 → clusterHalted s cl = false → threadsOf s cl = [] →
      ∃ t, exec .crossTriggerHalt (due s (.crossTriggerHalt cl)) = .next t ∧ clusterHalted t cl = true ∧ Still t s ∧
        ctlBits t (dmAddr cl 0x88) 0 0 = 1 ∧ ctlBits t (dmAddr cl 0x88) 2 2 = 1 ∧ ctlBits t (dmAddr cl 0x88) 7 4 = 4) ∧
    (clusterHalted s cl = false → ∀ w, ∃ t, exec .dtdataAccess (due s (.dtdataAccess cl w)) = .next t ∧ Still t s ∧
      ctlBits t (dmAddr cl 0x88) 3 3 = 1 ∧ t.sys.answers = s.sys.answers ++ (if w = none then [.value 0] else [])) ∧
    (clusterHalted s cl = true → dtThread s cl = some s.th → dtItem s cl = k →
      (∀ x, itemOf s.th.a k = some x ∨ (0x400 ≤ k ∧ csrAssigned (k - 0x400) = true ∧ x = csrRead s s.th (k - 0x400)) →
        ∃ t, exec .dtdataAccess (due s (.dtdataAccess cl none)) = .next t ∧ Still t s ∧ t.sys.answers = s.sys.answers ++ [.value x]) ∧
      (∀ put, itemPut k v = some put →
        ∃ t, exec .dtdataAccess (due s (.dtdataAccess cl (some v))) = .next t ∧ t.th.a = put s.th.a ∧ t.th.chunk.start = put s.th.chunk.start ∧
          t.mem = s.mem ∧ t.sys.answers = s.sys.answers) ∧
      (0x400 ≤ k → csrAssigned (k - 0x400) = true →
        ∃ t, exec .dtdataAccess (due s (.dtdataAccess cl (some v))) = .next t ∧ t.th.a = (csrWrite (done s) s.th (k - 0x400) v false).th.a ∧
          t.sys.answers = s.sys.answers) ∧
      (0x3e ≤ k → k < 0x400 ∨ csrAssigned (k - 0x400) = false →
        ∀ w, ∃ t, exec .dtdataAccess (due s (.dtdataAccess cl w)) = .next t ∧ Still t s ∧ ctlBits t (dmAddr cl 0x88) 3 3 = 1)) ∧
    (clusterHalted s cl = true → dtThread s cl = none →
      ∀ w, ∃ t, exec .dtdataAccess (due s (.dtdataAccess cl w)) = .next t ∧ Still t s ∧ ctlBits t (dmAddr cl 0x88) 3 3 = 1) ∧
    (NoRing s cl k ∨ areaBytes s cl k = [] →
      ∃ t, exec .trbaseWrite (due s (.trbaseWrite cl k v)) = .next t ∧ Still t s ∧ ctlGet t (dmAddr cl (0x100 + 0x20 * k)) = v ∧
        ctlGet t (dmAddr cl (0x110 + 0x20 * k)) = 0 ∧ areaBytes t cl k = areaBytes s cl k) ∧
    (∃ t, exec .traceStateChange (due s (.traceStateChange core)) = .next t ∧ lastTraced t core = traceState s core ∧
      (NoRing s (clusterOf core) (core % 4) → Still t s) ∧ (lastTraced s core = traceState s core → t = done s)) ∧
    (NoRing s (clusterOf core) (core % 4) → areaBytes s (clusterOf core) (core % 4) = [] →
      ∃ t, exec .traceSpanRecord (due s (.traceSpanRecord core)) = .next t ∧ Still t s ∧
        areaBytes t (clusterOf core) (core % 4) =
          (if clusterOf core ∈ s.dbg.traceOff then [] else leBytes 4 (lastTraced s core * 2 ^ 30 + (2 ^ 30 - 1)))) ∧
    (ctlGet s (dmAddr cl 0x98) = 0 → exec .samplePeriod (due s (.samplePeriod cl)) = .next (done s)) ∧
    (ctlGet s (dmAddr cl 0x98) ≠ 0 → (∀ c ∈ coresOf cl, tokenHolders s c = []) →
      ∃ t, exec .samplePeriod (due s (.samplePeriod cl)) = .next t ∧ Still t s ∧ t.dbg = { s.dbg with skipped := t.dbg.skipped } ∧
        ∀ c ∈ coresOf cl, Assoc.getD t.dbg.skipped c 0 = Assoc.getD s.dbg.skipped c 0 + 1) ∧
    (∀ x, ctlGet s (dmAddr cl 0x98) ≠ 0 → core ∈ coresOf cl → tokenHolders s core = [x] → (∀ c ∈ coresOf cl, c ≠ core → tokenHolders s c = []) →
      NoRing s cl 4 → areaBytes s cl 4 = [] →
      ∃ t, exec .samplePeriod (due s (.samplePeriod cl)) = .next t ∧ Still t s ∧
        (areaBytes t cl 4 = [] ∧ Assoc.getD t.dbg.skipped core 0 = Assoc.getD s.dbg.skipped core 0 + 1 ∨
          (areaBytes t cl 4).take 16 = leBytes 8 x.a.pc.toNat ++ leBytes 6 x.index ++ leBytes 2 x.core ∧
            Assoc.getD t.dbg.skipped core 0 = Assoc.getD s.dbg.skipped core 0)) ∧
    (core ∈ s.dbg.sampleReq → tokenHolders s core = [] →
      ∃ t, exec .sampleRequestTake (due s (.sampleRequestTake core)) = .next t ∧ Still t s ∧ t.dbg.trace = s.dbg.trace ∧
        t.dbg.sampleReq = s.dbg.sampleReq.erase core ∧ Assoc.getD t.dbg.skipped core 0 = Assoc.getD s.dbg.skipped core 0 + 1) ∧
    (∀ x, core ∈ s.dbg.sampleReq → tokenHolders s core = [x] → NoRing s (clusterOf x.core) 4 → areaBytes s (clusterOf x.core) 4 = [] →
      ∃ t, exec .sampleRequestTake (due s (.sampleRequestTake core)) = .next t ∧ Still t s ∧
        (areaBytes t (clusterOf x.core) 4 = [] ∨
          (areaBytes t (clusterOf x.core) 4).take 16 = leBytes 8 x.a.pc.toNat ++ leBytes 6 x.index ++ leBytes 2 x.core)) ∧
    (∃ t, exec .clockStretch (due s (.clockStretch cl k)) = .next t ∧ Still t s ∧
      ctlGet t (dmAddr cl 0xa8) = BitVec.ofNat 64 (((ctlGet s (dmAddr cl 0xa8)).toNat + k) % 2 ^ 48))

/-- R427-R431, R434: the oldest event of a die starts each attachment that matches it, and waits while four programs run; an attachment without
budget drops it; budgets and export rates are refilled; an install checks length, words and last instruction; an uninstall takes the slot's
attachments with it; an attachment needs an installed slot of its owner; an object is validated and starts at zero, or refused; counters, removals
and the export head are as written. What the spec leaves open of objects, rings and budgets is as notes/assumptions/13.md says. -/
def Obligations.SillageSteps : Prop :=
  ∀ (s : State) (die n : Nat) (v : Word),
    let sp := spctl s die (v.bits 30 24)
    (∀ ev a, s.dbg.events.find? (fun e => e.die = die) = some ev → (s.dbg.runs.filter (fun r => r.die = die)).length < 4 →
      (List.range 32).filter (fun x => attMatches s die x ev) = [a] →
      ∃ t, exec .sillageEvent (due s (.sillageEvent die)) = .next t ∧ Still t s ∧ t.dbg.events = s.dbg.events.erase ev ∧
        (let supv := (atctl s die a).bits 16 16 == 1
         let slot := (atctl s die a).bits 30 24
         if supv = false ∧ leftOf s.dbg.budget die ev.vf < owedRuns s die ev.vf + spLen (spctl s die slot) then
           t.dbg.runs = s.dbg.runs ∧ tnReg t die ev.vf 1 = tnReg s die ev.vf 1 + 1
         else t.dbg.runs = s.dbg.runs ++
           [{ die := die, slot := slot, vf := ev.vf, supv := supv, ev := ev, pc := 0, regs := List.replicate 8 0, count := 0 }])) ∧
    ((∃ ev ∈ s.dbg.events, ev.die = die) → 4 ≤ (s.dbg.runs.filter (fun r => r.die = die)).length →
      exec .sillageEvent (due s (.sillageEvent die)) = .next (post (done s) (.sillageEvent die))) ∧
    (∃ t, exec .sillageBudgetRefill (due s (.sillageBudgetRefill die)) = .next t ∧ Still t s ∧
      ∀ f, f < 256 → leftOf t.dbg.budget die f = (tnReg s die f 0).bits 15 0 ∧ leftOf t.dbg.exportLeft die f = (tnReg s die f 4).bits 31 16) ∧
    (spV (spctl s die n) = false → v.bits 7 7 = 1 →
      ∃ t, exec .spctlInstall (due s (.spctlInstall die n v)) = .next t ∧ Still t s ∧
        let c := spctl t die n
        spOwner c = spOwner v ∧ spSupv c = spSupv v ∧ spLen c = spLen v ∧
        (spLen v = 0 ∨ 64 < spLen v → spV c = false ∧ c.bits 10 8 = 5) ∧
        (0 < spLen v → spLen v ≤ 64 →
          (∀ i, i < spLen v → filterStatus s die (spSupv v) (spOwner v) (spLen v) i (filterWordAt s die n i) = 0) →
          (bits (filterWordAt s die n (spLen v - 1)) 31 26 = 0x19 → spV c = true ∧ c.bits 10 8 = 0) ∧
          (bits (filterWordAt s die n (spLen v - 1)) 31 26 ≠ 0x19 → spV c = false ∧ c.bits 10 8 = 6))) ∧
    (spV (spctl s die n) = true → v.bits 7 7 = 0 → n < 128 →
      ∃ t, exec .spctlUninstall (due s (.spctlUninstall die n v)) = .next t ∧ Still t s ∧ spV (spctl t die n) = false ∧
        ∀ a, a < 32 → (atctl s die a).bits 30 24 = n → (atctl t die a).bits 0 0 = 0) ∧
    (v.bits 7 5 ≠ 7 →
      ∃ t, exec .atctlAttach (due s (.atctlAttach die n v)) = .next t ∧ Still t s ∧ (atctl t die n).bits 7 5 = v.bits 7 5 ∧
        (atctl t die n).bits 30 24 = v.bits 30 24 ∧ (atctl t die n).bits 39 32 = v.bits 39 32 ∧ (atctl t die n).bits 16 16 = v.bits 16 16 ∧
        ((atctl t die n).bits 0 0 = 1 ↔ spV sp = true ∧ (if v.bits 16 16 = 1 then spSupv sp = true else spOwner sp = v.bits 39 32))) ∧
    (∃ t, exec .atctlDetach (due s (.atctlDetach die n v)) = .next t ∧ Still t s ∧ (atctl t die n).bits 0 0 = 0) ∧
    (objV (obj0 s die n) = false → objV v = true →
      ∃ t, exec .objValidate (due s (.objValidate die n v)) = .next t ∧ Still t s ∧
        (objNeeds (objKind v) (obj1 s die n) = none → objV (obj0 t die n) = false) ∧
        ∀ k, objNeeds (objKind v) (obj1 s die n) = some k → 1 ≤ objSize v → objBase v + objSize v ≤ 3584 → objOverlaps s die n v = false →
          k ≤ 64 * objSize v → objV (obj0 t die n) = true ∧ objOwner (obj0 t die n) = objOwner v ∧
            (objKind v ≠ 3 → ∀ i, i < 64 * objSize v → sramByte t die (objAddr v + i) = 0)) ∧
    (v.bits 0 0 = 0 → ∃ t, exec .objRemove (due s (.objRemove die n v)) = .next t ∧ Still t s ∧ objV (obj0 t die n) = false) ∧
    (∃ t, exec .tgcntClear (due s (.tgcntClear die n)) = .next t ∧ Still t s ∧ ctlGet t (silAddr die (0xb008 + 0x20 * n)) = 0 ∧
      ctlGet t (silAddr die (0xb010 + 0x20 * n)) = 0) ∧
    (∃ t, exec .tnexpbaseWrite (due s (.tnexpbaseWrite die n v)) = .next t ∧ Still t s ∧ tnReg t die n 3 = v ∧ tnReg t die n 5 = 0)

/-- R426, R431-R436: what each filter instruction does for the run at the head: it delivers its value, branches, updates its histogram, sketch or
registers, reads a word of an object, asserts a trigger, exports a record, asks for a sample, or ends the run; each is charged to the tenant. -/
def Obligations.FilterPrograms : Prop :=
  ∀ (s : State) (r : FilterRun) (rs : List FilterRun), s.dbg.runs = r :: rs →
    let die := r.die
    let goesOn (i : Instr) (t : State) : Prop := exec i s = .next t ∧ Ran t s r rs r.regs (r.pc + 1)
    let sram (i : Instr) (o : Fin 64) (kind : Nat) (t : State) : Prop :=
      goesOn i t ∧ (objV (obj0 s die o.val) = false ∨ objKind (obj0 s die o.val) ≠ kind → t.dbg.sram = s.dbg.sram)
    (∀ i d v, filterOf i r = some (d, v) →
      exec i s = .next (setRuns (charge s r) ({ r with regs := r.regs.set d.val v, pc := r.pc + 1, count := r.count + 1 } :: rs))) ∧
    (∀ i c off, filterJump i r = some (c, off) →
      (c → ∃ t, exec i s = .next t ∧ Ran t s r rs r.regs (r.pc + off)) ∧ (¬ c → ∃ t, exec i s = .next t ∧ Ran t s r rs r.regs (r.pc + 1))) ∧
    (r.supv = false → leftOf (charge s r).dbg.budget die r.vf = leftOf s.dbg.budget die r.vf - 1) ∧
    (∀ (o : Fin 64) (a b : Fin 8),
      let w := obj0 s die o.val
      let p := obj1 s die o.val
      (∃ t, sram (.filterHinc o a b) o 0 t ∧ (objV w = true → objKind w = 0 →
        let at_ := objAddr w + 8 * histBin p (objLo s die o.val) (r.reg a)
        sramNat t die at_ 8 = min (sramNat s die at_ 8 + (r.reg b).toNat) (2 ^ 64 - 1) ∧ SramElse t s die at_ 8)) ∧
      (∃ t, sram (.filterCms o a b) o 1 t ∧ (objV w = true → objKind w = 1 → ∀ k, k < p.bits 11 8 →
        let lw := p.bits 15 12
        let at_ := objAddr w + 4 * (k * 2 ^ lw + ((r.reg a).toNat * (0x9e3779b97f4a7c15 + 2 * k)) % 2 ^ 64 / 2 ^ (64 - lw))
        sramNat t die at_ 4 = min (sramNat s die at_ 4 + (r.reg b).toNat) (2 ^ 32 - 1))) ∧
      (∃ t, sram (.filterHll o a) o 2 t ∧ (objV w = true → objKind w = 2 →
        let q := p.bits 7 4
        let x := ((r.reg a).toNat * 0xc2b2ae3d27d4eb4f) % 2 ^ 64
        let at_ := objAddr w + x / 2 ^ (64 - q)
        sramNat t die at_ 1 = max (sramNat s die at_ 1) (65 - bitLen (BitVec.ofNat 64 (x * 2 ^ q % 2 ^ 64 ||| 2 ^ (q - 1)))) ∧
          SramElse t s die at_ 1)) ∧
      (∀ d : Fin 8, ∃ t, exec (.filterLdo d o a) s = .next t ∧
        Ran t s r rs (r.regs.set d.val (if objV w = true ∧ (r.reg a).toNat < 8 * objSize w then
          BitVec.ofNat 64 (sramNat s die (objAddr w + 8 * (r.reg a).toNat) 8) else 0)) (r.pc + 1))) ∧
    (∀ (n : Fin 16) (a : Fin 8),
      let c := tgctl s die n.val
      let off := silAddr die (0xb000 + 0x20 * n.val)
      let cl := clusterOf r.ev.core
      (c.bits 3 3 = 0 → ∃ t, goesOn (.filterTrig n a) t ∧ t.sys.ctl = s.sys.ctl) ∧
      (c.bits 3 3 = 1 → c.bits 2 0 ≠ 4 → ∃ t, goesOn (.filterTrig n a) t ∧ ctlGet t (off + 8) = ctlGet s (off + 8) + 1 ∧
        (ctlGet s (off + 8) = 0 → ctlGet t (off + 0x10) = r.reg a) ∧
        (c.bits 2 0 = 1 → ctlBits t (vfAddr (spOwner c) 0x10) 3 3 = 1) ∧
        (c.bits 2 0 = 2 → cl ∉ t.dbg.traceOff) ∧ (c.bits 2 0 = 3 → cl ∈ t.dbg.traceOff)) ∧
      (c.bits 3 3 = 1 → c.bits 2 0 = 4 → ∃ t, exec (.filterTrig n a) s = .next t ∧ clusterHalted t cl = true)) ∧
    (∀ (a b : Fin 8) (tag : BitVec 8),
      let pa := expPa s r
      (expEnabled s r = false → ∃ t, goesOn (.filterExp a b tag) t ∧ t.sys.ctl = s.sys.ctl) ∧
      (expEnabled s r = true → expRoom s r = false →
        ∃ t, goesOn (.filterExp a b tag) t ∧ tnReg t die r.vf 7 = tnReg s die r.vf 7 + 1) ∧
      (expEnabled s r = true → expRoom s r = true → atHole s pa = true →
        ∃ t, goesOn (.filterExp a b tag) t ∧ tnReg t die r.vf 5 = tnReg s die r.vf 5 + 1) ∧
      (expEnabled s r = true → expRoom s r = true → atHole s pa = false → WritableLine s (lineOf pa) → s.coh.dts = [] →
        ∃ t, exec (.filterExp a b tag) s = .next t ∧ t.th = s.th ∧ tnReg t die r.vf 5 = tnReg s die r.vf 5 + 1 ∧
          t.mem.cells = cellsWriteMask s.mem.cells pa (([BitVec.ofNat 8 r.ev.code, tag, 0, 0, 0, 0, 0, 0] ++ leBytes 8 (r.reg a).toNat ++
            leBytes 8 (r.reg b).toNat ++ leBytes 8 (r.ev.fields.getD 7 0).toNat).map some))) ∧
    (∃ t, goesOn .filterSreq t ∧ t.dbg.sampleReq = s.dbg.sampleReq ++ [r.ev.core] ∧ Event.sampleRequestTake r.ev.core ∈ t.agenda) ∧
    (∃ t, exec .filterEnd s = .next t ∧ t.dbg.runs = rs ∧ Still t s)

/-! ### Checkpoints, the host, partitions and the fabric -/

namespace Sys2Proof.Claims

/-- A request that is answered with a refusal of its kind and changes nothing else (R443). -/
def Refuses (i : Instr) (e : Event) (s : State) (a : HostAns) : Prop := exec i (due s e) = .next (giveAnswer (done s) a)

/-- A firmware stage that verifies: its key is the one whose digest is fused, and its signature over its image's digest holds (R461). -/
def verified (b : BootStage) : Bool := sha256 b.key == Config.fusedKeyDigest && Config.signatureHolds b.key (sha256 b.image) b.signature

/-- A partition whose memory a write from outside may reach now (R85, R443). -/
def OpenTo (s : State) (p pa n : Nat) : Prop :=
  oneLine pa n = true ∧ outsideReady s p pa = true ∧ replayPart s p = false ∧ ∀ c, region (paLocal pa) ≠ .scratch c

/-- What a message from outside its target's partition leaves: for its sender it has gone (R439). -/
def SentOut (t s : State) (m : Mesg) : Prop :=
  ∀ q, m.srcDev = ownDev s → partOfCl s (clusterOf m.src) = some q →
    ∃ x, t.rep.done = s.rep.done ++ [x] ∧ x.part = q ∧ x.eff = .send m.dev m.core m.box m.data

/-- A write from outside performed at its home and recorded; one that changes any byte stamps its line (R115, R438). -/
def WroteFrom (t s : State) (p pa : Nat) (data : List (Option Byte)) : Prop :=
  t.mem.cells = cellsWriteMask s.mem.cells pa data ∧ t.th = s.th ∧ t.rest = s.rest ∧
    (data.any Option.isSome = true → stampOf t (lineOf pa) = max (stampOf s (lineOf pa)) (clockOf s linkClock) + 1) ∧
    ∃ e, t.rep.log = s.rep.log ++ [e] ∧ e.part = p ∧ e.identity = [] ∧ e.seq = 0 ∧ e.core = 2048 ∧ e.stamp = stampOf t (lineOf pa)

end Sys2Proof.Claims

/-- R3, R437-R440, R448, R461: a capture is taken once every thread stands, and takes the next sequence number; it is complete when the buddy has it;
an acknowledgement of the log releases what was held behind it; a rollback puts the last complete image's memory and threads back and has the log
replayed from there, and waits while pages of a fenced die have no new place; without an image, or at the third, the job is interrupted; an I/O
die's failure interrupts every job; boot runs four verified stages, or ends in recovery; an attestation report holds the measurements and the
host's nonce. The model's own: boot's images, signatures and measurements (notes/assumptions/15.md), the interrupt without an image
(notes/assumptions/49.md), the wait for names in use (notes/assumptions/50.md), the report's form (notes/assumptions/55.md), the remap that
a rollback carries (notes/assumptions/78.md). -/
def Obligations.RecoverySteps : Prop :=
  ∀ (s : State) (p upTo : Nat) (ck : Ckpt) (h : HeldOut) (a : HostAns),
    (pdState s p ≠ 1 → pdState s p ≠ 3 → exec .checkpoint (due s (.checkpoint p)) = .next (done s)) ∧
    (pdState s p = 1 → replayOf s p = none → rollbackDue s p = false →
      (cutReady s p = true → cutReady (cleanPart (done s) p) p = true →
        ∃ t c, exec .checkpoint (due s (.checkpoint p)) = .next t ∧ c ∈ t.rep.ckpts ∧ c.part = p ∧
          c.seqno = nextSeqno (cleanPart (done s) p) p ∧ c.complete = false ∧ nextSeqno t p = c.seqno + 1 ∧ Event.checkpointComplete p ∈ t.agenda ∧
          (s.coh.l1 = [] → (∀ u ∈ threads s, redoneAt p u = false) →
            c.logPos = logPos s p ∧ c.cells = s.mem.cells.filter (fun x => paInPart s p x.1 && !deadPa s x.1) ∧ t.mem = s.mem)) ∧
      (cutReady s p = true → cutReady (cleanPart (done s) p) p = false →
        ∃ t, exec .checkpoint (due s (.checkpoint p)) = .next t ∧ p ∈ t.rep.stopping ∧ Event.checkpoint p ∈ t.agenda ∧
          Still t (cleanPart (done s) p)) ∧
      (cutReady s p = false → ∃ t, exec .checkpoint (due s (.checkpoint p)) = .next t ∧ p ∈ t.rep.stopping ∧
        Event.checkpoint p ∈ t.agenda ∧ Still t s)) ∧
    (s.rep.ckpts = [ck] → ck.part = p → ck.complete = false →
      ∃ t, exec .checkpointComplete (due s (.checkpointComplete p)) = .next t ∧ lastCkpt t p = some { ck with complete := true } ∧ Still t s) ∧
    (s.rep.held = [h] → h.part = p → h.eff = .answer a →
      ∃ t, exec .logAcknowledgement (due s (.logAcknowledgement p upTo)) = .next t ∧ Still t s ∧
        ackedTo t p (min upTo (logLength s p)) = true ∧
        (ackedTo t p h.upTo = true → t.rep.held = [] ∧ t.sys.answers = s.sys.answers ++ [a]) ∧
        (ackedTo t p h.upTo = false → t.rep.held = [h] ∧ t.sys.answers = s.sys.answers)) ∧
    (pdValid s p = true → p ∉ s.sys.interrupted → lastCkpt s p = none ∨ liveClusters s p = [] ∨ 2 ≤ Assoc.getD s.rep.rollbacks p 0 →
      ∀ remap tables, ∃ t, exec .rollback (due s (.rollback p remap tables)) = .next t ∧ p ∈ t.sys.interrupted ∧ Still t s) ∧
    (pdValid s p = true → p ∉ s.sys.interrupted → lastCkpt s p = some ck → liveClusters s p ≠ [] → Assoc.getD s.rep.rollbacks p 0 < 2 →
      ∀ remap tables,
        let r := validRemap s p remap
        (imageBlocked s p ck = true ∨ covers s r ck = false →
          ∃ t, exec .rollback (due s (.rollback p remap tables)) = .next t ∧ p ∈ t.rep.stopping ∧ Event.rollback p remap tables ∈ t.agenda ∧
            Still t s) ∧
        (∀ e, imageBlocked s p ck = false → covers s r ck = true → s.coh.fencedCl = [] →
          ((partLog s p).drop ck.logPos).head? = some e → e.identity ≠ [] →
          ∃ t, exec .rollback (due s (.rollback p remap tables)) = .next t ∧ replayOf t p = some (ck.logPos, logLength s p) ∧
            Assoc.getD t.rep.rollbacks p 0 = Assoc.getD s.rep.rollbacks p 0 + 1 ∧
            t.mem.cells = cellsPutAll
              (cellsPutAll (s.mem.cells.filter (fun x => !paInPart s p x.1)) (ck.cells.map (fun c => (remapPa r c.1, c.2))))
              (tables.filter (fun c => paInPart s p c.1 && !deadPa s c.1)) ∧
            (s.th.part = p → t.th.status = .vacant) ∧
            ∀ x ∈ ck.resident, ∃ y ∈ t.wk.saved, y.uid = x.uid ∧ y.a = x.a.remapped r)) ∧
    (p < 20 → pdValid s p = true → ∀ die,
      ∃ t, exec .ioDieFailure (due s (.ioDieFailure die)) = .next t ∧ p ∈ t.sys.interrupted ∧ Still t s) ∧
    (s.sys.boot ≠ .off → ∀ ds, exec .boot (due s (.boot ds)) = .next (done s)) ∧
    (s.sys.boot = .off → ∀ b0 b1 b2 b3 : BootStage,
      (verified b0 = true → verified b1 = true → verified b2 = true → verified b3 = true →
        ∃ t, exec .boot (due s (.boot [b0, b1, b2, b3])) = .next t ∧ t.sys.boot = .booted ∧ Still t s) ∧
      (∀ bs, verified b0 = false → ∃ t, exec .boot (due s (.boot (b0 :: bs))) = .next t ∧ t.sys.boot = .recovery ∧
        (let r := (Config.measureRegister 0).val
         t.sys.measure = s.sys.measure.set r (sha256Pair (s.sys.measure.getD r 0) (sha256 b0.image))) ∧ Still t s) ∧
      exec .boot (due s (.boot [])) = .next { done s with sys := { s.sys with boot := .recovery } }) ∧
    (∀ fn w, ∃ t, exec .boot (due s (.firmwareUpdate fn w)) = .next t ∧ Still t s ∧ t.sys.boot = s.sys.boot ∧
      t.sys.answers = s.sys.answers ++ [if fn = .pf ∧ s.sys.boot ≠ .off then .firmware (freeWord s) else .refused]) ∧
    (∃ t, exec .rollback (due s (.copyLost p)) = .next t ∧ lastCkpt t p = none ∧ Still t s) ∧
    (∀ nonce, exec .boot (due s (.attestation nonce)) = .next (giveAnswer (done s)
      (if s.sys.boot = .booted then .report s.sys.measure nonce (Config.attest s.sys.measure nonce) else .refused)))

/-- R128, R352-R354, R443-R447, R454-R458, R476: host writes, reads and sequenced operations reach the memory of the function's partition, and no
other, the writes of one window in order; descriptors, counters and routes take what is written; routes go and return, and an access held too long is
told; a request of another device needs its job; a message enters its mailbox, or leaves for another device, when it may. The model's own:
that before a boot has succeeded every access is refused (notes/assumptions/23.md), that arrivals are logged (notes/assumptions/47.md), and
the place of a host write in its window's order (notes/assumptions/80.md). -/
def Obligations.HostAccesses : Prop :=
  ∀ (s : State) (fn : HostFn) (win place pa p off n : Nat) (data : List (Option Byte)) (v : Word),
    (s.sys.boot ≠ .booted ∨ (isControl pa = false ∧ hostPart s fn pa = none) →
      Refuses .hostWrite (.hostWrite fn win place pa data) s .writeRefused ∧ Refuses .hostRead (.hostRead fn pa n) s .readRefused ∧
      Refuses .hostSequencedOperation (.hostSequencedOperation fn pa (.write data)) s .writeRefused ∧
      Refuses .hostSequencedOperation (.hostSequencedOperation fn pa (.read n)) s .readRefused) ∧
    (s.sys.boot = .booted → isControl pa = false → hostPart s fn pa = some p → weightRefused s p pa true = true ∨ replayPart s p = true →
      Refuses .hostWrite (.hostWrite fn win place pa data) s .writeRefused ∧
      Refuses .hostSequencedOperation (.hostSequencedOperation fn pa (.write data)) s .writeRefused) ∧
    (s.sys.boot = .booted → isControl pa = false → hostPart s fn pa = some p → weightRefused s p pa false = true →
      Refuses .hostRead (.hostRead fn pa n) s .readRefused) ∧
    (s.sys.boot = .booted → hostPart s fn pa = some p → weightRefused s p pa true = false → OpenTo s p pa data.length →
      (hostBehind s win place = false → ∃ t, exec .hostWrite (due s (.hostWrite fn win place pa data)) = .next t ∧ WroteFrom t s p pa data) ∧
      (hostBehind s win place = true → exec .hostWrite (due s (.hostWrite fn win place pa data)) =
        .next (post (done s) (.hostWrite fn win place pa data))) ∧
      (s.sys.ticketQueue = [] → ∃ t, exec .hostSequencedOperation (due s (.hostSequencedOperation fn pa (.write data))) = .next t ∧
        WroteFrom t s p pa data ∧ t.sys.ticket = s.sys.ticket + 1 ∧
        Assoc.getD t.sys.performed (homeOf pa) 0 = max s.sys.ticket (Assoc.getD s.sys.performed (homeOf pa) 0)) ∧
      (s.sys.ticketQueue ≠ [] → exec .hostSequencedOperation (due s (.hostSequencedOperation fn pa (.write data))) =
        .next (post (done s) (.hostSequencedOperation fn pa (.write data))))) ∧
    (s.sys.boot = .booted → hostPart s fn pa = some p → weightRefused s p pa false = false → oneLine pa n = true →
      (replayPart s p = true →
        exec .hostRead (due s (.hostRead fn pa n)) = .next (giveAnswer (done s) (.bytes (homeBytes s pa n)))) ∧
      (replayPart s p = false → replayOf s p = none → lineHeld s (lineOf pa) = false → windowWaits s (lineOf pa) = false → s.rep.skips = [] →
        ∃ t, exec .hostRead (due s (.hostRead fn pa n)) = .next t ∧ Still t s ∧
          (ackedTo s p (logPos s p) = true → t.sys.answers = s.sys.answers ++ [.bytes (homeBytes s pa n)]) ∧
          (ackedTo s p (logPos s p) = false → t.sys.answers = s.sys.answers ∧
            ∃ x, t.rep.held = s.rep.held ++ [x] ∧ x.eff = .answer (.bytes (homeBytes s pa n))))) ∧
    (s.sys.boot ≠ .booted ∨ ctlBlock off = .hole →
      Refuses .registerWrite (.registerWrite fn off v) s .writeRefused ∧
      (ctlBlock off = .hole → Refuses .routeTableWrite (.routeTableWrite fn off v) s .writeRefused ∧
        Refuses .counterClearWrite (.counterClearWrite fn off v) s .writeRefused)) ∧
    (s.sys.boot = .booted → ∀ c w, ctlBlock off = .ctx c w →
      (∀ f, Refuses .registerWrite (.registerWrite (.vf f) off v) s .writeRefused) ∧
      (w ≠ 0 → w ≠ 1 → w ≠ 3 → ∃ t, exec .registerWrite (due s (.registerWrite .pf off v)) = .next t ∧ ctlGet t (cdAddr c w) = v ∧ Still t s)) ∧
    (s.sys.boot = .booted → ∀ o, ctlBlock off = .counters o →
      (v ≠ 0 → exec .counterClearWrite (due s (.counterClearWrite .pf off v)) = .next (done s)) ∧
      ∃ t, exec .counterClearWrite (due s (.counterClearWrite .pf off 0)) = .next t ∧ ctlGet t off = 0 ∧ Still t s) ∧
    (s.sys.boot = .booted → ∀ o, ctlBlock off = .part p o → 0xc00 ≤ o →
      ∃ t, exec .routeTableWrite (due s (.routeTableWrite .pf off v)) = .next t ∧ Still t s ∧
        ∀ d, d < 1024 → d / 8 * 8 = o - 0xc00 →
          route t p d = (if d = ownDev s then 0x80 else v.bits (d % 8 * 8 + 7) (d % 8 * 8) &&& 0x8f)) ∧
    (n < 1024 → n ≠ ownDev s →
      (∃ t, exec .routeLoss (due s (.routeLoss p n)) = .next t ∧ routeLive t p n = false ∧ Still t s) ∧
      ∃ t, exec .routeReturn (due s (.routeReturn p n)) = .next t ∧ routeLive t p n = true ∧ Still t s) ∧
    (∀ d, s.th.status = .waiting (.route d) →
      ∃ t, exec .unreachableTimeout (due s (.unreachableTimeout s.th.uid)) = .next t ∧ ctlBits t (vfAddr s.th.vf 0x10) 6 6 = 1 ∧ Still t s) ∧
    (∀ c, s.eng.active = [c] → c.route.isSome = true → anyThread s (engineClock c.cl) = none →
      ∃ t, exec .unreachableTimeout (due s (.unreachableTimeout (engineClock c.cl))) = .next t ∧ ctlBits t (vfAddr c.vf 0x10) 6 6 = 1 ∧
        Still t s) ∧
    (∀ dev job kind va ctx,
      let gone (c base lg : Nat) : Prop := pdValid s (cdPart s c) = true ∧ pdJob s (cdPart s c) = job ∧
        (kind = 0 → c = ctx ∧ base = va / 2 ^ lg * 2 ^ lg) ∧ (kind = 1 → c = ctx)
      (∀ x ∈ threads s, ∀ u ∈ x.chunk.used, ¬ gone u.1 u.2.1 u.2.2) →
        ∃ t, exec .fabricRequest (due s (.farTlbinv dev job kind va ctx)) = .next t ∧ t.th = s.th ∧ t.rest = s.rest ∧ t.mem.cells = s.mem.cells ∧
          (∀ e, e ∈ t.mem.tlb ↔ e ∈ s.mem.tlb ∧ ¬ gone e.ctx e.base e.lg) ∧
          ∀ e, e ∈ t.mem.l1tlb ↔ e ∈ s.mem.l1tlb ∧ ¬ gone e.2.ctx e.2.base e.2.lg) ∧
    (∀ dev job, isLocal s pa = true → partOfLine s pa = some p →
      (pdJob s p ≠ job ∨ replayPart s p = true → Refuses .fabricRequest (.fabricRequest dev job pa (.write data)) s .writeRefused ∧
        Refuses .fabricRequest (.fabricRequest dev job pa (.read n)) s .readRefused) ∧
      (pdJob s p = job → isWeight pa = false → OpenTo s p pa data.length →
        ∃ t, exec .fabricRequest (due s (.fabricRequest dev job pa (.write data))) = .next t ∧ WroteFrom t s p pa data)) ∧
    (∀ m, s.coh.net = [m] →
      (staleMesg s m = true → exec .messageArrival (due s (.messageArrival 0)) =
        .next (ctlCount { done s with coh := { s.coh with net := [] } } (cntAddr (0x2000 + 8 * dieOf (clusterOf m.core))) 1)) ∧
      (staleMesg s m = false → discarded s m = true →
        exec .messageArrival (due s (.messageArrival 0)) = .next { done s with coh := { s.coh with net := [] } }) ∧
      (staleMesg s m = false → discarded s m = false → mayMove s m = true →
        ∃ t, exec .messageArrival (due s (.messageArrival 0)) = .next t ∧ t.coh.net = [] ∧ Still t s ∧
          (m.dev = ownDev s → (ccOf t m.core m.ctx).boxes = (ccOf s m.core m.ctx).boxes ++
            [{ box := m.box, dev := m.srcDev, core := m.src, data := m.data, rel := m.rel, scope := m.scope, stamp := m.stamp }]) ∧
          (m.dev ≠ ownDev s → SentOut t s m)) ∧
      (staleMesg s m = false → discarded s m = false → mayMove s m = false →
        ∃ t, exec .messageArrival (due s (.messageArrival 0)) = .next t ∧ t.coh.net = [m] ∧ Still t s ∧ Event.messageArrival 0 ∈ t.agenda))

/-- R10, R412, R413, R442, R446, R448, R452, R454: partitions are created with their registers reset, or refused; one created from a checkpoint and
its log replays it; partitions are started, stopped by way of the transition state, and resized; a context
descriptor needs its partition's job; a queue is enabled and disabled. The model's own: that nothing is created before a boot has succeeded
(notes/assumptions/23.md), the wait for the checkpoint of a stop (notes/assumptions/53.md), how a replay partition is made
(notes/assumptions/55.md), and what creation resets (notes/assumptions/79.md). -/
def Obligations.PartitionSteps : Prop :=
  ∀ (s : State) (p n : Nat) (v : Word),
    (s.sys.boot = .booted → p < 20 → pdValid s p = false → v.bits 0 0 = 1 →
      (partRefused s p v = true → ∀ from_, ∃ t, exec .partitionCreate (due s (.partitionCreate p v from_)) = .next t ∧ pdValid t p = false ∧
        Still t s) ∧
      (partRefused s p v = false → ∃ t, exec .partitionCreate (due s (.partitionCreate p v none)) = .next t ∧ pdValid t p = true ∧
        pdState t p = 0 ∧ pdDevnum t p = v.bits 41 32 ∧ (pdWalk5 t p = true ↔ v.bits 8 8 = 1) ∧ Still t s ∧
        (∀ cl o, ctlBlock (dmAddr cl o) = .debug cl o → bitAt (pdQuarters s p) (cl / 16) = true → ctlGet t (dmAddr cl o) = 0) ∧
        ∀ d, d < 1024 → d ≠ ownDev t → route t p d = 0) ∧
      (partRefused s p v = false → ∀ r : Restore, let u := partitionCreateAt (done s) p v
        (restorable u p r = false → ∃ t, exec .partitionCreate (due s (.partitionCreate p v (some r))) = .next t ∧ pdValid t p = false ∧ Still t s) ∧
        (restorable u p r = true → ∀ e, (r.log.drop r.ckpt.logPos).head? = some e → e.identity ≠ [] →
          ∃ t, exec .partitionCreate (due s (.partitionCreate p v (some r))) = .next t ∧ pdValid t p = true ∧ replayPart t p = true ∧
            replayOf t p = some (r.ckpt.logPos, r.log.length) ∧ partLog t p = r.log ∧ (∀ h ∈ t.rep.held, h.part ≠ p) ∧ t.th = s.th ∧ t.rest = s.rest ∧
            t.mem.cells = cellsPutAll (s.mem.cells.filter (fun x => !paInPart u p x.1)) r.ckpt.cells ∧
            ∀ x ∈ r.ckpt.resident, ∃ y ∈ t.wk.saved, y.uid = x.uid ∧ y.a = x.a))) ∧
    (pdValid s p = true → pdState s p = 0 ∨ pdState s p = 2 →
      (∃ t, exec .stateWriteRun (due s (.stateWriteRun p)) = .next t ∧ pdState t p = 1 ∧ Still t s) ∧
      (∃ t, exec .stateWriteLoad (due s (.stateWriteLoad p)) = .next t ∧ pdState t p = 2 ∧ Still t s) ∧
      (∃ t, exec .stateWriteStopped (due s (.stateWriteStopped p)) = .next t ∧ pdState t p = 0 ∧ Still t s)) ∧
    (pdValid s p = true → pdState s p = 1 → ∀ i e tr,
      (i, e, tr) ∈ [(Instr.stateWriteLoad, Event.stateWriteLoad p, Transition.toLoad),
        (Instr.stateWriteStopped, Event.stateWriteStopped p, Transition.toStopped)] →
      ∃ t, exec i (due s e) = .next t ∧ pdState t p = 3 ∧ Assoc.get t.sys.transitions p = some tr ∧
        Event.stateTransitionComplete p ∈ t.agenda ∧ t.mem = s.mem ∧ (s.th.status ≠ .vacant → s.th.part = p → t.th.marked = true)) ∧
    (Assoc.get s.sys.transitions p = some .toLoad → drained s p = true →
      ∃ t, exec .stateTransitionComplete (due s (.stateTransitionComplete p)) = .next t ∧ pdState t p = 2 ∧
        Assoc.get t.sys.transitions p = none ∧ Still t s) ∧
    (Assoc.get s.sys.transitions p = some .toStopped →
      (drained s p = true → cutReady s p = true → replayOf s p = none → rollbackDue s p = false → cutReady (cleanPart (done s) p) p = true →
        ∃ t c, exec .stateTransitionComplete (due s (.stateTransitionComplete p)) = .next t ∧ c ∈ t.rep.ckpts ∧ c.part = p ∧ c.complete = false ∧
          Assoc.get t.sys.transitions p = some (.captured c.seqno) ∧ pdState t p = pdState s p ∧
          Event.checkpointComplete p ∈ t.agenda ∧ Event.stateTransitionComplete p ∈ t.agenda) ∧
      (drained s p = false → exec .stateTransitionComplete (due s (.stateTransitionComplete p)) =
        .next (post (done s) (.stateTransitionComplete p)))) ∧
    (Assoc.get s.sys.transitions p = some (.captured n) → (∃ c ∈ s.rep.ckpts, c.part = p ∧ c.seqno = n ∧ c.complete = true) →
      ∃ t, exec .stateTransitionComplete (due s (.stateTransitionComplete p)) = .next t ∧ pdState t p = 0 ∧ Still t s) ∧
    (∀ m, pdValid s p = true → (∀ r ∈ s.sys.resizes, r.1 ≠ p) →
      ∃ t, exec .rsmapWrite (due s (.rsmapWrite p v m)) = .next t ∧ Assoc.get t.sys.resizes p = some (validMoves s p m) ∧
        ctlBits t (pdAddr p 10) 0 0 = 0 ∧ Event.resizeComplete p ∈ t.agenda ∧ t.mem = s.mem ∧
        (s.th.status ≠ .vacant → s.th.part = p → affects (validMoves s p m) (clusterOf s.th.core) = true →
          t.th.marked = true)) ∧
    (∀ m, Assoc.get s.sys.resizes p = some m →
      (movesDrained s m = false → exec .resizeComplete (due s (.resizeComplete p)) = .next (post (done s) (.resizeComplete p))) ∧
      (movesDrained s m = true → movesWriting (cleanL1 (done s) (movesCore m)) m = true →
        exec .resizeComplete (due s (.resizeComplete p)) = .next (post (cleanL1 (done s) (movesCore m)) (.resizeComplete p))) ∧
      (movesDrained s m = true → movesWriting (cleanL1 (done s) (movesCore m)) m = false → s.eng.crews = [] →
        ∃ t, exec .resizeComplete (due s (.resizeComplete p)) = .next t ∧ Assoc.get t.sys.resizes p = none ∧
          ctlBits t (pdAddr p 10) 0 0 = 1 ∧ (∀ e ∈ m, e.1 ∈ t.sys.removed) ∧
          ∀ c, c < 2048 → movesCore m c = true → (c, coreTo m c) ∈ t.sys.redirect)) ∧
    (s.sys.boot = .booted → n < 4096 → v.bits 1 1 = 0 →
      ∃ t, exec .contextDescriptorValidate (due s (.contextDescriptorValidate n v)) = .next t ∧ Still t s ∧
        (cdValid t n = true ↔ v.bits 0 0 = 1 ∧ cdJob s n = pdJob s (cdPart s n))) ∧
    (s.sys.boot = .booted → n < 65536 →
      ∃ t, exec .queueEnWrite (due s (.queueEnWrite n v)) = .next t ∧ Still t s ∧ (qtEn t n = true ↔ v.bits 0 0 = 1) ∧
        (qtIrq t n = true ↔ v.bits 3 3 = 1) ∧ (qtEn s n = false → v.bits 0 0 = 1 → Event.queueTailChange n ∈ t.agenda))

/-! ### Encodings, steps, reset -/

namespace Sys2Proof.Claims

/-- Instructions of Sillage's filter programs (R433); the other instructions with an encoding are a thread's. -/
def isFilter : Instr → Bool
  | .filterLdev .. => true
  | .filterMulu .. => true
  | .filterLi .. => true
  | .filterAdd .. => true
  | .filterSub .. => true
  | .filterAnd .. => true
  | .filterOr .. => true
  | .filterXor .. => true
  | .filterShl .. => true
  | .filterShr .. => true
  | .filterMin .. => true
  | .filterMax .. => true
  | .filterBeq .. => true
  | .filterBne .. => true
  | .filterBltu .. => true
  | .filterBgeu .. => true
  | .filterBr .. => true
  | .filterHinc .. => true
  | .filterCms .. => true
  | .filterHll .. => true
  | .filterLdo .. => true
  | .filterTrig .. => true
  | .filterExp .. => true
  | .filterSreq => true
  | .filterEnd => true
  | _ => false

/-- Both memories stand in their canonical form. -/
def Canonical (s : State) : Prop := Memory.wf s.mem.cells = true ∧ Memory.wf s.mem.icells = true

end Sys2Proof.Claims

/-- R264-R278, R432, R433: words that the spec's examples work out decode to the statements that the examples give for them, and words of majors
0x00, 0x60 to 0x6f and 0x7f, of an unassigned major, and of an unassigned filter opcode decode to nothing. -/
def Obligations.WordsDecode : Prop :=
  decode [0x20554ffd] = .ok (.addi (.reg 5) (.n 3) (BitVec.ofInt 10 (-3)), 1) ∧
  decode [0xe617f000, 0x12345678] = .ok (.addiLong (.reg 7) (.r .z) 0x12345678, 2) ∧
  decode [0x46000004] = .ok (.nop, 1) ∧
  decode [0x60d45561] = .ok (.fadd (.reg 4) (.n 5) (.n 6) .d .rne, 1) ∧
  decode [0x4c144ffd] = .ok (.bccLtS (.n 3) (.n 4) (BitVec.ofInt 10 (-3)), 1) ∧
  decode [0x50955016] = .ok (.ld (.reg 5) (.n 4) 2 .d64, 1) ∧
  decode [0x52004c06] = .ok (.st (.q 0) (.n 3) 0 .d64, 1) ∧
  decode [0x5a005020] = .ok (.syncacqLk (.n 4) .pkg, 1) ∧
  decode [0xe81e75c3, 0x00181005] = .ok (.amo (.reg 14) (.n 13) (.n 12) .s32 .rlx .pkg .min, 2) ∧
  decode [0x90195000] = .ok (.push (.reg 9) (.n 4), 1) ∧
  decode [0x9c184800] = .ok (.forkw (.reg 8) (.n 2), 1) ∧
  decode [0xa200f002] = .ok (.csrw .z 2, 1) ∧
  decodeFilter 0x04800008 = .ok (.filterLdev 1 8) ∧
  decodeFilter 0x2a31003f = .ok (.filterShr 4 3 (.imm 63)) ∧
  decodeFilter 0x485c0003 = .ok (.filterHinc 3 5 6) ∧
  decode [0x00000000] = .error .permanentlyIllegal ∧
  decode [0xfe000000] = .error .permanentlyIllegal ∧
  decode [0xc0000000] = .error .futureSpace ∧
  decode [0x0e000000] = .error .unassigned ∧
  decode [0xe617f000] = .error .truncated ∧
  decodeFilter 0x68000000 = .error .unassigned

/-- Every well-formed instruction that has an encoding decodes from its words to itself, whatever its stall count, and the words hold that count. -/
def Obligations.DecodeOfEncode : Prop :=
  ∀ (sc : Stall) (i : Instr), i.wellFormed = true →
    (isFilter i = false →
      decode (encode sc i) = .ok (i, (encode sc i).length) ∧ stallOf ((encode sc i).headD 0) = sc ∧ ∀ w ∈ encode sc i, w < 2 ^ 32) ∧
    (isFilter i = true → ∃ w, encode sc i = [w] ∧ w < 2 ^ 32 ∧ decodeFilter w = .ok i)

/-- Every word, or pair of words, that decodes is the encoding of what it decodes to: no bit of it is ignored, and what it decodes to is
well-formed. -/
def Obligations.EncodeOfDecode : Prop :=
  (∀ (ws : List Nat) (i : Instr) (n : Nat), (∀ w ∈ ws, w < 2 ^ 32) → decode ws = .ok (i, n) →
    i.wellFormed = true ∧ isFilter i = false ∧ encode (stallOf (ws.headD 0)) i = ws.take n) ∧
  ∀ (w : Nat) (i : Instr), w < 2 ^ 32 → decodeFilter w = .ok i → i.wellFormed = true ∧ isFilter i = true ∧ encode 0 i = [w]

/-- R4, R59, R396 and the model's order of agents (notes/assumptions/2.md): a step of a thread performs the instruction that the words at its pc
decode to, with those words latched, or traps where a word is absent or has no instruction; a step of an agent performs the event that was due; a
step of a filter run performs the word at its index, where the run has begun or is the next of its die to begin and fewer than four have (R430); without a given order, the agent picked moves. -/
def Obligations.StepRunsDecoded : Prop :=
  ∀ (s u : State) (uid pos n : Nat) (ms : List Move) (ws : List Nat) (i : Instr),
    (s.sched = .thread uid :: ms → readyThread { s with sched := ms } uid = some u →
      (fetch u = .words ws → decode ws = .ok (i, n) → comparators (latch u (.words ws)) (some i) = none →
        step s = exec i { u with th := { u.th with words := packWords ws } }) ∧
      (∀ e, fetch u = .words ws → decode ws = .error e → comparators (latch u (.words ws)) none = none →
        step s = .next (raise (latch u (.words ws)) (trapOf (latch u (.words ws)) 0x05 e.sub 0 0 0))) ∧
      (∀ va sub, fetch u = .absent va sub → comparators (latch u (.absent va sub)) none = none →
        ∃ t : Trap, t.cause = 0x04 ∧ t.sub = sub ∧ t.i0 = va ∧ step s = .next (raise (latch u (.absent va sub)) t))) ∧
    (∀ e, s.sched = .event pos :: ms → s.agenda[pos]? = some e →
      step s = exec e.row { s with sched := ms, agenda := s.agenda.eraseIdx pos, now := some e }) ∧
    (∀ r, s.sched = .filter pos :: ms → s.dbg.runs[pos]? = some r → runReady s r = true → decodeFilter (filterWordAt s r.die r.slot r.pc) = .ok i →
      step s = exec i { s with sched := ms, dbg := { s.dbg with runs := r :: s.dbg.runs.eraseIdx pos } }) ∧
    (∀ r, s.sched = .filter pos :: ms → s.dbg.runs[pos]? = some r → runReady s r = false → step s = .next { s with sched := ms }) ∧
    (∀ m, s.sched = [] → pickMove s = some m → step s = step { s with turn := !s.turn, sched := [m] }) ∧
    (s.sched = [] → pickMove s = none → step s = .next s)

/-- No step refuses an instruction, and none stops but at the kill stamp of a context whose KILLPA lies in a hole (notes/assumptions/66.md). -/
def Obligations.StepsAreSafe : Prop := ∀ s : State, SafeStep s

/-- R23, R445, R452, R461: after reset nothing is booted, no thread is resident, no memory is written, no partition exists, no queue is enabled, and
the registers of control space hold the values that their maps give; both memories stand in their canonical form. -/
def Obligations.ResetState : Prop :=
  let s := State.reset
  s.sys.boot = .off ∧ (∀ t ∈ threads s, t.status = .vacant) ∧ s.mem.cells = [] ∧ s.agenda = [] ∧ Canonical s ∧
  (∀ p, p < 20 → pdValid s p = false ∧ pdState s p = 0 ∧ pdQuarters s p = 0 ∧ ctlGet s (pdAddr p 4) = 2 ^ 30 ∧ ctlGet s (pdAddr p 6) = 2 ^ 30 ∧
    ctlGet s (pdAddr p 7) = 50 ∧ ctlGet s (pdAddr p 8) = 1000) ∧
  (∀ q, q < 65536 → qtEn s q = false ∧ qtIrq s q = false ∧ qtPrio s q = 0 ∧ qtWeight s q = 1 ∧ qtHead s q = 0) ∧
  (∀ c, c < 4096 → cdValid s c = false) ∧
  ∀ cl off, cl < 512 → off < 0x1000 → ctlGet s (dmAddr cl off) = 0

/-- Every step keeps both memories in their canonical form: addresses rise, and no listed byte is zero. -/
def Obligations.MemoryStaysCanonical : Prop :=
  ∀ s t : State, Canonical s → step s = .next t → Canonical t
end

