-- ==== Sys2Proof/Laws/State.lean ====
section
/-! SUPPORT. Laws/State.lean: what each plain update of the state leaves, one lemma for each field. -/

namespace Sys2Proof.Machine

/-! ### `updTh` -/

@[simp] theorem updTh_th (s : State) (f : Thread → Thread) : (updTh s f).th = f s.th := rfl
@[simp] theorem updTh_rest (s : State) (f : Thread → Thread) : (updTh s f).rest = s.rest := rfl
@[simp] theorem updTh_mem (s : State) (f : Thread → Thread) : (updTh s f).mem = s.mem := rfl
@[simp] theorem updTh_coh (s : State) (f : Thread → Thread) : (updTh s f).coh = s.coh := rfl
@[simp] theorem updTh_eng (s : State) (f : Thread → Thread) : (updTh s f).eng = s.eng := rfl
@[simp] theorem updTh_wk (s : State) (f : Thread → Thread) : (updTh s f).wk = s.wk := rfl
@[simp] theorem updTh_vw (s : State) (f : Thread → Thread) : (updTh s f).vw = s.vw := rfl
@[simp] theorem updTh_sys (s : State) (f : Thread → Thread) : (updTh s f).sys = s.sys := rfl
@[simp] theorem updTh_dbg (s : State) (f : Thread → Thread) : (updTh s f).dbg = s.dbg := rfl
@[simp] theorem updTh_rep (s : State) (f : Thread → Thread) : (updTh s f).rep = s.rep := rfl
@[simp] theorem updTh_agenda (s : State) (f : Thread → Thread) : (updTh s f).agenda = s.agenda := rfl
@[simp] theorem updTh_now (s : State) (f : Thread → Thread) : (updTh s f).now = s.now := rfl
@[simp] theorem updTh_sched (s : State) (f : Thread → Thread) : (updTh s f).sched = s.sched := rfl
@[simp] theorem updTh_turn (s : State) (f : Thread → Thread) : (updTh s f).turn = s.turn := rfl
@[simp] theorem updTh_free (s : State) (f : Thread → Thread) : (updTh s f).free = s.free := rfl

/-! ### `updArch` -/

@[simp] theorem updArch_th (s : State) (f : Arch → Arch) : (updArch s f).th = { s.th with a := f s.th.a } := rfl
@[simp] theorem updArch_rest (s : State) (f : Arch → Arch) : (updArch s f).rest = s.rest := rfl
@[simp] theorem updArch_mem (s : State) (f : Arch → Arch) : (updArch s f).mem = s.mem := rfl
@[simp] theorem updArch_coh (s : State) (f : Arch → Arch) : (updArch s f).coh = s.coh := rfl
@[simp] theorem updArch_eng (s : State) (f : Arch → Arch) : (updArch s f).eng = s.eng := rfl
@[simp] theorem updArch_wk (s : State) (f : Arch → Arch) : (updArch s f).wk = s.wk := rfl
@[simp] theorem updArch_vw (s : State) (f : Arch → Arch) : (updArch s f).vw = s.vw := rfl
@[simp] theorem updArch_sys (s : State) (f : Arch → Arch) : (updArch s f).sys = s.sys := rfl
@[simp] theorem updArch_dbg (s : State) (f : Arch → Arch) : (updArch s f).dbg = s.dbg := rfl
@[simp] theorem updArch_rep (s : State) (f : Arch → Arch) : (updArch s f).rep = s.rep := rfl
@[simp] theorem updArch_agenda (s : State) (f : Arch → Arch) : (updArch s f).agenda = s.agenda := rfl
@[simp] theorem updArch_now (s : State) (f : Arch → Arch) : (updArch s f).now = s.now := rfl
@[simp] theorem updArch_sched (s : State) (f : Arch → Arch) : (updArch s f).sched = s.sched := rfl
@[simp] theorem updArch_turn (s : State) (f : Arch → Arch) : (updArch s f).turn = s.turn := rfl
@[simp] theorem updArch_free (s : State) (f : Arch → Arch) : (updArch s f).free = s.free := rfl

/-! ### `pushResult` -/

@[simp] theorem pushResult_th (s : State) (d : Dest) (v : Word) (lat : Nat) : (pushResult s d v lat).th = { s.th with a := pushArch s.th.a d v lat } := rfl
@[simp] theorem pushResult_rest (s : State) (d : Dest) (v : Word) (lat : Nat) : (pushResult s d v lat).rest = s.rest := rfl
@[simp] theorem pushResult_mem (s : State) (d : Dest) (v : Word) (lat : Nat) : (pushResult s d v lat).mem = s.mem := rfl
@[simp] theorem pushResult_coh (s : State) (d : Dest) (v : Word) (lat : Nat) : (pushResult s d v lat).coh = s.coh := rfl
@[simp] theorem pushResult_eng (s : State) (d : Dest) (v : Word) (lat : Nat) : (pushResult s d v lat).eng = s.eng := rfl
@[simp] theorem pushResult_wk (s : State) (d : Dest) (v : Word) (lat : Nat) : (pushResult s d v lat).wk = s.wk := rfl
@[simp] theorem pushResult_vw (s : State) (d : Dest) (v : Word) (lat : Nat) : (pushResult s d v lat).vw = s.vw := rfl
@[simp] theorem pushResult_sys (s : State) (d : Dest) (v : Word) (lat : Nat) : (pushResult s d v lat).sys = s.sys := rfl
@[simp] theorem pushResult_dbg (s : State) (d : Dest) (v : Word) (lat : Nat) : (pushResult s d v lat).dbg = s.dbg := rfl
@[simp] theorem pushResult_rep (s : State) (d : Dest) (v : Word) (lat : Nat) : (pushResult s d v lat).rep = s.rep := rfl
@[simp] theorem pushResult_agenda (s : State) (d : Dest) (v : Word) (lat : Nat) : (pushResult s d v lat).agenda = s.agenda := rfl
@[simp] theorem pushResult_now (s : State) (d : Dest) (v : Word) (lat : Nat) : (pushResult s d v lat).now = s.now := rfl
@[simp] theorem pushResult_sched (s : State) (d : Dest) (v : Word) (lat : Nat) : (pushResult s d v lat).sched = s.sched := rfl
@[simp] theorem pushResult_turn (s : State) (d : Dest) (v : Word) (lat : Nat) : (pushResult s d v lat).turn = s.turn := rfl
@[simp] theorem pushResult_free (s : State) (d : Dest) (v : Word) (lat : Nat) : (pushResult s d v lat).free = s.free := rfl

/-! ### `post` -/

@[simp] theorem post_th (s : State) (e : Event) : (post s e).th = s.th := rfl
@[simp] theorem post_rest (s : State) (e : Event) : (post s e).rest = s.rest := rfl
@[simp] theorem post_mem (s : State) (e : Event) : (post s e).mem = s.mem := rfl
@[simp] theorem post_coh (s : State) (e : Event) : (post s e).coh = s.coh := rfl
@[simp] theorem post_eng (s : State) (e : Event) : (post s e).eng = s.eng := rfl
@[simp] theorem post_wk (s : State) (e : Event) : (post s e).wk = s.wk := rfl
@[simp] theorem post_vw (s : State) (e : Event) : (post s e).vw = s.vw := rfl
@[simp] theorem post_sys (s : State) (e : Event) : (post s e).sys = s.sys := rfl
@[simp] theorem post_dbg (s : State) (e : Event) : (post s e).dbg = s.dbg := rfl
@[simp] theorem post_rep (s : State) (e : Event) : (post s e).rep = s.rep := rfl
@[simp] theorem post_agenda (s : State) (e : Event) : (post s e).agenda = s.agenda ++ [e] := rfl
@[simp] theorem post_now (s : State) (e : Event) : (post s e).now = s.now := rfl
@[simp] theorem post_sched (s : State) (e : Event) : (post s e).sched = s.sched := rfl
@[simp] theorem post_turn (s : State) (e : Event) : (post s e).turn = s.turn := rfl
@[simp] theorem post_free (s : State) (e : Event) : (post s e).free = s.free := rfl

/-! ### `postAll` -/

@[simp] theorem postAll_th (s : State) (es : List Event) : (postAll s es).th = s.th := rfl
@[simp] theorem postAll_rest (s : State) (es : List Event) : (postAll s es).rest = s.rest := rfl
@[simp] theorem postAll_mem (s : State) (es : List Event) : (postAll s es).mem = s.mem := rfl
@[simp] theorem postAll_coh (s : State) (es : List Event) : (postAll s es).coh = s.coh := rfl
@[simp] theorem postAll_eng (s : State) (es : List Event) : (postAll s es).eng = s.eng := rfl
@[simp] theorem postAll_wk (s : State) (es : List Event) : (postAll s es).wk = s.wk := rfl
@[simp] theorem postAll_vw (s : State) (es : List Event) : (postAll s es).vw = s.vw := rfl
@[simp] theorem postAll_sys (s : State) (es : List Event) : (postAll s es).sys = s.sys := rfl
@[simp] theorem postAll_dbg (s : State) (es : List Event) : (postAll s es).dbg = s.dbg := rfl
@[simp] theorem postAll_rep (s : State) (es : List Event) : (postAll s es).rep = s.rep := rfl
@[simp] theorem postAll_agenda (s : State) (es : List Event) : (postAll s es).agenda = s.agenda ++ es := rfl
@[simp] theorem postAll_now (s : State) (es : List Event) : (postAll s es).now = s.now := rfl
@[simp] theorem postAll_sched (s : State) (es : List Event) : (postAll s es).sched = s.sched := rfl
@[simp] theorem postAll_turn (s : State) (es : List Event) : (postAll s es).turn = s.turn := rfl
@[simp] theorem postAll_free (s : State) (es : List Event) : (postAll s es).free = s.free := rfl

/-! ### `tickFree` -/

@[simp] theorem tickFree_th (s : State) : (tickFree s).th = s.th := rfl
@[simp] theorem tickFree_rest (s : State) : (tickFree s).rest = s.rest := rfl
@[simp] theorem tickFree_mem (s : State) : (tickFree s).mem = s.mem := rfl
@[simp] theorem tickFree_coh (s : State) : (tickFree s).coh = s.coh := rfl
@[simp] theorem tickFree_eng (s : State) : (tickFree s).eng = s.eng := rfl
@[simp] theorem tickFree_wk (s : State) : (tickFree s).wk = s.wk := rfl
@[simp] theorem tickFree_vw (s : State) : (tickFree s).vw = s.vw := rfl
@[simp] theorem tickFree_sys (s : State) : (tickFree s).sys = s.sys := rfl
@[simp] theorem tickFree_dbg (s : State) : (tickFree s).dbg = s.dbg := rfl
@[simp] theorem tickFree_rep (s : State) : (tickFree s).rep = s.rep := rfl
@[simp] theorem tickFree_agenda (s : State) : (tickFree s).agenda = s.agenda := rfl
@[simp] theorem tickFree_now (s : State) : (tickFree s).now = s.now := rfl
@[simp] theorem tickFree_sched (s : State) : (tickFree s).sched = s.sched := rfl
@[simp] theorem tickFree_turn (s : State) : (tickFree s).turn = s.turn := rfl
@[simp] theorem tickFree_free (s : State) : (tickFree s).free = s.free + 1 := rfl

/-! ### `setLc` -/

@[simp] theorem setLc_th (s : State) (c v : Nat) : (setLc s c v).th = s.th := rfl
@[simp] theorem setLc_rest (s : State) (c v : Nat) : (setLc s c v).rest = s.rest := rfl
@[simp] theorem setLc_mem (s : State) (c v : Nat) : (setLc s c v).mem = s.mem := rfl
@[simp] theorem setLc_coh (s : State) (c v : Nat) : (setLc s c v).coh = { s.coh with lc := Assoc.set s.coh.lc c v } := rfl
@[simp] theorem setLc_eng (s : State) (c v : Nat) : (setLc s c v).eng = s.eng := rfl
@[simp] theorem setLc_wk (s : State) (c v : Nat) : (setLc s c v).wk = s.wk := rfl
@[simp] theorem setLc_vw (s : State) (c v : Nat) : (setLc s c v).vw = s.vw := rfl
@[simp] theorem setLc_sys (s : State) (c v : Nat) : (setLc s c v).sys = s.sys := rfl
@[simp] theorem setLc_dbg (s : State) (c v : Nat) : (setLc s c v).dbg = s.dbg := rfl
@[simp] theorem setLc_rep (s : State) (c v : Nat) : (setLc s c v).rep = s.rep := rfl
@[simp] theorem setLc_agenda (s : State) (c v : Nat) : (setLc s c v).agenda = s.agenda := rfl
@[simp] theorem setLc_now (s : State) (c v : Nat) : (setLc s c v).now = s.now := rfl
@[simp] theorem setLc_sched (s : State) (c v : Nat) : (setLc s c v).sched = s.sched := rfl
@[simp] theorem setLc_turn (s : State) (c v : Nat) : (setLc s c v).turn = s.turn := rfl
@[simp] theorem setLc_free (s : State) (c v : Nat) : (setLc s c v).free = s.free := rfl

/-! ### `setStamp` -/

@[simp] theorem setStamp_th (s : State) (l v : Nat) : (setStamp s l v).th = s.th := rfl
@[simp] theorem setStamp_rest (s : State) (l v : Nat) : (setStamp s l v).rest = s.rest := rfl
@[simp] theorem setStamp_mem (s : State) (l v : Nat) : (setStamp s l v).mem = s.mem := rfl
@[simp] theorem setStamp_coh (s : State) (l v : Nat) : (setStamp s l v).coh = { s.coh with stamps := Assoc.set s.coh.stamps l v } := rfl
@[simp] theorem setStamp_eng (s : State) (l v : Nat) : (setStamp s l v).eng = s.eng := rfl
@[simp] theorem setStamp_wk (s : State) (l v : Nat) : (setStamp s l v).wk = s.wk := rfl
@[simp] theorem setStamp_vw (s : State) (l v : Nat) : (setStamp s l v).vw = s.vw := rfl
@[simp] theorem setStamp_sys (s : State) (l v : Nat) : (setStamp s l v).sys = s.sys := rfl
@[simp] theorem setStamp_dbg (s : State) (l v : Nat) : (setStamp s l v).dbg = s.dbg := rfl
@[simp] theorem setStamp_rep (s : State) (l v : Nat) : (setStamp s l v).rep = s.rep := rfl
@[simp] theorem setStamp_agenda (s : State) (l v : Nat) : (setStamp s l v).agenda = s.agenda := rfl
@[simp] theorem setStamp_now (s : State) (l v : Nat) : (setStamp s l v).now = s.now := rfl
@[simp] theorem setStamp_sched (s : State) (l v : Nat) : (setStamp s l v).sched = s.sched := rfl
@[simp] theorem setStamp_turn (s : State) (l v : Nat) : (setStamp s l v).turn = s.turn := rfl
@[simp] theorem setStamp_free (s : State) (l v : Nat) : (setStamp s l v).free = s.free := rfl

/-! ### `bumpClock` -/

@[simp] theorem bumpClock_th (s : State) (a v : Nat) : (bumpClock s a v).th = s.th := rfl
@[simp] theorem bumpClock_rest (s : State) (a v : Nat) : (bumpClock s a v).rest = s.rest := rfl
@[simp] theorem bumpClock_mem (s : State) (a v : Nat) : (bumpClock s a v).mem = s.mem := rfl
@[simp] theorem bumpClock_eng (s : State) (a v : Nat) : (bumpClock s a v).eng = s.eng := rfl
@[simp] theorem bumpClock_wk (s : State) (a v : Nat) : (bumpClock s a v).wk = s.wk := rfl
@[simp] theorem bumpClock_vw (s : State) (a v : Nat) : (bumpClock s a v).vw = s.vw := rfl
@[simp] theorem bumpClock_sys (s : State) (a v : Nat) : (bumpClock s a v).sys = s.sys := rfl
@[simp] theorem bumpClock_dbg (s : State) (a v : Nat) : (bumpClock s a v).dbg = s.dbg := rfl
@[simp] theorem bumpClock_rep (s : State) (a v : Nat) : (bumpClock s a v).rep = s.rep := rfl
@[simp] theorem bumpClock_agenda (s : State) (a v : Nat) : (bumpClock s a v).agenda = s.agenda := rfl
@[simp] theorem bumpClock_now (s : State) (a v : Nat) : (bumpClock s a v).now = s.now := rfl
@[simp] theorem bumpClock_sched (s : State) (a v : Nat) : (bumpClock s a v).sched = s.sched := rfl
@[simp] theorem bumpClock_turn (s : State) (a v : Nat) : (bumpClock s a v).turn = s.turn := rfl
@[simp] theorem bumpClock_free (s : State) (a v : Nat) : (bumpClock s a v).free = s.free := rfl

/-! ### `setCc` -/

@[simp] theorem setCc_th (s : State) (c x : Nat) (cc : CoreCtx) : (setCc s c x cc).th = s.th := rfl
@[simp] theorem setCc_rest (s : State) (c x : Nat) (cc : CoreCtx) : (setCc s c x cc).rest = s.rest := rfl
@[simp] theorem setCc_mem (s : State) (c x : Nat) (cc : CoreCtx) : (setCc s c x cc).mem = s.mem := rfl
@[simp] theorem setCc_coh (s : State) (c x : Nat) (cc : CoreCtx) : (setCc s c x cc).coh = s.coh := rfl
@[simp] theorem setCc_eng (s : State) (c x : Nat) (cc : CoreCtx) : (setCc s c x cc).eng = { s.eng with cc := Assoc.set s.eng.cc (c, x) cc } := rfl
@[simp] theorem setCc_wk (s : State) (c x : Nat) (cc : CoreCtx) : (setCc s c x cc).wk = s.wk := rfl
@[simp] theorem setCc_vw (s : State) (c x : Nat) (cc : CoreCtx) : (setCc s c x cc).vw = s.vw := rfl
@[simp] theorem setCc_sys (s : State) (c x : Nat) (cc : CoreCtx) : (setCc s c x cc).sys = s.sys := rfl
@[simp] theorem setCc_dbg (s : State) (c x : Nat) (cc : CoreCtx) : (setCc s c x cc).dbg = s.dbg := rfl
@[simp] theorem setCc_rep (s : State) (c x : Nat) (cc : CoreCtx) : (setCc s c x cc).rep = s.rep := rfl
@[simp] theorem setCc_agenda (s : State) (c x : Nat) (cc : CoreCtx) : (setCc s c x cc).agenda = s.agenda := rfl
@[simp] theorem setCc_now (s : State) (c x : Nat) (cc : CoreCtx) : (setCc s c x cc).now = s.now := rfl
@[simp] theorem setCc_sched (s : State) (c x : Nat) (cc : CoreCtx) : (setCc s c x cc).sched = s.sched := rfl
@[simp] theorem setCc_turn (s : State) (c x : Nat) (cc : CoreCtx) : (setCc s c x cc).turn = s.turn := rfl
@[simp] theorem setCc_free (s : State) (c x : Nat) (cc : CoreCtx) : (setCc s c x cc).free = s.free := rfl

/-! ### `ctlSet` -/

@[simp] theorem ctlSet_th (s : State) (off : Nat) (v : Word) : (ctlSet s off v).th = s.th := rfl
@[simp] theorem ctlSet_rest (s : State) (off : Nat) (v : Word) : (ctlSet s off v).rest = s.rest := rfl
@[simp] theorem ctlSet_mem (s : State) (off : Nat) (v : Word) : (ctlSet s off v).mem = s.mem := rfl
@[simp] theorem ctlSet_coh (s : State) (off : Nat) (v : Word) : (ctlSet s off v).coh = s.coh := rfl
@[simp] theorem ctlSet_eng (s : State) (off : Nat) (v : Word) : (ctlSet s off v).eng = s.eng := rfl
@[simp] theorem ctlSet_wk (s : State) (off : Nat) (v : Word) : (ctlSet s off v).wk = s.wk := rfl
@[simp] theorem ctlSet_vw (s : State) (off : Nat) (v : Word) : (ctlSet s off v).vw = s.vw := rfl
@[simp] theorem ctlSet_dbg (s : State) (off : Nat) (v : Word) : (ctlSet s off v).dbg = s.dbg := rfl
@[simp] theorem ctlSet_rep (s : State) (off : Nat) (v : Word) : (ctlSet s off v).rep = s.rep := rfl
@[simp] theorem ctlSet_agenda (s : State) (off : Nat) (v : Word) : (ctlSet s off v).agenda = s.agenda := rfl
@[simp] theorem ctlSet_now (s : State) (off : Nat) (v : Word) : (ctlSet s off v).now = s.now := rfl
@[simp] theorem ctlSet_sched (s : State) (off : Nat) (v : Word) : (ctlSet s off v).sched = s.sched := rfl
@[simp] theorem ctlSet_turn (s : State) (off : Nat) (v : Word) : (ctlSet s off v).turn = s.turn := rfl
@[simp] theorem ctlSet_free (s : State) (off : Nat) (v : Word) : (ctlSet s off v).free = s.free := rfl

/-! ### `giveAnswer` -/

@[simp] theorem giveAnswer_th (s : State) (a : HostAns) : (giveAnswer s a).th = s.th := rfl
@[simp] theorem giveAnswer_rest (s : State) (a : HostAns) : (giveAnswer s a).rest = s.rest := rfl
@[simp] theorem giveAnswer_mem (s : State) (a : HostAns) : (giveAnswer s a).mem = s.mem := rfl
@[simp] theorem giveAnswer_coh (s : State) (a : HostAns) : (giveAnswer s a).coh = s.coh := rfl
@[simp] theorem giveAnswer_eng (s : State) (a : HostAns) : (giveAnswer s a).eng = s.eng := rfl
@[simp] theorem giveAnswer_wk (s : State) (a : HostAns) : (giveAnswer s a).wk = s.wk := rfl
@[simp] theorem giveAnswer_vw (s : State) (a : HostAns) : (giveAnswer s a).vw = s.vw := rfl
@[simp] theorem giveAnswer_sys (s : State) (a : HostAns) : (giveAnswer s a).sys = { s.sys with answers := s.sys.answers ++ [a] } := rfl
@[simp] theorem giveAnswer_dbg (s : State) (a : HostAns) : (giveAnswer s a).dbg = s.dbg := rfl
@[simp] theorem giveAnswer_rep (s : State) (a : HostAns) : (giveAnswer s a).rep = s.rep := rfl
@[simp] theorem giveAnswer_agenda (s : State) (a : HostAns) : (giveAnswer s a).agenda = s.agenda := rfl
@[simp] theorem giveAnswer_now (s : State) (a : HostAns) : (giveAnswer s a).now = s.now := rfl
@[simp] theorem giveAnswer_sched (s : State) (a : HostAns) : (giveAnswer s a).sched = s.sched := rfl
@[simp] theorem giveAnswer_turn (s : State) (a : HostAns) : (giveAnswer s a).turn = s.turn := rfl
@[simp] theorem giveAnswer_free (s : State) (a : HostAns) : (giveAnswer s a).free = s.free := rfl

/-! ### `noteOut` -/

@[simp] theorem noteOut_th (s : State) (p : Nat) (e : OutEff) : (noteOut s p e).th = s.th := rfl
@[simp] theorem noteOut_rest (s : State) (p : Nat) (e : OutEff) : (noteOut s p e).rest = s.rest := rfl
@[simp] theorem noteOut_mem (s : State) (p : Nat) (e : OutEff) : (noteOut s p e).mem = s.mem := rfl
@[simp] theorem noteOut_coh (s : State) (p : Nat) (e : OutEff) : (noteOut s p e).coh = s.coh := rfl
@[simp] theorem noteOut_eng (s : State) (p : Nat) (e : OutEff) : (noteOut s p e).eng = s.eng := rfl
@[simp] theorem noteOut_wk (s : State) (p : Nat) (e : OutEff) : (noteOut s p e).wk = s.wk := rfl
@[simp] theorem noteOut_vw (s : State) (p : Nat) (e : OutEff) : (noteOut s p e).vw = s.vw := rfl
@[simp] theorem noteOut_sys (s : State) (p : Nat) (e : OutEff) : (noteOut s p e).sys = s.sys := rfl
@[simp] theorem noteOut_dbg (s : State) (p : Nat) (e : OutEff) : (noteOut s p e).dbg = s.dbg := rfl
@[simp] theorem noteOut_agenda (s : State) (p : Nat) (e : OutEff) : (noteOut s p e).agenda = s.agenda := rfl
@[simp] theorem noteOut_now (s : State) (p : Nat) (e : OutEff) : (noteOut s p e).now = s.now := rfl
@[simp] theorem noteOut_sched (s : State) (p : Nat) (e : OutEff) : (noteOut s p e).sched = s.sched := rfl
@[simp] theorem noteOut_turn (s : State) (p : Nat) (e : OutEff) : (noteOut s p e).turn = s.turn := rfl
@[simp] theorem noteOut_free (s : State) (p : Nat) (e : OutEff) : (noteOut s p e).free = s.free := rfl

/-! ### `holdOut` -/

@[simp] theorem holdOut_th (s : State) (p : Nat) (e : OutEff) : (holdOut s p e).th = s.th := rfl
@[simp] theorem holdOut_rest (s : State) (p : Nat) (e : OutEff) : (holdOut s p e).rest = s.rest := rfl
@[simp] theorem holdOut_mem (s : State) (p : Nat) (e : OutEff) : (holdOut s p e).mem = s.mem := rfl
@[simp] theorem holdOut_coh (s : State) (p : Nat) (e : OutEff) : (holdOut s p e).coh = s.coh := rfl
@[simp] theorem holdOut_eng (s : State) (p : Nat) (e : OutEff) : (holdOut s p e).eng = s.eng := rfl
@[simp] theorem holdOut_wk (s : State) (p : Nat) (e : OutEff) : (holdOut s p e).wk = s.wk := rfl
@[simp] theorem holdOut_vw (s : State) (p : Nat) (e : OutEff) : (holdOut s p e).vw = s.vw := rfl
@[simp] theorem holdOut_sys (s : State) (p : Nat) (e : OutEff) : (holdOut s p e).sys = s.sys := rfl
@[simp] theorem holdOut_dbg (s : State) (p : Nat) (e : OutEff) : (holdOut s p e).dbg = s.dbg := rfl
@[simp] theorem holdOut_agenda (s : State) (p : Nat) (e : OutEff) : (holdOut s p e).agenda = s.agenda := rfl
@[simp] theorem holdOut_now (s : State) (p : Nat) (e : OutEff) : (holdOut s p e).now = s.now := rfl
@[simp] theorem holdOut_sched (s : State) (p : Nat) (e : OutEff) : (holdOut s p e).sched = s.sched := rfl
@[simp] theorem holdOut_turn (s : State) (p : Nat) (e : OutEff) : (holdOut s p e).turn = s.turn := rfl
@[simp] theorem holdOut_free (s : State) (p : Nat) (e : OutEff) : (holdOut s p e).free = s.free := rfl

/-! ### `dropWatch` -/

@[simp] theorem dropWatch_th (s : State) (u : Nat) : (dropWatch s u).th = s.th := rfl
@[simp] theorem dropWatch_rest (s : State) (u : Nat) : (dropWatch s u).rest = s.rest := rfl
@[simp] theorem dropWatch_mem (s : State) (u : Nat) : (dropWatch s u).mem = s.mem := rfl
@[simp] theorem dropWatch_eng (s : State) (u : Nat) : (dropWatch s u).eng = s.eng := rfl
@[simp] theorem dropWatch_wk (s : State) (u : Nat) : (dropWatch s u).wk = s.wk := rfl
@[simp] theorem dropWatch_vw (s : State) (u : Nat) : (dropWatch s u).vw = s.vw := rfl
@[simp] theorem dropWatch_sys (s : State) (u : Nat) : (dropWatch s u).sys = s.sys := rfl
@[simp] theorem dropWatch_dbg (s : State) (u : Nat) : (dropWatch s u).dbg = s.dbg := rfl
@[simp] theorem dropWatch_rep (s : State) (u : Nat) : (dropWatch s u).rep = s.rep := rfl
@[simp] theorem dropWatch_agenda (s : State) (u : Nat) : (dropWatch s u).agenda = s.agenda := rfl
@[simp] theorem dropWatch_now (s : State) (u : Nat) : (dropWatch s u).now = s.now := rfl
@[simp] theorem dropWatch_sched (s : State) (u : Nat) : (dropWatch s u).sched = s.sched := rfl
@[simp] theorem dropWatch_turn (s : State) (u : Nat) : (dropWatch s u).turn = s.turn := rfl
@[simp] theorem dropWatch_free (s : State) (u : Nat) : (dropWatch s u).free = s.free := rfl

/-! ### `l1Put` -/

@[simp] theorem l1Put_th (s : State) (l : L1Line) : (l1Put s l).th = s.th := rfl
@[simp] theorem l1Put_rest (s : State) (l : L1Line) : (l1Put s l).rest = s.rest := rfl
@[simp] theorem l1Put_mem (s : State) (l : L1Line) : (l1Put s l).mem = s.mem := rfl
@[simp] theorem l1Put_eng (s : State) (l : L1Line) : (l1Put s l).eng = s.eng := rfl
@[simp] theorem l1Put_wk (s : State) (l : L1Line) : (l1Put s l).wk = s.wk := rfl
@[simp] theorem l1Put_vw (s : State) (l : L1Line) : (l1Put s l).vw = s.vw := rfl
@[simp] theorem l1Put_sys (s : State) (l : L1Line) : (l1Put s l).sys = s.sys := rfl
@[simp] theorem l1Put_dbg (s : State) (l : L1Line) : (l1Put s l).dbg = s.dbg := rfl
@[simp] theorem l1Put_rep (s : State) (l : L1Line) : (l1Put s l).rep = s.rep := rfl
@[simp] theorem l1Put_agenda (s : State) (l : L1Line) : (l1Put s l).agenda = s.agenda := rfl
@[simp] theorem l1Put_now (s : State) (l : L1Line) : (l1Put s l).now = s.now := rfl
@[simp] theorem l1Put_sched (s : State) (l : L1Line) : (l1Put s l).sched = s.sched := rfl
@[simp] theorem l1Put_turn (s : State) (l : L1Line) : (l1Put s l).turn = s.turn := rfl
@[simp] theorem l1Put_free (s : State) (l : L1Line) : (l1Put s l).free = s.free := rfl

/-! ### `l1Drop` -/

@[simp] theorem l1Drop_th (s : State) (c l : Nat) : (l1Drop s c l).th = s.th := rfl
@[simp] theorem l1Drop_rest (s : State) (c l : Nat) : (l1Drop s c l).rest = s.rest := rfl
@[simp] theorem l1Drop_mem (s : State) (c l : Nat) : (l1Drop s c l).mem = s.mem := rfl
@[simp] theorem l1Drop_eng (s : State) (c l : Nat) : (l1Drop s c l).eng = s.eng := rfl
@[simp] theorem l1Drop_wk (s : State) (c l : Nat) : (l1Drop s c l).wk = s.wk := rfl
@[simp] theorem l1Drop_vw (s : State) (c l : Nat) : (l1Drop s c l).vw = s.vw := rfl
@[simp] theorem l1Drop_sys (s : State) (c l : Nat) : (l1Drop s c l).sys = s.sys := rfl
@[simp] theorem l1Drop_dbg (s : State) (c l : Nat) : (l1Drop s c l).dbg = s.dbg := rfl
@[simp] theorem l1Drop_rep (s : State) (c l : Nat) : (l1Drop s c l).rep = s.rep := rfl
@[simp] theorem l1Drop_agenda (s : State) (c l : Nat) : (l1Drop s c l).agenda = s.agenda := rfl
@[simp] theorem l1Drop_now (s : State) (c l : Nat) : (l1Drop s c l).now = s.now := rfl
@[simp] theorem l1Drop_sched (s : State) (c l : Nat) : (l1Drop s c l).sched = s.sched := rfl
@[simp] theorem l1Drop_turn (s : State) (c l : Nat) : (l1Drop s c l).turn = s.turn := rfl
@[simp] theorem l1Drop_free (s : State) (c l : Nat) : (l1Drop s c l).free = s.free := rfl

/-! ### `setDir` -/

@[simp] theorem setDir_th (s : State) (d : DirEnt) : (setDir s d).th = s.th := rfl
@[simp] theorem setDir_rest (s : State) (d : DirEnt) : (setDir s d).rest = s.rest := rfl
@[simp] theorem setDir_mem (s : State) (d : DirEnt) : (setDir s d).mem = s.mem := rfl
@[simp] theorem setDir_coh (s : State) (d : DirEnt) : (setDir s d).coh = { s.coh with dir := d :: s.coh.dir.filter (fun x => x.line != d.line) } := rfl
@[simp] theorem setDir_eng (s : State) (d : DirEnt) : (setDir s d).eng = s.eng := rfl
@[simp] theorem setDir_wk (s : State) (d : DirEnt) : (setDir s d).wk = s.wk := rfl
@[simp] theorem setDir_vw (s : State) (d : DirEnt) : (setDir s d).vw = s.vw := rfl
@[simp] theorem setDir_sys (s : State) (d : DirEnt) : (setDir s d).sys = s.sys := rfl
@[simp] theorem setDir_dbg (s : State) (d : DirEnt) : (setDir s d).dbg = s.dbg := rfl
@[simp] theorem setDir_rep (s : State) (d : DirEnt) : (setDir s d).rep = s.rep := rfl
@[simp] theorem setDir_agenda (s : State) (d : DirEnt) : (setDir s d).agenda = s.agenda := rfl
@[simp] theorem setDir_now (s : State) (d : DirEnt) : (setDir s d).now = s.now := rfl
@[simp] theorem setDir_sched (s : State) (d : DirEnt) : (setDir s d).sched = s.sched := rfl
@[simp] theorem setDir_turn (s : State) (d : DirEnt) : (setDir s d).turn = s.turn := rfl
@[simp] theorem setDir_free (s : State) (d : DirEnt) : (setDir s d).free = s.free := rfl

/-! ### `setFork` -/

@[simp] theorem setFork_th (s : State) (f : Fork) : (setFork s f).th = s.th := rfl
@[simp] theorem setFork_rest (s : State) (f : Fork) : (setFork s f).rest = s.rest := rfl
@[simp] theorem setFork_mem (s : State) (f : Fork) : (setFork s f).mem = s.mem := rfl
@[simp] theorem setFork_coh (s : State) (f : Fork) : (setFork s f).coh = s.coh := rfl
@[simp] theorem setFork_eng (s : State) (f : Fork) : (setFork s f).eng = s.eng := rfl
@[simp] theorem setFork_wk (s : State) (f : Fork) : (setFork s f).wk = s.wk := rfl
@[simp] theorem setFork_sys (s : State) (f : Fork) : (setFork s f).sys = s.sys := rfl
@[simp] theorem setFork_dbg (s : State) (f : Fork) : (setFork s f).dbg = s.dbg := rfl
@[simp] theorem setFork_rep (s : State) (f : Fork) : (setFork s f).rep = s.rep := rfl
@[simp] theorem setFork_agenda (s : State) (f : Fork) : (setFork s f).agenda = s.agenda := rfl
@[simp] theorem setFork_now (s : State) (f : Fork) : (setFork s f).now = s.now := rfl
@[simp] theorem setFork_sched (s : State) (f : Fork) : (setFork s f).sched = s.sched := rfl
@[simp] theorem setFork_turn (s : State) (f : Fork) : (setFork s f).turn = s.turn := rfl
@[simp] theorem setFork_free (s : State) (f : Fork) : (setFork s f).free = s.free := rfl

/-! ### `setTile` -/

@[simp] theorem setTile_th (s : State) (t : Tile) : (setTile s t).th = s.th := rfl
@[simp] theorem setTile_rest (s : State) (t : Tile) : (setTile s t).rest = s.rest := rfl
@[simp] theorem setTile_mem (s : State) (t : Tile) : (setTile s t).mem = s.mem := rfl
@[simp] theorem setTile_coh (s : State) (t : Tile) : (setTile s t).coh = s.coh := rfl
@[simp] theorem setTile_wk (s : State) (t : Tile) : (setTile s t).wk = s.wk := rfl
@[simp] theorem setTile_vw (s : State) (t : Tile) : (setTile s t).vw = s.vw := rfl
@[simp] theorem setTile_sys (s : State) (t : Tile) : (setTile s t).sys = s.sys := rfl
@[simp] theorem setTile_dbg (s : State) (t : Tile) : (setTile s t).dbg = s.dbg := rfl
@[simp] theorem setTile_rep (s : State) (t : Tile) : (setTile s t).rep = s.rep := rfl
@[simp] theorem setTile_agenda (s : State) (t : Tile) : (setTile s t).agenda = s.agenda := rfl
@[simp] theorem setTile_now (s : State) (t : Tile) : (setTile s t).now = s.now := rfl
@[simp] theorem setTile_sched (s : State) (t : Tile) : (setTile s t).sched = s.sched := rfl
@[simp] theorem setTile_turn (s : State) (t : Tile) : (setTile s t).turn = s.turn := rfl
@[simp] theorem setTile_free (s : State) (t : Tile) : (setTile s t).free = s.free := rfl

/-! ### `setRing` -/

@[simp] theorem setRing_th (s : State) (r : Ring) : (setRing s r).th = s.th := rfl
@[simp] theorem setRing_rest (s : State) (r : Ring) : (setRing s r).rest = s.rest := rfl
@[simp] theorem setRing_mem (s : State) (r : Ring) : (setRing s r).mem = s.mem := rfl
@[simp] theorem setRing_coh (s : State) (r : Ring) : (setRing s r).coh = s.coh := rfl
@[simp] theorem setRing_wk (s : State) (r : Ring) : (setRing s r).wk = s.wk := rfl
@[simp] theorem setRing_vw (s : State) (r : Ring) : (setRing s r).vw = s.vw := rfl
@[simp] theorem setRing_sys (s : State) (r : Ring) : (setRing s r).sys = s.sys := rfl
@[simp] theorem setRing_dbg (s : State) (r : Ring) : (setRing s r).dbg = s.dbg := rfl
@[simp] theorem setRing_rep (s : State) (r : Ring) : (setRing s r).rep = s.rep := rfl
@[simp] theorem setRing_agenda (s : State) (r : Ring) : (setRing s r).agenda = s.agenda := rfl
@[simp] theorem setRing_now (s : State) (r : Ring) : (setRing s r).now = s.now := rfl
@[simp] theorem setRing_sched (s : State) (r : Ring) : (setRing s r).sched = s.sched := rfl
@[simp] theorem setRing_turn (s : State) (r : Ring) : (setRing s r).turn = s.turn := rfl
@[simp] theorem setRing_free (s : State) (r : Ring) : (setRing s r).free = s.free := rfl

/-! ### `setQs` -/

@[simp] theorem setQs_th (s : State) (e : QSched) : (setQs s e).th = s.th := rfl
@[simp] theorem setQs_rest (s : State) (e : QSched) : (setQs s e).rest = s.rest := rfl
@[simp] theorem setQs_mem (s : State) (e : QSched) : (setQs s e).mem = s.mem := rfl
@[simp] theorem setQs_coh (s : State) (e : QSched) : (setQs s e).coh = s.coh := rfl
@[simp] theorem setQs_eng (s : State) (e : QSched) : (setQs s e).eng = s.eng := rfl
@[simp] theorem setQs_vw (s : State) (e : QSched) : (setQs s e).vw = s.vw := rfl
@[simp] theorem setQs_sys (s : State) (e : QSched) : (setQs s e).sys = s.sys := rfl
@[simp] theorem setQs_dbg (s : State) (e : QSched) : (setQs s e).dbg = s.dbg := rfl
@[simp] theorem setQs_rep (s : State) (e : QSched) : (setQs s e).rep = s.rep := rfl
@[simp] theorem setQs_agenda (s : State) (e : QSched) : (setQs s e).agenda = s.agenda := rfl
@[simp] theorem setQs_now (s : State) (e : QSched) : (setQs s e).now = s.now := rfl
@[simp] theorem setQs_sched (s : State) (e : QSched) : (setQs s e).sched = s.sched := rfl
@[simp] theorem setQs_turn (s : State) (e : QSched) : (setQs s e).turn = s.turn := rfl
@[simp] theorem setQs_free (s : State) (e : QSched) : (setQs s e).free = s.free := rfl

/-! ### `setClWork` -/

@[simp] theorem setClWork_th (s : State) (c : Nat) (w : ClWork) : (setClWork s c w).th = s.th := rfl
@[simp] theorem setClWork_rest (s : State) (c : Nat) (w : ClWork) : (setClWork s c w).rest = s.rest := rfl
@[simp] theorem setClWork_mem (s : State) (c : Nat) (w : ClWork) : (setClWork s c w).mem = s.mem := rfl
@[simp] theorem setClWork_coh (s : State) (c : Nat) (w : ClWork) : (setClWork s c w).coh = s.coh := rfl
@[simp] theorem setClWork_eng (s : State) (c : Nat) (w : ClWork) : (setClWork s c w).eng = s.eng := rfl
@[simp] theorem setClWork_wk (s : State) (c : Nat) (w : ClWork) : (setClWork s c w).wk = { s.wk with cl := Assoc.set s.wk.cl c w } := rfl
@[simp] theorem setClWork_vw (s : State) (c : Nat) (w : ClWork) : (setClWork s c w).vw = s.vw := rfl
@[simp] theorem setClWork_sys (s : State) (c : Nat) (w : ClWork) : (setClWork s c w).sys = s.sys := rfl
@[simp] theorem setClWork_dbg (s : State) (c : Nat) (w : ClWork) : (setClWork s c w).dbg = s.dbg := rfl
@[simp] theorem setClWork_rep (s : State) (c : Nat) (w : ClWork) : (setClWork s c w).rep = s.rep := rfl
@[simp] theorem setClWork_agenda (s : State) (c : Nat) (w : ClWork) : (setClWork s c w).agenda = s.agenda := rfl
@[simp] theorem setClWork_now (s : State) (c : Nat) (w : ClWork) : (setClWork s c w).now = s.now := rfl
@[simp] theorem setClWork_sched (s : State) (c : Nat) (w : ClWork) : (setClWork s c w).sched = s.sched := rfl
@[simp] theorem setClWork_turn (s : State) (c : Nat) (w : ClWork) : (setClWork s c w).turn = s.turn := rfl
@[simp] theorem setClWork_free (s : State) (c : Nat) (w : ClWork) : (setClWork s c w).free = s.free := rfl

/-! ### `setAlloc` -/

@[simp] theorem setAlloc_th (s : State) (a : Alloc) : (setAlloc s a).th = s.th := rfl
@[simp] theorem setAlloc_rest (s : State) (a : Alloc) : (setAlloc s a).rest = s.rest := rfl
@[simp] theorem setAlloc_mem (s : State) (a : Alloc) : (setAlloc s a).mem = s.mem := rfl
@[simp] theorem setAlloc_coh (s : State) (a : Alloc) : (setAlloc s a).coh = s.coh := rfl
@[simp] theorem setAlloc_eng (s : State) (a : Alloc) : (setAlloc s a).eng = s.eng := rfl
@[simp] theorem setAlloc_vw (s : State) (a : Alloc) : (setAlloc s a).vw = s.vw := rfl
@[simp] theorem setAlloc_sys (s : State) (a : Alloc) : (setAlloc s a).sys = s.sys := rfl
@[simp] theorem setAlloc_dbg (s : State) (a : Alloc) : (setAlloc s a).dbg = s.dbg := rfl
@[simp] theorem setAlloc_rep (s : State) (a : Alloc) : (setAlloc s a).rep = s.rep := rfl
@[simp] theorem setAlloc_agenda (s : State) (a : Alloc) : (setAlloc s a).agenda = s.agenda := rfl
@[simp] theorem setAlloc_now (s : State) (a : Alloc) : (setAlloc s a).now = s.now := rfl
@[simp] theorem setAlloc_sched (s : State) (a : Alloc) : (setAlloc s a).sched = s.sched := rfl
@[simp] theorem setAlloc_turn (s : State) (a : Alloc) : (setAlloc s a).turn = s.turn := rfl
@[simp] theorem setAlloc_free (s : State) (a : Alloc) : (setAlloc s a).free = s.free := rfl

/-! ### `updLaunch` -/

@[simp] theorem updLaunch_th (s : State) (n : Nat) (f : Launch → Launch) : (updLaunch s n f).th = s.th := rfl
@[simp] theorem updLaunch_rest (s : State) (n : Nat) (f : Launch → Launch) : (updLaunch s n f).rest = s.rest := rfl
@[simp] theorem updLaunch_mem (s : State) (n : Nat) (f : Launch → Launch) : (updLaunch s n f).mem = s.mem := rfl
@[simp] theorem updLaunch_coh (s : State) (n : Nat) (f : Launch → Launch) : (updLaunch s n f).coh = s.coh := rfl
@[simp] theorem updLaunch_eng (s : State) (n : Nat) (f : Launch → Launch) : (updLaunch s n f).eng = s.eng := rfl
@[simp] theorem updLaunch_vw (s : State) (n : Nat) (f : Launch → Launch) : (updLaunch s n f).vw = s.vw := rfl
@[simp] theorem updLaunch_sys (s : State) (n : Nat) (f : Launch → Launch) : (updLaunch s n f).sys = s.sys := rfl
@[simp] theorem updLaunch_dbg (s : State) (n : Nat) (f : Launch → Launch) : (updLaunch s n f).dbg = s.dbg := rfl
@[simp] theorem updLaunch_rep (s : State) (n : Nat) (f : Launch → Launch) : (updLaunch s n f).rep = s.rep := rfl
@[simp] theorem updLaunch_agenda (s : State) (n : Nat) (f : Launch → Launch) : (updLaunch s n f).agenda = s.agenda := rfl
@[simp] theorem updLaunch_now (s : State) (n : Nat) (f : Launch → Launch) : (updLaunch s n f).now = s.now := rfl
@[simp] theorem updLaunch_sched (s : State) (n : Nat) (f : Launch → Launch) : (updLaunch s n f).sched = s.sched := rfl
@[simp] theorem updLaunch_turn (s : State) (n : Nat) (f : Launch → Launch) : (updLaunch s n f).turn = s.turn := rfl
@[simp] theorem updLaunch_free (s : State) (n : Nat) (f : Launch → Launch) : (updLaunch s n f).free = s.free := rfl

/-! ### `setRuns` -/

@[simp] theorem setRuns_th (s : State) (rs : List FilterRun) : (setRuns s rs).th = s.th := rfl
@[simp] theorem setRuns_rest (s : State) (rs : List FilterRun) : (setRuns s rs).rest = s.rest := rfl
@[simp] theorem setRuns_mem (s : State) (rs : List FilterRun) : (setRuns s rs).mem = s.mem := rfl
@[simp] theorem setRuns_coh (s : State) (rs : List FilterRun) : (setRuns s rs).coh = s.coh := rfl
@[simp] theorem setRuns_eng (s : State) (rs : List FilterRun) : (setRuns s rs).eng = s.eng := rfl
@[simp] theorem setRuns_wk (s : State) (rs : List FilterRun) : (setRuns s rs).wk = s.wk := rfl
@[simp] theorem setRuns_vw (s : State) (rs : List FilterRun) : (setRuns s rs).vw = s.vw := rfl
@[simp] theorem setRuns_sys (s : State) (rs : List FilterRun) : (setRuns s rs).sys = s.sys := rfl
@[simp] theorem setRuns_dbg (s : State) (rs : List FilterRun) : (setRuns s rs).dbg = { s.dbg with runs := rs } := rfl
@[simp] theorem setRuns_rep (s : State) (rs : List FilterRun) : (setRuns s rs).rep = s.rep := rfl
@[simp] theorem setRuns_agenda (s : State) (rs : List FilterRun) : (setRuns s rs).agenda = s.agenda := rfl
@[simp] theorem setRuns_now (s : State) (rs : List FilterRun) : (setRuns s rs).now = s.now := rfl
@[simp] theorem setRuns_sched (s : State) (rs : List FilterRun) : (setRuns s rs).sched = s.sched := rfl
@[simp] theorem setRuns_turn (s : State) (rs : List FilterRun) : (setRuns s rs).turn = s.turn := rfl
@[simp] theorem setRuns_free (s : State) (rs : List FilterRun) : (setRuns s rs).free = s.free := rfl

/-! ### `setReq` -/

@[simp] theorem setReq_th (s : State) (r : CommitReq) : (setReq s r).th = s.th := rfl
@[simp] theorem setReq_rest (s : State) (r : CommitReq) : (setReq s r).rest = s.rest := rfl
@[simp] theorem setReq_mem (s : State) (r : CommitReq) : (setReq s r).mem = s.mem := rfl
@[simp] theorem setReq_eng (s : State) (r : CommitReq) : (setReq s r).eng = s.eng := rfl
@[simp] theorem setReq_wk (s : State) (r : CommitReq) : (setReq s r).wk = s.wk := rfl
@[simp] theorem setReq_vw (s : State) (r : CommitReq) : (setReq s r).vw = s.vw := rfl
@[simp] theorem setReq_sys (s : State) (r : CommitReq) : (setReq s r).sys = s.sys := rfl
@[simp] theorem setReq_dbg (s : State) (r : CommitReq) : (setReq s r).dbg = s.dbg := rfl
@[simp] theorem setReq_rep (s : State) (r : CommitReq) : (setReq s r).rep = s.rep := rfl
@[simp] theorem setReq_agenda (s : State) (r : CommitReq) : (setReq s r).agenda = s.agenda := rfl
@[simp] theorem setReq_now (s : State) (r : CommitReq) : (setReq s r).now = s.now := rfl
@[simp] theorem setReq_sched (s : State) (r : CommitReq) : (setReq s r).sched = s.sched := rfl
@[simp] theorem setReq_turn (s : State) (r : CommitReq) : (setReq s r).turn = s.turn := rfl
@[simp] theorem setReq_free (s : State) (r : CommitReq) : (setReq s r).free = s.free := rfl

/-! ### `bumpLc` -/

@[simp] theorem bumpLc_th (s : State) (c v : Nat) : (bumpLc s c v).th = s.th := rfl
@[simp] theorem bumpLc_rest (s : State) (c v : Nat) : (bumpLc s c v).rest = s.rest := rfl
@[simp] theorem bumpLc_mem (s : State) (c v : Nat) : (bumpLc s c v).mem = s.mem := rfl
@[simp] theorem bumpLc_eng (s : State) (c v : Nat) : (bumpLc s c v).eng = s.eng := rfl
@[simp] theorem bumpLc_wk (s : State) (c v : Nat) : (bumpLc s c v).wk = s.wk := rfl
@[simp] theorem bumpLc_vw (s : State) (c v : Nat) : (bumpLc s c v).vw = s.vw := rfl
@[simp] theorem bumpLc_sys (s : State) (c v : Nat) : (bumpLc s c v).sys = s.sys := rfl
@[simp] theorem bumpLc_dbg (s : State) (c v : Nat) : (bumpLc s c v).dbg = s.dbg := rfl
@[simp] theorem bumpLc_rep (s : State) (c v : Nat) : (bumpLc s c v).rep = s.rep := rfl
@[simp] theorem bumpLc_agenda (s : State) (c v : Nat) : (bumpLc s c v).agenda = s.agenda := rfl
@[simp] theorem bumpLc_now (s : State) (c v : Nat) : (bumpLc s c v).now = s.now := rfl
@[simp] theorem bumpLc_sched (s : State) (c v : Nat) : (bumpLc s c v).sched = s.sched := rfl
@[simp] theorem bumpLc_turn (s : State) (c v : Nat) : (bumpLc s c v).turn = s.turn := rfl
@[simp] theorem bumpLc_free (s : State) (c v : Nat) : (bumpLc s c v).free = s.free := rfl

/-! ### `updCc` -/

@[simp] theorem updCc_th (s : State) (c x : Nat) (f : CoreCtx → CoreCtx) : (updCc s c x f).th = s.th := rfl
@[simp] theorem updCc_rest (s : State) (c x : Nat) (f : CoreCtx → CoreCtx) : (updCc s c x f).rest = s.rest := rfl
@[simp] theorem updCc_mem (s : State) (c x : Nat) (f : CoreCtx → CoreCtx) : (updCc s c x f).mem = s.mem := rfl
@[simp] theorem updCc_coh (s : State) (c x : Nat) (f : CoreCtx → CoreCtx) : (updCc s c x f).coh = s.coh := rfl
@[simp] theorem updCc_eng (s : State) (c x : Nat) (f : CoreCtx → CoreCtx) : (updCc s c x f).eng = { s.eng with cc := Assoc.set s.eng.cc (c, x) (f (ccOf s c x)) } := rfl
@[simp] theorem updCc_wk (s : State) (c x : Nat) (f : CoreCtx → CoreCtx) : (updCc s c x f).wk = s.wk := rfl
@[simp] theorem updCc_vw (s : State) (c x : Nat) (f : CoreCtx → CoreCtx) : (updCc s c x f).vw = s.vw := rfl
@[simp] theorem updCc_sys (s : State) (c x : Nat) (f : CoreCtx → CoreCtx) : (updCc s c x f).sys = s.sys := rfl
@[simp] theorem updCc_dbg (s : State) (c x : Nat) (f : CoreCtx → CoreCtx) : (updCc s c x f).dbg = s.dbg := rfl
@[simp] theorem updCc_rep (s : State) (c x : Nat) (f : CoreCtx → CoreCtx) : (updCc s c x f).rep = s.rep := rfl
@[simp] theorem updCc_agenda (s : State) (c x : Nat) (f : CoreCtx → CoreCtx) : (updCc s c x f).agenda = s.agenda := rfl
@[simp] theorem updCc_now (s : State) (c x : Nat) (f : CoreCtx → CoreCtx) : (updCc s c x f).now = s.now := rfl
@[simp] theorem updCc_sched (s : State) (c x : Nat) (f : CoreCtx → CoreCtx) : (updCc s c x f).sched = s.sched := rfl
@[simp] theorem updCc_turn (s : State) (c x : Nat) (f : CoreCtx → CoreCtx) : (updCc s c x f).turn = s.turn := rfl
@[simp] theorem updCc_free (s : State) (c x : Nat) (f : CoreCtx → CoreCtx) : (updCc s c x f).free = s.free := rfl

/-! ### `l1DropAll` -/

@[simp] theorem l1DropAll_th (s : State) (l : Nat) (c : MemClass) : (l1DropAll s l c).th = s.th := rfl
@[simp] theorem l1DropAll_rest (s : State) (l : Nat) (c : MemClass) : (l1DropAll s l c).rest = s.rest := rfl
@[simp] theorem l1DropAll_mem (s : State) (l : Nat) (c : MemClass) : (l1DropAll s l c).mem = s.mem := rfl
@[simp] theorem l1DropAll_eng (s : State) (l : Nat) (c : MemClass) : (l1DropAll s l c).eng = s.eng := rfl
@[simp] theorem l1DropAll_wk (s : State) (l : Nat) (c : MemClass) : (l1DropAll s l c).wk = s.wk := rfl
@[simp] theorem l1DropAll_vw (s : State) (l : Nat) (c : MemClass) : (l1DropAll s l c).vw = s.vw := rfl
@[simp] theorem l1DropAll_sys (s : State) (l : Nat) (c : MemClass) : (l1DropAll s l c).sys = s.sys := rfl
@[simp] theorem l1DropAll_dbg (s : State) (l : Nat) (c : MemClass) : (l1DropAll s l c).dbg = s.dbg := rfl
@[simp] theorem l1DropAll_rep (s : State) (l : Nat) (c : MemClass) : (l1DropAll s l c).rep = s.rep := rfl
@[simp] theorem l1DropAll_agenda (s : State) (l : Nat) (c : MemClass) : (l1DropAll s l c).agenda = s.agenda := rfl
@[simp] theorem l1DropAll_now (s : State) (l : Nat) (c : MemClass) : (l1DropAll s l c).now = s.now := rfl
@[simp] theorem l1DropAll_sched (s : State) (l : Nat) (c : MemClass) : (l1DropAll s l c).sched = s.sched := rfl
@[simp] theorem l1DropAll_turn (s : State) (l : Nat) (c : MemClass) : (l1DropAll s l c).turn = s.turn := rfl
@[simp] theorem l1DropAll_free (s : State) (l : Nat) (c : MemClass) : (l1DropAll s l c).free = s.free := rfl

/-! ### `queueAt` -/

@[simp] theorem queueAt_th (s : State) (l : Nat) (h : Held) : (queueAt s l h).th = s.th := rfl
@[simp] theorem queueAt_rest (s : State) (l : Nat) (h : Held) : (queueAt s l h).rest = s.rest := rfl
@[simp] theorem queueAt_mem (s : State) (l : Nat) (h : Held) : (queueAt s l h).mem = s.mem := rfl
@[simp] theorem queueAt_eng (s : State) (l : Nat) (h : Held) : (queueAt s l h).eng = s.eng := rfl
@[simp] theorem queueAt_wk (s : State) (l : Nat) (h : Held) : (queueAt s l h).wk = s.wk := rfl
@[simp] theorem queueAt_vw (s : State) (l : Nat) (h : Held) : (queueAt s l h).vw = s.vw := rfl
@[simp] theorem queueAt_sys (s : State) (l : Nat) (h : Held) : (queueAt s l h).sys = s.sys := rfl
@[simp] theorem queueAt_dbg (s : State) (l : Nat) (h : Held) : (queueAt s l h).dbg = s.dbg := rfl
@[simp] theorem queueAt_rep (s : State) (l : Nat) (h : Held) : (queueAt s l h).rep = s.rep := rfl
@[simp] theorem queueAt_agenda (s : State) (l : Nat) (h : Held) : (queueAt s l h).agenda = s.agenda := rfl
@[simp] theorem queueAt_now (s : State) (l : Nat) (h : Held) : (queueAt s l h).now = s.now := rfl
@[simp] theorem queueAt_sched (s : State) (l : Nat) (h : Held) : (queueAt s l h).sched = s.sched := rfl
@[simp] theorem queueAt_turn (s : State) (l : Nat) (h : Held) : (queueAt s l h).turn = s.turn := rfl
@[simp] theorem queueAt_free (s : State) (l : Nat) (h : Held) : (queueAt s l h).free = s.free := rfl

/-! ### `setVersion` -/

@[simp] theorem setVersion_th (s : State) (v : Version) : (setVersion s v).th = s.th := rfl
@[simp] theorem setVersion_rest (s : State) (v : Version) : (setVersion s v).rest = s.rest := rfl
@[simp] theorem setVersion_mem (s : State) (v : Version) : (setVersion s v).mem = s.mem := rfl
@[simp] theorem setVersion_coh (s : State) (v : Version) : (setVersion s v).coh = s.coh := rfl
@[simp] theorem setVersion_eng (s : State) (v : Version) : (setVersion s v).eng = s.eng := rfl
@[simp] theorem setVersion_wk (s : State) (v : Version) : (setVersion s v).wk = s.wk := rfl
@[simp] theorem setVersion_sys (s : State) (v : Version) : (setVersion s v).sys = s.sys := rfl
@[simp] theorem setVersion_dbg (s : State) (v : Version) : (setVersion s v).dbg = s.dbg := rfl
@[simp] theorem setVersion_rep (s : State) (v : Version) : (setVersion s v).rep = s.rep := rfl
@[simp] theorem setVersion_agenda (s : State) (v : Version) : (setVersion s v).agenda = s.agenda := rfl
@[simp] theorem setVersion_now (s : State) (v : Version) : (setVersion s v).now = s.now := rfl
@[simp] theorem setVersion_sched (s : State) (v : Version) : (setVersion s v).sched = s.sched := rfl
@[simp] theorem setVersion_turn (s : State) (v : Version) : (setVersion s v).turn = s.turn := rfl
@[simp] theorem setVersion_free (s : State) (v : Version) : (setVersion s v).free = s.free := rfl

/-! ### `dropTlb` -/

@[simp] theorem dropTlb_th (s : State) (g : Tlb → Bool) : (dropTlb s g).th = s.th := rfl
@[simp] theorem dropTlb_rest (s : State) (g : Tlb → Bool) : (dropTlb s g).rest = s.rest := rfl
@[simp] theorem dropTlb_coh (s : State) (g : Tlb → Bool) : (dropTlb s g).coh = s.coh := rfl
@[simp] theorem dropTlb_eng (s : State) (g : Tlb → Bool) : (dropTlb s g).eng = s.eng := rfl
@[simp] theorem dropTlb_wk (s : State) (g : Tlb → Bool) : (dropTlb s g).wk = s.wk := rfl
@[simp] theorem dropTlb_vw (s : State) (g : Tlb → Bool) : (dropTlb s g).vw = s.vw := rfl
@[simp] theorem dropTlb_sys (s : State) (g : Tlb → Bool) : (dropTlb s g).sys = s.sys := rfl
@[simp] theorem dropTlb_dbg (s : State) (g : Tlb → Bool) : (dropTlb s g).dbg = s.dbg := rfl
@[simp] theorem dropTlb_rep (s : State) (g : Tlb → Bool) : (dropTlb s g).rep = s.rep := rfl
@[simp] theorem dropTlb_agenda (s : State) (g : Tlb → Bool) : (dropTlb s g).agenda = s.agenda := rfl
@[simp] theorem dropTlb_now (s : State) (g : Tlb → Bool) : (dropTlb s g).now = s.now := rfl
@[simp] theorem dropTlb_sched (s : State) (g : Tlb → Bool) : (dropTlb s g).sched = s.sched := rfl
@[simp] theorem dropTlb_turn (s : State) (g : Tlb → Bool) : (dropTlb s g).turn = s.turn := rfl
@[simp] theorem dropTlb_free (s : State) (g : Tlb → Bool) : (dropTlb s g).free = s.free := rfl

/-! ### `dropWalks` -/

@[simp] theorem dropWalks_th (s : State) (c v : Nat) : (dropWalks s c v).th = s.th := rfl
@[simp] theorem dropWalks_rest (s : State) (c v : Nat) : (dropWalks s c v).rest = s.rest := rfl
@[simp] theorem dropWalks_coh (s : State) (c v : Nat) : (dropWalks s c v).coh = s.coh := rfl
@[simp] theorem dropWalks_eng (s : State) (c v : Nat) : (dropWalks s c v).eng = s.eng := rfl
@[simp] theorem dropWalks_wk (s : State) (c v : Nat) : (dropWalks s c v).wk = s.wk := rfl
@[simp] theorem dropWalks_vw (s : State) (c v : Nat) : (dropWalks s c v).vw = s.vw := rfl
@[simp] theorem dropWalks_sys (s : State) (c v : Nat) : (dropWalks s c v).sys = s.sys := rfl
@[simp] theorem dropWalks_dbg (s : State) (c v : Nat) : (dropWalks s c v).dbg = s.dbg := rfl
@[simp] theorem dropWalks_rep (s : State) (c v : Nat) : (dropWalks s c v).rep = s.rep := rfl
@[simp] theorem dropWalks_agenda (s : State) (c v : Nat) : (dropWalks s c v).agenda = s.agenda := rfl
@[simp] theorem dropWalks_now (s : State) (c v : Nat) : (dropWalks s c v).now = s.now := rfl
@[simp] theorem dropWalks_sched (s : State) (c v : Nat) : (dropWalks s c v).sched = s.sched := rfl
@[simp] theorem dropWalks_turn (s : State) (c v : Nat) : (dropWalks s c v).turn = s.turn := rfl
@[simp] theorem dropWalks_free (s : State) (c v : Nat) : (dropWalks s c v).free = s.free := rfl

/-! ### `setLayout` -/

@[simp] theorem setLayout_th (s : State) (l : Layout) : (setLayout s l).th = s.th := rfl
@[simp] theorem setLayout_rest (s : State) (l : Layout) : (setLayout s l).rest = s.rest := rfl
@[simp] theorem setLayout_mem (s : State) (l : Layout) : (setLayout s l).mem = s.mem := rfl
@[simp] theorem setLayout_coh (s : State) (l : Layout) : (setLayout s l).coh = s.coh := rfl
@[simp] theorem setLayout_wk (s : State) (l : Layout) : (setLayout s l).wk = s.wk := rfl
@[simp] theorem setLayout_vw (s : State) (l : Layout) : (setLayout s l).vw = s.vw := rfl
@[simp] theorem setLayout_sys (s : State) (l : Layout) : (setLayout s l).sys = s.sys := rfl
@[simp] theorem setLayout_dbg (s : State) (l : Layout) : (setLayout s l).dbg = s.dbg := rfl
@[simp] theorem setLayout_rep (s : State) (l : Layout) : (setLayout s l).rep = s.rep := rfl
@[simp] theorem setLayout_agenda (s : State) (l : Layout) : (setLayout s l).agenda = s.agenda := rfl
@[simp] theorem setLayout_now (s : State) (l : Layout) : (setLayout s l).now = s.now := rfl
@[simp] theorem setLayout_sched (s : State) (l : Layout) : (setLayout s l).sched = s.sched := rfl
@[simp] theorem setLayout_turn (s : State) (l : Layout) : (setLayout s l).turn = s.turn := rfl
@[simp] theorem setLayout_free (s : State) (l : Layout) : (setLayout s l).free = s.free := rfl

/-! ### `setSub` -/

@[simp] theorem setSub_th (s : State) (e : Sub) : (setSub s e).th = s.th := rfl
@[simp] theorem setSub_rest (s : State) (e : Sub) : (setSub s e).rest = s.rest := rfl
@[simp] theorem setSub_mem (s : State) (e : Sub) : (setSub s e).mem = s.mem := rfl
@[simp] theorem setSub_coh (s : State) (e : Sub) : (setSub s e).coh = s.coh := rfl
@[simp] theorem setSub_wk (s : State) (e : Sub) : (setSub s e).wk = s.wk := rfl
@[simp] theorem setSub_vw (s : State) (e : Sub) : (setSub s e).vw = s.vw := rfl
@[simp] theorem setSub_sys (s : State) (e : Sub) : (setSub s e).sys = s.sys := rfl
@[simp] theorem setSub_dbg (s : State) (e : Sub) : (setSub s e).dbg = s.dbg := rfl
@[simp] theorem setSub_rep (s : State) (e : Sub) : (setSub s e).rep = s.rep := rfl
@[simp] theorem setSub_agenda (s : State) (e : Sub) : (setSub s e).agenda = s.agenda := rfl
@[simp] theorem setSub_now (s : State) (e : Sub) : (setSub s e).now = s.now := rfl
@[simp] theorem setSub_sched (s : State) (e : Sub) : (setSub s e).sched = s.sched := rfl
@[simp] theorem setSub_turn (s : State) (e : Sub) : (setSub s e).turn = s.turn := rfl
@[simp] theorem setSub_free (s : State) (e : Sub) : (setSub s e).free = s.free := rfl

/-! ### `setActive` -/

@[simp] theorem setActive_th (s : State) (c : Command) : (setActive s c).th = s.th := rfl
@[simp] theorem setActive_rest (s : State) (c : Command) : (setActive s c).rest = s.rest := rfl
@[simp] theorem setActive_mem (s : State) (c : Command) : (setActive s c).mem = s.mem := rfl
@[simp] theorem setActive_coh (s : State) (c : Command) : (setActive s c).coh = s.coh := rfl
@[simp] theorem setActive_wk (s : State) (c : Command) : (setActive s c).wk = s.wk := rfl
@[simp] theorem setActive_vw (s : State) (c : Command) : (setActive s c).vw = s.vw := rfl
@[simp] theorem setActive_sys (s : State) (c : Command) : (setActive s c).sys = s.sys := rfl
@[simp] theorem setActive_dbg (s : State) (c : Command) : (setActive s c).dbg = s.dbg := rfl
@[simp] theorem setActive_rep (s : State) (c : Command) : (setActive s c).rep = s.rep := rfl
@[simp] theorem setActive_agenda (s : State) (c : Command) : (setActive s c).agenda = s.agenda := rfl
@[simp] theorem setActive_now (s : State) (c : Command) : (setActive s c).now = s.now := rfl
@[simp] theorem setActive_sched (s : State) (c : Command) : (setActive s c).sched = s.sched := rfl
@[simp] theorem setActive_turn (s : State) (c : Command) : (setActive s c).turn = s.turn := rfl
@[simp] theorem setActive_free (s : State) (c : Command) : (setActive s c).free = s.free := rfl

/-! ### `setMcast` -/

@[simp] theorem setMcast_th (s : State) (m : Mcast) : (setMcast s m).th = s.th := rfl
@[simp] theorem setMcast_rest (s : State) (m : Mcast) : (setMcast s m).rest = s.rest := rfl
@[simp] theorem setMcast_mem (s : State) (m : Mcast) : (setMcast s m).mem = s.mem := rfl
@[simp] theorem setMcast_coh (s : State) (m : Mcast) : (setMcast s m).coh = s.coh := rfl
@[simp] theorem setMcast_wk (s : State) (m : Mcast) : (setMcast s m).wk = s.wk := rfl
@[simp] theorem setMcast_vw (s : State) (m : Mcast) : (setMcast s m).vw = s.vw := rfl
@[simp] theorem setMcast_sys (s : State) (m : Mcast) : (setMcast s m).sys = s.sys := rfl
@[simp] theorem setMcast_dbg (s : State) (m : Mcast) : (setMcast s m).dbg = s.dbg := rfl
@[simp] theorem setMcast_rep (s : State) (m : Mcast) : (setMcast s m).rep = s.rep := rfl
@[simp] theorem setMcast_agenda (s : State) (m : Mcast) : (setMcast s m).agenda = s.agenda := rfl
@[simp] theorem setMcast_now (s : State) (m : Mcast) : (setMcast s m).now = s.now := rfl
@[simp] theorem setMcast_sched (s : State) (m : Mcast) : (setMcast s m).sched = s.sched := rfl
@[simp] theorem setMcast_turn (s : State) (m : Mcast) : (setMcast s m).turn = s.turn := rfl
@[simp] theorem setMcast_free (s : State) (m : Mcast) : (setMcast s m).free = s.free := rfl

/-! ### `putMsg` -/

@[simp] theorem putMsg_th (s : State) (c x : Nat) (m : BoxMsg) : (putMsg s c x m).th = s.th := rfl
@[simp] theorem putMsg_rest (s : State) (c x : Nat) (m : BoxMsg) : (putMsg s c x m).rest = s.rest := rfl
@[simp] theorem putMsg_mem (s : State) (c x : Nat) (m : BoxMsg) : (putMsg s c x m).mem = s.mem := rfl
@[simp] theorem putMsg_coh (s : State) (c x : Nat) (m : BoxMsg) : (putMsg s c x m).coh = s.coh := rfl
@[simp] theorem putMsg_wk (s : State) (c x : Nat) (m : BoxMsg) : (putMsg s c x m).wk = s.wk := rfl
@[simp] theorem putMsg_vw (s : State) (c x : Nat) (m : BoxMsg) : (putMsg s c x m).vw = s.vw := rfl
@[simp] theorem putMsg_sys (s : State) (c x : Nat) (m : BoxMsg) : (putMsg s c x m).sys = s.sys := rfl
@[simp] theorem putMsg_dbg (s : State) (c x : Nat) (m : BoxMsg) : (putMsg s c x m).dbg = s.dbg := rfl
@[simp] theorem putMsg_rep (s : State) (c x : Nat) (m : BoxMsg) : (putMsg s c x m).rep = s.rep := rfl
@[simp] theorem putMsg_agenda (s : State) (c x : Nat) (m : BoxMsg) : (putMsg s c x m).agenda = s.agenda := rfl
@[simp] theorem putMsg_now (s : State) (c x : Nat) (m : BoxMsg) : (putMsg s c x m).now = s.now := rfl
@[simp] theorem putMsg_sched (s : State) (c x : Nat) (m : BoxMsg) : (putMsg s c x m).sched = s.sched := rfl
@[simp] theorem putMsg_turn (s : State) (c x : Nat) (m : BoxMsg) : (putMsg s c x m).turn = s.turn := rfl
@[simp] theorem putMsg_free (s : State) (c x : Nat) (m : BoxMsg) : (putMsg s c x m).free = s.free := rfl

/-! ### `updClWork` -/

@[simp] theorem updClWork_th (s : State) (c : Nat) (f : ClWork → ClWork) : (updClWork s c f).th = s.th := rfl
@[simp] theorem updClWork_rest (s : State) (c : Nat) (f : ClWork → ClWork) : (updClWork s c f).rest = s.rest := rfl
@[simp] theorem updClWork_mem (s : State) (c : Nat) (f : ClWork → ClWork) : (updClWork s c f).mem = s.mem := rfl
@[simp] theorem updClWork_coh (s : State) (c : Nat) (f : ClWork → ClWork) : (updClWork s c f).coh = s.coh := rfl
@[simp] theorem updClWork_eng (s : State) (c : Nat) (f : ClWork → ClWork) : (updClWork s c f).eng = s.eng := rfl
@[simp] theorem updClWork_wk (s : State) (c : Nat) (f : ClWork → ClWork) : (updClWork s c f).wk = { s.wk with cl := Assoc.set s.wk.cl c (f (clWork s c)) } := rfl
@[simp] theorem updClWork_vw (s : State) (c : Nat) (f : ClWork → ClWork) : (updClWork s c f).vw = s.vw := rfl
@[simp] theorem updClWork_sys (s : State) (c : Nat) (f : ClWork → ClWork) : (updClWork s c f).sys = s.sys := rfl
@[simp] theorem updClWork_dbg (s : State) (c : Nat) (f : ClWork → ClWork) : (updClWork s c f).dbg = s.dbg := rfl
@[simp] theorem updClWork_rep (s : State) (c : Nat) (f : ClWork → ClWork) : (updClWork s c f).rep = s.rep := rfl
@[simp] theorem updClWork_agenda (s : State) (c : Nat) (f : ClWork → ClWork) : (updClWork s c f).agenda = s.agenda := rfl
@[simp] theorem updClWork_now (s : State) (c : Nat) (f : ClWork → ClWork) : (updClWork s c f).now = s.now := rfl
@[simp] theorem updClWork_sched (s : State) (c : Nat) (f : ClWork → ClWork) : (updClWork s c f).sched = s.sched := rfl
@[simp] theorem updClWork_turn (s : State) (c : Nat) (f : ClWork → ClWork) : (updClWork s c f).turn = s.turn := rfl
@[simp] theorem updClWork_free (s : State) (c : Nat) (f : ClWork → ClWork) : (updClWork s c f).free = s.free := rfl

/-! ### `dropInvalidations` -/

@[simp] theorem dropInvalidations_th (s : State) (l : Nat) : (dropInvalidations s l).th = s.th := rfl
@[simp] theorem dropInvalidations_rest (s : State) (l : Nat) : (dropInvalidations s l).rest = s.rest := rfl
@[simp] theorem dropInvalidations_mem (s : State) (l : Nat) : (dropInvalidations s l).mem = s.mem := rfl
@[simp] theorem dropInvalidations_coh (s : State) (l : Nat) : (dropInvalidations s l).coh = s.coh := rfl
@[simp] theorem dropInvalidations_eng (s : State) (l : Nat) : (dropInvalidations s l).eng = s.eng := rfl
@[simp] theorem dropInvalidations_wk (s : State) (l : Nat) : (dropInvalidations s l).wk = s.wk := rfl
@[simp] theorem dropInvalidations_vw (s : State) (l : Nat) : (dropInvalidations s l).vw = s.vw := rfl
@[simp] theorem dropInvalidations_sys (s : State) (l : Nat) : (dropInvalidations s l).sys = s.sys := rfl
@[simp] theorem dropInvalidations_dbg (s : State) (l : Nat) : (dropInvalidations s l).dbg = s.dbg := rfl
@[simp] theorem dropInvalidations_rep (s : State) (l : Nat) : (dropInvalidations s l).rep = s.rep := rfl
@[simp] theorem dropInvalidations_agenda (s : State) (l : Nat) : (dropInvalidations s l).agenda = s.agenda.filter (fun e => !isInvalidation l e) := rfl
@[simp] theorem dropInvalidations_now (s : State) (l : Nat) : (dropInvalidations s l).now = s.now := rfl
@[simp] theorem dropInvalidations_sched (s : State) (l : Nat) : (dropInvalidations s l).sched = s.sched := rfl
@[simp] theorem dropInvalidations_turn (s : State) (l : Nat) : (dropInvalidations s l).turn = s.turn := rfl
@[simp] theorem dropInvalidations_free (s : State) (l : Nat) : (dropInvalidations s l).free = s.free := rfl

/-! ### `clearToken` -/

@[simp] theorem clearToken_th (s : State) : (clearToken s).th = setToken false s.th := rfl
@[simp] theorem clearToken_rest (s : State) : (clearToken s).rest = s.rest := rfl
@[simp] theorem clearToken_mem (s : State) : (clearToken s).mem = s.mem := rfl
@[simp] theorem clearToken_coh (s : State) : (clearToken s).coh = s.coh := rfl
@[simp] theorem clearToken_eng (s : State) : (clearToken s).eng = s.eng := rfl
@[simp] theorem clearToken_wk (s : State) : (clearToken s).wk = s.wk := rfl
@[simp] theorem clearToken_vw (s : State) : (clearToken s).vw = s.vw := rfl
@[simp] theorem clearToken_sys (s : State) : (clearToken s).sys = s.sys := rfl
@[simp] theorem clearToken_dbg (s : State) : (clearToken s).dbg = s.dbg := rfl
@[simp] theorem clearToken_rep (s : State) : (clearToken s).rep = s.rep := rfl
@[simp] theorem clearToken_agenda (s : State) : (clearToken s).agenda = s.agenda := rfl
@[simp] theorem clearToken_now (s : State) : (clearToken s).now = s.now := rfl
@[simp] theorem clearToken_sched (s : State) : (clearToken s).sched = s.sched := rfl
@[simp] theorem clearToken_turn (s : State) : (clearToken s).turn = s.turn := rfl
@[simp] theorem clearToken_free (s : State) : (clearToken s).free = s.free := rfl

/-! ### `setBlock` -/

@[simp] theorem setBlock_th (s : State) (n : Nat) (pas : List Nat) : (setBlock s n pas).th = s.th := rfl
@[simp] theorem setBlock_rest (s : State) (n : Nat) (pas : List Nat) : (setBlock s n pas).rest = s.rest := rfl
@[simp] theorem setBlock_mem (s : State) (n : Nat) (pas : List Nat) : (setBlock s n pas).mem = s.mem := rfl
@[simp] theorem setBlock_coh (s : State) (n : Nat) (pas : List Nat) : (setBlock s n pas).coh = s.coh := rfl
@[simp] theorem setBlock_eng (s : State) (n : Nat) (pas : List Nat) : (setBlock s n pas).eng = s.eng := rfl
@[simp] theorem setBlock_vw (s : State) (n : Nat) (pas : List Nat) : (setBlock s n pas).vw = s.vw := rfl
@[simp] theorem setBlock_sys (s : State) (n : Nat) (pas : List Nat) : (setBlock s n pas).sys = s.sys := rfl
@[simp] theorem setBlock_dbg (s : State) (n : Nat) (pas : List Nat) : (setBlock s n pas).dbg = s.dbg := rfl
@[simp] theorem setBlock_rep (s : State) (n : Nat) (pas : List Nat) : (setBlock s n pas).rep = s.rep := rfl
@[simp] theorem setBlock_agenda (s : State) (n : Nat) (pas : List Nat) : (setBlock s n pas).agenda = s.agenda := rfl
@[simp] theorem setBlock_now (s : State) (n : Nat) (pas : List Nat) : (setBlock s n pas).now = s.now := rfl
@[simp] theorem setBlock_sched (s : State) (n : Nat) (pas : List Nat) : (setBlock s n pas).sched = s.sched := rfl
@[simp] theorem setBlock_turn (s : State) (n : Nat) (pas : List Nat) : (setBlock s n pas).turn = s.turn := rfl
@[simp] theorem setBlock_free (s : State) (n : Nat) (pas : List Nat) : (setBlock s n pas).free = s.free := rfl

/-! ### `freeLaunch` -/

@[simp] theorem freeLaunch_th (s : State) (n : Nat) : (freeLaunch s n).th = s.th := rfl
@[simp] theorem freeLaunch_rest (s : State) (n : Nat) : (freeLaunch s n).rest = s.rest := rfl
@[simp] theorem freeLaunch_mem (s : State) (n : Nat) : (freeLaunch s n).mem = s.mem := rfl
@[simp] theorem freeLaunch_coh (s : State) (n : Nat) : (freeLaunch s n).coh = s.coh := rfl
@[simp] theorem freeLaunch_eng (s : State) (n : Nat) : (freeLaunch s n).eng = s.eng := rfl
@[simp] theorem freeLaunch_vw (s : State) (n : Nat) : (freeLaunch s n).vw = s.vw := rfl
@[simp] theorem freeLaunch_sys (s : State) (n : Nat) : (freeLaunch s n).sys = s.sys := rfl
@[simp] theorem freeLaunch_dbg (s : State) (n : Nat) : (freeLaunch s n).dbg = s.dbg := rfl
@[simp] theorem freeLaunch_rep (s : State) (n : Nat) : (freeLaunch s n).rep = s.rep := rfl
@[simp] theorem freeLaunch_agenda (s : State) (n : Nat) : (freeLaunch s n).agenda = s.agenda := rfl
@[simp] theorem freeLaunch_now (s : State) (n : Nat) : (freeLaunch s n).now = s.now := rfl
@[simp] theorem freeLaunch_sched (s : State) (n : Nat) : (freeLaunch s n).sched = s.sched := rfl
@[simp] theorem freeLaunch_turn (s : State) (n : Nat) : (freeLaunch s n).turn = s.turn := rfl
@[simp] theorem freeLaunch_free (s : State) (n : Nat) : (freeLaunch s n).free = s.free := rfl

/-! ### `setRecipe` -/

@[simp] theorem setRecipe_th (s : State) (r : Recipe) : (setRecipe s r).th = s.th := rfl
@[simp] theorem setRecipe_rest (s : State) (r : Recipe) : (setRecipe s r).rest = s.rest := rfl
@[simp] theorem setRecipe_mem (s : State) (r : Recipe) : (setRecipe s r).mem = s.mem := rfl
@[simp] theorem setRecipe_coh (s : State) (r : Recipe) : (setRecipe s r).coh = s.coh := rfl
@[simp] theorem setRecipe_eng (s : State) (r : Recipe) : (setRecipe s r).eng = s.eng := rfl
@[simp] theorem setRecipe_vw (s : State) (r : Recipe) : (setRecipe s r).vw = s.vw := rfl
@[simp] theorem setRecipe_sys (s : State) (r : Recipe) : (setRecipe s r).sys = s.sys := rfl
@[simp] theorem setRecipe_dbg (s : State) (r : Recipe) : (setRecipe s r).dbg = s.dbg := rfl
@[simp] theorem setRecipe_rep (s : State) (r : Recipe) : (setRecipe s r).rep = s.rep := rfl
@[simp] theorem setRecipe_agenda (s : State) (r : Recipe) : (setRecipe s r).agenda = s.agenda := rfl
@[simp] theorem setRecipe_now (s : State) (r : Recipe) : (setRecipe s r).now = s.now := rfl
@[simp] theorem setRecipe_sched (s : State) (r : Recipe) : (setRecipe s r).sched = s.sched := rfl
@[simp] theorem setRecipe_turn (s : State) (r : Recipe) : (setRecipe s r).turn = s.turn := rfl
@[simp] theorem setRecipe_free (s : State) (r : Recipe) : (setRecipe s r).free = s.free := rfl

/-! ### A write sent to its home -/

@[simp] theorem sendEntry_th (s : State) (c h : Nat) (e : Event) : (sendEntry s c h e).th = s.th := by unfold sendEntry; split <;> rfl
@[simp] theorem sendEntry_rest (s : State) (c h : Nat) (e : Event) : (sendEntry s c h e).rest = s.rest := by unfold sendEntry; split <;> rfl
@[simp] theorem sendEntry_mem (s : State) (c h : Nat) (e : Event) : (sendEntry s c h e).mem = s.mem := by unfold sendEntry; split <;> rfl
@[simp] theorem sendEntry_coh (s : State) (c h : Nat) (e : Event) : (sendEntry s c h e).coh = s.coh := by unfold sendEntry; split <;> rfl
@[simp] theorem sendEntry_eng (s : State) (c h : Nat) (e : Event) : (sendEntry s c h e).eng = s.eng := by unfold sendEntry; split <;> rfl
@[simp] theorem sendEntry_wk (s : State) (c h : Nat) (e : Event) : (sendEntry s c h e).wk = s.wk := by unfold sendEntry; split <;> rfl
@[simp] theorem sendEntry_vw (s : State) (c h : Nat) (e : Event) : (sendEntry s c h e).vw = s.vw := by unfold sendEntry; split <;> rfl
@[simp] theorem sendEntry_sys (s : State) (c h : Nat) (e : Event) : (sendEntry s c h e).sys = s.sys := by unfold sendEntry; split <;> rfl
@[simp] theorem sendEntry_dbg (s : State) (c h : Nat) (e : Event) : (sendEntry s c h e).dbg = s.dbg := by unfold sendEntry; split <;> rfl
@[simp] theorem sendEntry_rep (s : State) (c h : Nat) (e : Event) : (sendEntry s c h e).rep = s.rep := by unfold sendEntry; split <;> rfl
@[simp] theorem sendEntry_now (s : State) (c h : Nat) (e : Event) : (sendEntry s c h e).now = s.now := by unfold sendEntry; split <;> rfl
@[simp] theorem sendEntry_sched (s : State) (c h : Nat) (e : Event) : (sendEntry s c h e).sched = s.sched := by unfold sendEntry; split <;> rfl
@[simp] theorem sendEntry_turn (s : State) (c h : Nat) (e : Event) : (sendEntry s c h e).turn = s.turn := by unfold sendEntry; split <;> rfl
@[simp] theorem sendEntry_free (s : State) (c h : Nat) (e : Event) : (sendEntry s c h e).free = s.free := by unfold sendEntry; split <;> rfl
@[simp] theorem postWrite_th (s : State) (pa : Nat) (d : List (Option Byte)) (a : Nat) : (postWrite s pa d a).th = s.th := by
  unfold postWrite; dsimp only; split; · rfl
  split <;> simp
@[simp] theorem postWrite_rest (s : State) (pa : Nat) (d : List (Option Byte)) (a : Nat) : (postWrite s pa d a).rest = s.rest := by
  unfold postWrite; dsimp only; split; · rfl
  split <;> simp
@[simp] theorem postWrite_mem (s : State) (pa : Nat) (d : List (Option Byte)) (a : Nat) : (postWrite s pa d a).mem = s.mem := by
  unfold postWrite; dsimp only; split; · rfl
  split <;> simp
@[simp] theorem postWrite_coh (s : State) (pa : Nat) (d : List (Option Byte)) (a : Nat) : (postWrite s pa d a).coh = s.coh := by
  unfold postWrite; dsimp only; split; · rfl
  split <;> simp
@[simp] theorem postWrite_eng (s : State) (pa : Nat) (d : List (Option Byte)) (a : Nat) : (postWrite s pa d a).eng = s.eng := by
  unfold postWrite; dsimp only; split; · rfl
  split <;> simp
@[simp] theorem postWrite_wk (s : State) (pa : Nat) (d : List (Option Byte)) (a : Nat) : (postWrite s pa d a).wk = s.wk := by
  unfold postWrite; dsimp only; split; · rfl
  split <;> simp
@[simp] theorem postWrite_vw (s : State) (pa : Nat) (d : List (Option Byte)) (a : Nat) : (postWrite s pa d a).vw = s.vw := by
  unfold postWrite; dsimp only; split; · rfl
  split <;> simp
@[simp] theorem postWrite_sys (s : State) (pa : Nat) (d : List (Option Byte)) (a : Nat) : (postWrite s pa d a).sys = s.sys := by
  unfold postWrite; dsimp only; split; · rfl
  split <;> simp
@[simp] theorem postWrite_dbg (s : State) (pa : Nat) (d : List (Option Byte)) (a : Nat) : (postWrite s pa d a).dbg = s.dbg := by
  unfold postWrite; dsimp only; split; · rfl
  split <;> simp
@[simp] theorem postWrite_rep (s : State) (pa : Nat) (d : List (Option Byte)) (a : Nat) : (postWrite s pa d a).rep = s.rep := by
  unfold postWrite; dsimp only; split; · rfl
  split <;> simp
@[simp] theorem postWrite_now (s : State) (pa : Nat) (d : List (Option Byte)) (a : Nat) : (postWrite s pa d a).now = s.now := by
  unfold postWrite; dsimp only; split; · rfl
  split <;> simp
@[simp] theorem postWrite_sched (s : State) (pa : Nat) (d : List (Option Byte)) (a : Nat) : (postWrite s pa d a).sched = s.sched := by
  unfold postWrite; dsimp only; split; · rfl
  split <;> simp
@[simp] theorem postWrite_turn (s : State) (pa : Nat) (d : List (Option Byte)) (a : Nat) : (postWrite s pa d a).turn = s.turn := by
  unfold postWrite; dsimp only; split; · rfl
  split <;> simp
@[simp] theorem postWrite_free (s : State) (pa : Nat) (d : List (Option Byte)) (a : Nat) : (postWrite s pa d a).free = s.free := by
  unfold postWrite; dsimp only; split; · rfl
  split <;> simp

/-! ### Bytes of memory written -/

@[simp] theorem markPage_th (s : State) (pa : Nat) : (markPage s pa).th = s.th := by unfold markPage; split <;> rfl
@[simp] theorem markPage_rest (s : State) (pa : Nat) : (markPage s pa).rest = s.rest := by unfold markPage; split <;> rfl
@[simp] theorem markPage_mem (s : State) (pa : Nat) : (markPage s pa).mem = s.mem := by unfold markPage; split <;> rfl
@[simp] theorem markPage_coh (s : State) (pa : Nat) : (markPage s pa).coh = s.coh := by unfold markPage; split <;> rfl
@[simp] theorem markPage_eng (s : State) (pa : Nat) : (markPage s pa).eng = s.eng := by unfold markPage; split <;> rfl
@[simp] theorem markPage_wk (s : State) (pa : Nat) : (markPage s pa).wk = s.wk := by unfold markPage; split <;> rfl
@[simp] theorem markPage_vw (s : State) (pa : Nat) : (markPage s pa).vw = s.vw := by unfold markPage; split <;> rfl
@[simp] theorem markPage_sys (s : State) (pa : Nat) : (markPage s pa).sys = s.sys := by unfold markPage; split <;> rfl
@[simp] theorem markPage_dbg (s : State) (pa : Nat) : (markPage s pa).dbg = s.dbg := by unfold markPage; split <;> rfl
@[simp] theorem markPage_agenda (s : State) (pa : Nat) : (markPage s pa).agenda = s.agenda := by unfold markPage; split <;> rfl
@[simp] theorem markPage_now (s : State) (pa : Nat) : (markPage s pa).now = s.now := by unfold markPage; split <;> rfl
@[simp] theorem markPage_sched (s : State) (pa : Nat) : (markPage s pa).sched = s.sched := by unfold markPage; split <;> rfl
@[simp] theorem markPage_turn (s : State) (pa : Nat) : (markPage s pa).turn = s.turn := by unfold markPage; split <;> rfl
@[simp] theorem markPage_free (s : State) (pa : Nat) : (markPage s pa).free = s.free := by unfold markPage; split <;> rfl
@[simp] theorem memWriteMask_th (s : State) (pa : Nat) (d : List (Option Byte)) : (memWriteMask s pa d).th = s.th := by simp [memWriteMask]
@[simp] theorem memWriteMask_rest (s : State) (pa : Nat) (d : List (Option Byte)) : (memWriteMask s pa d).rest = s.rest := by simp [memWriteMask]
@[simp] theorem memWriteMask_coh (s : State) (pa : Nat) (d : List (Option Byte)) : (memWriteMask s pa d).coh = s.coh := by simp [memWriteMask]
@[simp] theorem memWriteMask_eng (s : State) (pa : Nat) (d : List (Option Byte)) : (memWriteMask s pa d).eng = s.eng := by simp [memWriteMask]
@[simp] theorem memWriteMask_wk (s : State) (pa : Nat) (d : List (Option Byte)) : (memWriteMask s pa d).wk = s.wk := by simp [memWriteMask]
@[simp] theorem memWriteMask_vw (s : State) (pa : Nat) (d : List (Option Byte)) : (memWriteMask s pa d).vw = s.vw := by simp [memWriteMask]
@[simp] theorem memWriteMask_sys (s : State) (pa : Nat) (d : List (Option Byte)) : (memWriteMask s pa d).sys = s.sys := by simp [memWriteMask]
@[simp] theorem memWriteMask_dbg (s : State) (pa : Nat) (d : List (Option Byte)) : (memWriteMask s pa d).dbg = s.dbg := by simp [memWriteMask]
@[simp] theorem memWriteMask_agenda (s : State) (pa : Nat) (d : List (Option Byte)) : (memWriteMask s pa d).agenda = s.agenda := by simp [memWriteMask]
@[simp] theorem memWriteMask_now (s : State) (pa : Nat) (d : List (Option Byte)) : (memWriteMask s pa d).now = s.now := by simp [memWriteMask]
@[simp] theorem memWriteMask_sched (s : State) (pa : Nat) (d : List (Option Byte)) : (memWriteMask s pa d).sched = s.sched := by simp [memWriteMask]
@[simp] theorem memWriteMask_turn (s : State) (pa : Nat) (d : List (Option Byte)) : (memWriteMask s pa d).turn = s.turn := by simp [memWriteMask]
@[simp] theorem memWriteMask_free (s : State) (pa : Nat) (d : List (Option Byte)) : (memWriteMask s pa d).free = s.free := by simp [memWriteMask]
@[simp] theorem memWriteMask_mem (s : State) (pa : Nat) (d : List (Option Byte)) :
    (memWriteMask s pa d).mem = { s.mem with cells := cellsWriteMask s.mem.cells pa d } := by simp [memWriteMask]

/-! ### A register write -/

@[simp] theorem pushArch_pc (a : Arch) (d : Dest) (v : Word) (lat : Nat) : (pushArch a d v lat).pc = a.pc := by cases d <;> rfl
@[simp] theorem pushArch_fpctl (a : Arch) (d : Dest) (v : Word) (lat : Nat) : (pushArch a d v lat).fpctl = a.fpctl := by cases d <;> rfl
@[simp] theorem pushArch_fpflags (a : Arch) (d : Dest) (v : Word) (lat : Nat) : (pushArch a d v lat).fpflags = a.fpflags := by cases d <;> rfl
@[simp] theorem pushArch_chk (a : Arch) (d : Dest) (v : Word) (lat : Nat) : (pushArch a d v lat).chk = a.chk := by cases d <;> rfl
@[simp] theorem pushArch_sup (a : Arch) (d : Dest) (v : Word) (lat : Nat) : (pushArch a d v lat).sup = a.sup := by cases d <;> rfl
@[simp] theorem pushArch_token (a : Arch) (d : Dest) (v : Word) (lat : Nat) : (pushArch a d v lat).token = a.token := by cases d <;> rfl
@[simp] theorem pushArch_grpslots (a : Arch) (d : Dest) (v : Word) (lat : Nat) : (pushArch a d v lat).grpslots = a.grpslots := by cases d <;> rfl
@[simp] theorem pushArch_suppress (a : Arch) (d : Dest) (v : Word) (lat : Nat) : (pushArch a d v lat).suppress = a.suppress := by cases d <;> rfl
@[simp] theorem pushArch_monitor (a : Arch) (d : Dest) (v : Word) (lat : Nat) : (pushArch a d v lat).monitor = a.monitor := by cases d <;> rfl
@[simp] theorem pushArch_binds (a : Arch) (d : Dest) (v : Word) (lat : Nat) : (pushArch a d v lat).binds = a.binds := by cases d <;> rfl
@[simp] theorem pushArch_level (a : Arch) (d : Dest) (v : Word) (lat : Nat) : (pushArch a d v lat).level = a.level := by cases d <;> rfl
@[simp] theorem pushArch_lastStamp (a : Arch) (d : Dest) (v : Word) (lat : Nat) : (pushArch a d v lat).lastStamp = a.lastStamp := by cases d <;> rfl
@[simp] theorem pushArch_dist (a : Arch) (d : Dest) (v : Word) (lat : Nat) : (pushArch a d v lat).dist = a.dist := by cases d <;> rfl
@[simp] theorem pushArch_drop (a : Arch) (v : Word) (lat : Nat) : pushArch a .drop v lat = a := rfl
theorem pushArch_n (a : Arch) (d : Dest) (v : Word) (lat : Nat) :
    (pushArch a d v lat).n = match d with
      | .reg k => a.n.set k.val { val := v, born := a.dist, lat := lat }
      | _ => a.n := by cases d <;> rfl
theorem pushArch_q (a : Arch) (d : Dest) (v : Word) (lat : Nat) :
    (pushArch a d v lat).q = match d with
      | .drop => a.q
      | _ => ({ val := v, born := a.dist, lat := lat } :: a.q).take 16 := by cases d <;> rfl

end Sys2Proof.Machine
end

