-- ==== Sys2Proof/Laws/Counts.lean ====
section
/-! SUPPORT. Laws/Counts.lean: tables, and what counting an event can change: counters, VFINT, answers, pending steps, Sillage events and
free values, and nothing else. -/

namespace Sys2Proof.Machine

/-! ### Tables -/

theorem Assoc.get_erase_other {κ α : Type} [DecidableEq κ] (l : List (κ × α)) (k x : κ) (h : x ≠ k) :
    Assoc.get (Assoc.erase l k) x = Assoc.get l x := by
  induction l with
  | nil => rfl
  | cons e l ih =>
    obtain ⟨a, v⟩ := e
    simp only [Assoc.erase, List.filter_cons] at ih ⊢
    by_cases ha : a = k
    · subst ha
      simp only [ne_eq, not_true_eq_false, decide_false, Bool.false_eq_true, ite_false, Assoc.get]
      rw [if_neg (fun e => h e.symm)]
      exact ih
    · simp only [ne_eq, ha, not_false_eq_true, decide_true, ite_true, Assoc.get]
      rw [ih]

theorem Assoc.get_erase_same {κ α : Type} [DecidableEq κ] (l : List (κ × α)) (k : κ) : Assoc.get (Assoc.erase l k) k = none := by
  induction l with
  | nil => rfl
  | cons e l ih =>
    obtain ⟨a, v⟩ := e
    simp only [Assoc.erase, List.filter_cons] at ih ⊢
    by_cases ha : a = k
    · simp only [ha, ne_eq, not_true_eq_false, decide_false, Bool.false_eq_true, ite_false]
      exact ih
    · simp only [ne_eq, ha, not_false_eq_true, decide_true, ite_true, Assoc.get, ite_false]
      exact ih

@[simp] theorem Assoc.get_set_same {κ α : Type} [DecidableEq κ] (l : List (κ × α)) (k : κ) (v : α) :
    Assoc.get (Assoc.set l k v) k = some v := by simp [Assoc.set, Assoc.get]

theorem Assoc.get_set_other {κ α : Type} [DecidableEq κ] (l : List (κ × α)) (k x : κ) (v : α) (h : x ≠ k) :
    Assoc.get (Assoc.set l k v) x = Assoc.get l x := by
  simp only [Assoc.set, Assoc.get]
  rw [if_neg (fun e => h e.symm)]
  exact Assoc.get_erase_other l k x h

@[simp] theorem Assoc.getD_set_same {κ α : Type} [DecidableEq κ] (l : List (κ × α)) (k : κ) (v d : α) :
    Assoc.getD (Assoc.set l k v) k d = v := by simp [Assoc.getD]

theorem Assoc.getD_set_other {κ α : Type} [DecidableEq κ] (l : List (κ × α)) (k x : κ) (v d : α) (h : x ≠ k) :
    Assoc.getD (Assoc.set l k v) x d = Assoc.getD l x d := by simp [Assoc.getD, Assoc.get_set_other l k x v h]

/-- A register of control space reads as written. -/
@[simp] theorem ctlGet_set_same (s : State) (off : Nat) (v : Word) : ctlGet (ctlSet s off v) off = v := by
  unfold ctlGet ctlSet
  by_cases h : v = ctlReset off
  · simp [h, Assoc.getD, Assoc.get_erase_same]
  · simp [h]

/-- Every other one is left. -/
theorem ctlGet_set_other (s : State) (off x : Nat) (v : Word) (h : x ≠ off) : ctlGet (ctlSet s off v) x = ctlGet s x := by
  unfold ctlGet ctlSet
  by_cases hv : v = ctlReset off
  · simp [hv, Assoc.getD, Assoc.get_erase_other _ _ _ h]
  · simp [hv, Assoc.getD_set_other _ _ _ _ _ h]

/-! ### Counting -/

end Sys2Proof.Machine

namespace Sys2Proof.Safety.Counts

open Sys2Proof.Machine

theorem refl (s : State) : Counts s s :=
  ⟨rfl, rfl, rfl, rfl, rfl, rfl, rfl, rfl, rfl, rfl, fun _ => rfl, rfl, fun _ _ => rfl, rfl, rfl⟩

theorem trans {a b c : State} (h : Counts a b) (k : Counts b c) : Counts a c where
  th := k.th.trans h.th
  rest := k.rest.trans h.rest
  mem := k.mem.trans h.mem
  coh := k.coh.trans h.coh
  wk := k.wk.trans h.wk
  vw := k.vw.trans h.vw
  now := k.now.trans h.now
  sched := k.sched.trans h.sched
  turn := k.turn.trans h.turn
  eng := by rw [k.eng, h.eng]
  cc := fun x => (k.cc x).trans (h.cc x)
  sys := by rw [k.sys, h.sys]
  ctl := fun o n => (k.ctl o n).trans (h.ctl o n)
  dbg := by rw [k.dbg, h.dbg]
  rep := by rw [k.rep, h.rep]

theorem post (s : State) (e : Event) : Counts s (Machine.post s e) :=
  ⟨rfl, rfl, rfl, rfl, rfl, rfl, rfl, rfl, rfl, rfl, fun _ => rfl, rfl, fun _ _ => rfl, rfl, rfl⟩

theorem postOnce (s : State) (e : Event) : Counts s (Machine.postOnce s e) := by
  unfold Machine.postOnce
  split
  · exact refl s
  · exact post s e

theorem ctlSet (s : State) (off : Nat) (v : Word) (h : Countable off) : Counts s (Machine.ctlSet s off v) :=
  ⟨rfl, rfl, rfl, rfl, rfl, rfl, rfl, rfl, rfl, rfl, fun _ => rfl, rfl,
    fun x n => ctlGet_set_other s off x v (fun e => n (e ▸ h)), rfl, rfl⟩

theorem holdOut (s : State) (p : Nat) (e : OutEff) : Counts s (Machine.holdOut s p e) :=
  ⟨rfl, rfl, rfl, rfl, rfl, rfl, rfl, rfl, rfl, rfl, fun _ => rfl, rfl, fun _ _ => rfl, rfl, rfl⟩

theorem giveNote (s : State) (p : Nat) (e : OutEff) (a : HostAns) : Counts s (giveAnswer (noteOut s p e) a) :=
  ⟨rfl, rfl, rfl, rfl, rfl, rfl, rfl, rfl, rfl, rfl, fun _ => rfl, rfl, fun _ _ => rfl, rfl, rfl⟩

theorem takeSkip {s t : State} {p : Nat} {e : OutEff} (h : Machine.takeSkip s p e = some t) : Counts s t := by
  unfold Machine.takeSkip at h
  split at h
  · cases h
    exact ⟨rfl, rfl, rfl, rfl, rfl, rfl, rfl, rfl, rfl, rfl, fun _ => rfl, rfl, fun _ _ => rfl, rfl, rfl⟩
  · cases h

theorem emit (s : State) (p : Nat) (a : HostAns) : Counts s (Machine.emit s p a) := by
  unfold Machine.emit
  split
  · exact refl s
  · split
    · exact takeSkip (by assumption)
    · split
      · exact giveNote s p _ a
      · exact holdOut s p _

theorem vfInterrupt (s : State) (v cause : Nat) : Counts s (Machine.vfInterrupt s v cause) := by
  unfold Machine.vfInterrupt
  simp only
  have h := ctlSet s (vfAddr v 0x10) ((ctlGet s (vfAddr v 0x10)).putBits cause cause 1) (.inl ⟨v, rfl⟩)
  split
  · exact h.trans (emit _ _ _)
  · refine h.trans ?_
    cases hs : Machine.takeSkip (Machine.ctlSet s (vfAddr v 0x10) ((ctlGet s (vfAddr v 0x10)).putBits cause cause 1)) (vfPart s v)
        (.answer (.interrupt v cause)) with
    | none => exact refl _
    | some t => exact takeSkip hs

theorem silPost (s : State) (cls core ctx vf : Nat) (lnum : Option Nat) (index slot : Nat) (more : List Word) :
    Counts s (Machine.silPost s cls core ctx vf lnum index slot more) := by
  unfold Machine.silPost
  simp only
  split
  · exact ⟨rfl, rfl, rfl, rfl, rfl, rfl, rfl, rfl, rfl, rfl, fun _ => rfl, rfl, fun _ _ => rfl, rfl, rfl⟩
  · exact ctlSet s _ _ (.inr ⟨_, _, rfl⟩)

theorem silOfThread (s : State) (t : Thread) (cls : Nat) (more : List Word) : Counts s (Machine.silOfThread s t cls more) :=
  silPost ..

theorem perfWrapped (core ctx vf : Nat) (sel : List Nat) (s : State) (i : Nat) : Counts s (Machine.perfWrapped core ctx vf sel s i) := by
  unfold Machine.perfWrapped
  simp only
  split
  · exact (vfInterrupt s vf 2).trans (silPost ..)
  · exact silPost ..

theorem setPerf (s : State) (core ctx : Nat) (p : List Nat) : Counts s (setCc s core ctx { ccOf s core ctx with perf := p }) := by
  refine ⟨rfl, rfl, rfl, rfl, rfl, rfl, rfl, rfl, rfl, rfl, ?_, rfl, fun _ _ => rfl, rfl, rfl⟩
  intro k
  unfold uncounted setCc ccOf
  by_cases h : k = (core, ctx)
  · subst h
    simp
  · simp [Assoc.getD_set_other _ _ _ _ _ h]

theorem fold {β : Type} (f : State → β → State) (h : ∀ s b, Counts s (f s b)) (l : List β) (s : State) : Counts s (l.foldl f s) := by
  induction l generalizing s with
  | nil => exact refl s
  | cons b l ih => exact (h s b).trans (ih (f s b))

theorem perfCount (s : State) (core ctx vf code n : Nat) : Counts s (Machine.perfCount s core ctx vf code n) := by
  unfold Machine.perfCount
  simp only
  split
  · exact refl s
  · exact (setPerf s core ctx _).trans (fold _ (fun s b => perfWrapped core ctx vf _ s b) _ _)

theorem perfTh (s : State) (t : Thread) (code n : Nat) : Counts s (Machine.perfTh s t code n) := perfCount ..

end Sys2Proof.Safety.Counts
end

