-- ==== Sys2Proof/Laws/Memory.lean ====
section
/-! SUPPORT. Laws/Memory.lean: memory keeps its one form, and reads after writes. -/

namespace Sys2Proof.Machine

/-- Every entry of the memory lies at or above an address. -/
def Memory.from (lo : Nat) (m : List Host.Cell) : Prop := ∀ e ∈ m, lo ≤ e.1

theorem Memory.wf_cons (a : Nat) (b : Byte) (m : List Host.Cell) :
    Memory.wf ((a, b) :: m) = true ↔ b ≠ 0 ∧ Memory.from (a + 1) m ∧ Memory.wf m = true := by
  induction m generalizing a b with
  | nil => simp [Memory.wf, Memory.from]
  | cons e m ih =>
    obtain ⟨a', b'⟩ := e
    have h := ih a' b'
    simp only [Memory.wf, Bool.and_eq_true, bne_iff_ne, decide_eq_true_eq, Memory.from] at h ⊢
    constructor
    · rintro ⟨⟨hb, hlt⟩, hw⟩
      refine ⟨hb, ?_, hw⟩
      intro e he
      rcases List.mem_cons.1 he with rfl | he
      · exact hlt
      · have := (h.1 hw).2.1 e he
        omega
    · rintro ⟨hb, hf, hw⟩
      exact ⟨⟨hb, hf (a', b') (by simp)⟩, hw⟩

theorem mem_cellPut (m : List Host.Cell) (a : Nat) (b : Byte) (e : Host.Cell) (h : e ∈ cellPut m a b) : e = (a, b) ∨ e ∈ m := by
  induction m with
  | nil => unfold cellPut at h; split at h <;> simp_all
  | cons x m ih =>
    obtain ⟨a', b'⟩ := x
    simp only [cellPut] at h
    split at h
    · split at h
      · exact .inr h
      · simpa using h
    · split at h
      · split at h
        · exact .inr (by simp [h])
        · rcases List.mem_cons.1 h with h | h
          · exact .inl h
          · exact .inr (by simp [h])
      · rcases List.mem_cons.1 h with h | h
        · exact .inr (by simp [h])
        · rcases ih h with h | h
          · exact .inl h
          · exact .inr (by simp [h])

theorem cellPut_from (m : List Host.Cell) (a : Nat) (b : Byte) (lo : Nat) (h : Memory.from lo m) (ha : lo ≤ a) :
    Memory.from lo (cellPut m a b) := by
  intro e he
  rcases mem_cellPut m a b e he with rfl | he
  · exact ha
  · exact h e he

/-- A write of one byte keeps the form. -/
theorem cellPut_wf (m : List Host.Cell) (a : Nat) (b : Byte) (h : Memory.wf m = true) : Memory.wf (cellPut m a b) = true := by
  induction m with
  | nil => unfold cellPut; split <;> simp_all [Memory.wf]
  | cons e m ih =>
    obtain ⟨a', b'⟩ := e
    obtain ⟨hb, hf, hw⟩ := (Memory.wf_cons a' b' m).1 h
    have above (hlt : a < a') : Memory.from (a + 1) ((a', b') :: m) := by
      intro e he
      rcases List.mem_cons.1 he with rfl | he
      · exact hlt
      · have := hf e he
        omega
    simp only [cellPut]
    by_cases hlt : a < a'
    · by_cases h0 : b = 0
      · simpa [hlt, h0] using h
      · rw [if_pos hlt, if_neg h0, Memory.wf_cons]
        exact ⟨h0, above hlt, h⟩
    · by_cases he : a = a'
      · subst he
        by_cases h0 : b = 0
        · simpa [h0] using hw
        · rw [if_neg hlt, if_pos rfl, if_neg h0, Memory.wf_cons]
          exact ⟨h0, hf, hw⟩
      · rw [if_neg hlt, if_neg he, Memory.wf_cons]
        exact ⟨hb, cellPut_from m a b (a' + 1) hf (by omega), ih hw⟩

theorem cellsWrite_wf (m : List Host.Cell) (a : Nat) (bs : List Byte) (h : Memory.wf m = true) : Memory.wf (cellsWrite m a bs) = true := by
  induction bs generalizing m a with
  | nil => exact h
  | cons b bs ih => exact ih _ _ (cellPut_wf m a b h)

theorem cellsWriteMask_wf (m : List Host.Cell) (a : Nat) (bs : List (Option Byte)) (h : Memory.wf m = true) :
    Memory.wf (cellsWriteMask m a bs) = true := by
  induction bs generalizing m a with
  | nil => exact h
  | cons b bs ih =>
    cases b with
    | none => exact ih _ _ h
    | some b => exact ih _ _ (cellPut_wf m a b h)

theorem cellsPutAll_wf (m ws : List Host.Cell) (h : Memory.wf m = true) : Memory.wf (cellsPutAll m ws) = true := by
  induction ws with
  | nil => exact h
  | cons w ws ih => exact cellPut_wf _ _ _ ih

/-- Memory at reset has the form. -/
theorem reset_wf : Memory.wf State.reset.mem.cells = true := rfl
theorem reset_iwf : Memory.wf State.reset.mem.icells = true := rfl

theorem cellGet_below (m : List Host.Cell) (a : Nat) (h : Memory.from (a + 1) m) : cellGet m a = 0 := by
  induction m with
  | nil => rfl
  | cons e m ih =>
    obtain ⟨a', b'⟩ := e
    have : a + 1 ≤ a' := h (a', b') (by simp)
    simp only [cellGet]
    rw [if_neg (by omega)]
    exact ih (fun e he => h e (by simp [he]))

/-- The byte read after it has been written. -/
theorem cellGet_put_same (m : List Host.Cell) (a : Nat) (b : Byte) (h : Memory.wf m = true) : cellGet (cellPut m a b) a = b := by
  induction m with
  | nil => unfold cellPut; split <;> simp_all [cellGet]
  | cons e m ih =>
    obtain ⟨a', b'⟩ := e
    obtain ⟨_, hf, hw⟩ := (Memory.wf_cons a' b' m).1 h
    simp only [cellPut]
    split
    · split
      · rename_i hlt hb
        subst hb
        rw [cellGet, if_neg (by omega)]
        exact cellGet_below m a (fun e he => by have := hf e he; omega)
      · simp [cellGet]
    · split
      · split
        · rename_i hb
          subst_vars
          exact cellGet_below m _ hf
        · simp [cellGet]
      · rename_i h1 h2
        rw [cellGet, if_neg (fun e => h2 e.symm)]
        exact ih hw

/-- Every other byte is left. -/
theorem cellGet_put_other (m : List Host.Cell) (a x : Nat) (b : Byte) (hx : x ≠ a) : cellGet (cellPut m a b) x = cellGet m x := by
  have hx' : ¬ a = x := fun e => hx e.symm
  induction m with
  | nil => unfold cellPut; split <;> simp [cellGet, hx']
  | cons e m ih =>
    obtain ⟨a', b'⟩ := e
    simp only [cellPut]
    by_cases hlt : a < a'
    · rw [if_pos hlt]
      split <;> simp [cellGet, hx']
    · by_cases he : a = a'
      · subst he
        rw [if_neg hlt, if_pos rfl]
        split <;> simp [cellGet, hx']
      · simp [hlt, he, cellGet, ih]

/-- Bytes outside a write are left. -/
theorem cellGet_write_other (m : List Host.Cell) (a x : Nat) (bs : List Byte) (hx : x < a ∨ a + bs.length ≤ x) :
    cellGet (cellsWrite m a bs) x = cellGet m x := by
  induction bs generalizing m a with
  | nil => rfl
  | cons b bs ih =>
    simp only [List.length_cons] at hx
    simp only [cellsWrite]
    rw [ih _ _ (by omega), cellGet_put_other _ _ _ _ (by omega)]

theorem cellGet_writeMask_other (m : List Host.Cell) (a x : Nat) (bs : List (Option Byte)) (hx : x < a ∨ a + bs.length ≤ x) :
    cellGet (cellsWriteMask m a bs) x = cellGet m x := by
  induction bs generalizing m a with
  | nil => rfl
  | cons b bs ih =>
    simp only [List.length_cons] at hx
    cases b with
    | none => exact ih _ _ (by omega)
    | some b =>
      simp only [cellsWriteMask]
      rw [ih _ _ (by omega), cellGet_put_other _ _ _ _ (by omega)]

/-- Bytes written are read back. -/
theorem cellGet_write_same (m : List Host.Cell) (a i : Nat) (bs : List Byte) (h : Memory.wf m = true) (hi : i < bs.length) :
    cellGet (cellsWrite m a bs) (a + i) = bs.getD i 0 := by
  induction bs generalizing m a i with
  | nil => simp at hi
  | cons b bs ih =>
    simp only [cellsWrite]
    cases i with
    | zero =>
      rw [cellGet_write_other _ _ _ _ (by omega)]
      exact cellGet_put_same m a b h
    | succ i =>
      have := ih (cellPut m a b) (a + 1) i (cellPut_wf _ _ _ h) (by simpa using hi)
      rw [show a + (i + 1) = a + 1 + i by omega, this]
      rfl

end Sys2Proof.Machine
end

