-- ==== Sys2Proof/Laws/PerInstr.lean ====
section
/-! SUPPORT. PerInstr.lean: for each instruction, how many words its encoding has. -/

namespace Sys2Proof.Laws

/-- A row has at most two words, and no well-formed one has none (R264, R266). -/
def Encodes.Statement (i : Instr) : Prop := ∀ sc : Stall, (encode sc i).length ≤ 2 ∧ (i.wellFormed = true → encode sc i ≠ [])

theorem encodes_one (i : Instr) (w : Stall → Nat) (h : ∀ sc, encode sc i = [w sc]) : Encodes.Statement i := fun sc => by simp [h sc]
theorem encodes_two (i : Instr) (w x : Stall → Nat) (h : ∀ sc, encode sc i = [w sc, x sc]) : Encodes.Statement i := fun sc => by simp [h sc]
theorem encodes_none (i : Instr) (h : ∀ sc, encode sc i = []) (hw : i.wellFormed = false) : Encodes.Statement i := fun sc => by simp [h sc, hw]

theorem Encodes.add (d : Dest) (a : Opnd) (b : Opnd) : Encodes.Statement (.add d a b) := encodes_one _ _ (fun _ => rfl)
theorem Encodes.sub (d : Dest) (a : Opnd) (b : Opnd) : Encodes.Statement (.sub d a b) := encodes_one _ _ (fun _ => rfl)
theorem Encodes.neg (d : Dest) (a : Opnd) : Encodes.Statement (.neg d a) := encodes_one _ _ (fun _ => rfl)
theorem Encodes.mul (d : Dest) (a : Opnd) (b : Opnd) : Encodes.Statement (.mul d a b) := encodes_one _ _ (fun _ => rfl)
theorem Encodes.mulhS (d : Dest) (a : Opnd) (b : Opnd) : Encodes.Statement (.mulhS d a b) := encodes_one _ _ (fun _ => rfl)
theorem Encodes.mulhZ (d : Dest) (a : Opnd) (b : Opnd) : Encodes.Statement (.mulhZ d a b) := encodes_one _ _ (fun _ => rfl)
theorem Encodes.minS (d : Dest) (a : Opnd) (b : Opnd) : Encodes.Statement (.minS d a b) := encodes_one _ _ (fun _ => rfl)
theorem Encodes.minZ (d : Dest) (a : Opnd) (b : Opnd) : Encodes.Statement (.minZ d a b) := encodes_one _ _ (fun _ => rfl)
theorem Encodes.maxS (d : Dest) (a : Opnd) (b : Opnd) : Encodes.Statement (.maxS d a b) := encodes_one _ _ (fun _ => rfl)
theorem Encodes.maxZ (d : Dest) (a : Opnd) (b : Opnd) : Encodes.Statement (.maxZ d a b) := encodes_one _ _ (fun _ => rfl)
theorem Encodes.abs (d : Dest) (a : Opnd) : Encodes.Statement (.abs d a) := encodes_one _ _ (fun _ => rfl)
theorem Encodes.divS (d : Dest) (a : Opnd) (b : Opnd) : Encodes.Statement (.divS d a b) := encodes_one _ _ (fun _ => rfl)
theorem Encodes.divZ (d : Dest) (a : Opnd) (b : Opnd) : Encodes.Statement (.divZ d a b) := encodes_one _ _ (fun _ => rfl)
theorem Encodes.remS (d : Dest) (a : Opnd) (b : Opnd) : Encodes.Statement (.remS d a b) := encodes_one _ _ (fun _ => rfl)
theorem Encodes.remZ (d : Dest) (a : Opnd) (b : Opnd) : Encodes.Statement (.remZ d a b) := encodes_one _ _ (fun _ => rfl)
theorem Encodes.and (d : Dest) (a : Opnd) (b : Opnd) : Encodes.Statement (.and d a b) := encodes_one _ _ (fun _ => rfl)
theorem Encodes.or (d : Dest) (a : Opnd) (b : Opnd) : Encodes.Statement (.or d a b) := encodes_one _ _ (fun _ => rfl)
theorem Encodes.xor (d : Dest) (a : Opnd) (b : Opnd) : Encodes.Statement (.xor d a b) := encodes_one _ _ (fun _ => rfl)
theorem Encodes.andn (d : Dest) (a : Opnd) (b : Opnd) : Encodes.Statement (.andn d a b) := encodes_one _ _ (fun _ => rfl)
theorem Encodes.orn (d : Dest) (a : Opnd) (b : Opnd) : Encodes.Statement (.orn d a b) := encodes_one _ _ (fun _ => rfl)
theorem Encodes.shl (d : Dest) (a : Opnd) (b : Opnd) : Encodes.Statement (.shl d a b) := encodes_one _ _ (fun _ => rfl)
theorem Encodes.shr (d : Dest) (a : Opnd) (b : Opnd) : Encodes.Statement (.shr d a b) := encodes_one _ _ (fun _ => rfl)
theorem Encodes.sar (d : Dest) (a : Opnd) (b : Opnd) : Encodes.Statement (.sar d a b) := encodes_one _ _ (fun _ => rfl)
theorem Encodes.rotl (d : Dest) (a : Opnd) (b : Opnd) : Encodes.Statement (.rotl d a b) := encodes_one _ _ (fun _ => rfl)
theorem Encodes.clz (d : Dest) (a : Opnd) : Encodes.Statement (.clz d a) := encodes_one _ _ (fun _ => rfl)
theorem Encodes.ctz (d : Dest) (a : Opnd) : Encodes.Statement (.ctz d a) := encodes_one _ _ (fun _ => rfl)
theorem Encodes.popc (d : Dest) (a : Opnd) : Encodes.Statement (.popc d a) := encodes_one _ _ (fun _ => rfl)
theorem Encodes.brev (d : Dest) (a : Opnd) : Encodes.Statement (.brev d a) := encodes_one _ _ (fun _ => rfl)
theorem Encodes.bswap (d : Dest) (a : Opnd) : Encodes.Statement (.bswap d a) := encodes_one _ _ (fun _ => rfl)
theorem Encodes.sext8 (d : Dest) (a : Opnd) : Encodes.Statement (.sext8 d a) := encodes_one _ _ (fun _ => rfl)
theorem Encodes.sext16 (d : Dest) (a : Opnd) : Encodes.Statement (.sext16 d a) := encodes_one _ _ (fun _ => rfl)
theorem Encodes.sext32 (d : Dest) (a : Opnd) : Encodes.Statement (.sext32 d a) := encodes_one _ _ (fun _ => rfl)
theorem Encodes.zext8 (d : Dest) (a : Opnd) : Encodes.Statement (.zext8 d a) := encodes_one _ _ (fun _ => rfl)
theorem Encodes.zext16 (d : Dest) (a : Opnd) : Encodes.Statement (.zext16 d a) := encodes_one _ _ (fun _ => rfl)
theorem Encodes.zext32 (d : Dest) (a : Opnd) : Encodes.Statement (.zext32 d a) := encodes_one _ _ (fun _ => rfl)
theorem Encodes.cmpEq (d : Dest) (a : Opnd) (b : Opnd) : Encodes.Statement (.cmpEq d a b) := encodes_one _ _ (fun _ => rfl)
theorem Encodes.cmpNe (d : Dest) (a : Opnd) (b : Opnd) : Encodes.Statement (.cmpNe d a b) := encodes_one _ _ (fun _ => rfl)
theorem Encodes.cmpLtS (d : Dest) (a : Opnd) (b : Opnd) : Encodes.Statement (.cmpLtS d a b) := encodes_one _ _ (fun _ => rfl)
theorem Encodes.cmpLtZ (d : Dest) (a : Opnd) (b : Opnd) : Encodes.Statement (.cmpLtZ d a b) := encodes_one _ _ (fun _ => rfl)
theorem Encodes.cmpLeS (d : Dest) (a : Opnd) (b : Opnd) : Encodes.Statement (.cmpLeS d a b) := encodes_one _ _ (fun _ => rfl)
theorem Encodes.cmpLeZ (d : Dest) (a : Opnd) (b : Opnd) : Encodes.Statement (.cmpLeZ d a b) := encodes_one _ _ (fun _ => rfl)
theorem Encodes.sel (d : Dest) (a : Opnd) (b : Opnd) : Encodes.Statement (.sel d a b) := encodes_one _ _ (fun _ => rfl)
theorem Encodes.crc8 (d : Dest) (a : Opnd) (b : Opnd) : Encodes.Statement (.crc8 d a b) := encodes_one _ _ (fun _ => rfl)
theorem Encodes.crc16 (d : Dest) (a : Opnd) (b : Opnd) : Encodes.Statement (.crc16 d a b) := encodes_one _ _ (fun _ => rfl)
theorem Encodes.crc32 (d : Dest) (a : Opnd) (b : Opnd) : Encodes.Statement (.crc32 d a b) := encodes_one _ _ (fun _ => rfl)
theorem Encodes.crc64 (d : Dest) (a : Opnd) (b : Opnd) : Encodes.Statement (.crc64 d a b) := encodes_one _ _ (fun _ => rfl)
theorem Encodes.bfxS (d : Dest) (a : Opnd) (b : Opnd) : Encodes.Statement (.bfxS d a b) := encodes_one _ _ (fun _ => rfl)
theorem Encodes.bfxZ (d : Dest) (a : Opnd) (b : Opnd) : Encodes.Statement (.bfxZ d a b) := encodes_one _ _ (fun _ => rfl)
theorem Encodes.bfi (d : Dest) (a : Opnd) (b : Opnd) : Encodes.Statement (.bfi d a b) := encodes_one _ _ (fun _ => rfl)
theorem Encodes.addi (d : Dest) (a : Opnd) (imm : BitVec 10) : Encodes.Statement (.addi d a imm) := encodes_one _ _ (fun _ => rfl)
theorem Encodes.shli (d : Dest) (a : Opnd) (imm : BitVec 10) : Encodes.Statement (.shli d a imm) := encodes_one _ _ (fun _ => rfl)
theorem Encodes.shri (d : Dest) (a : Opnd) (imm : BitVec 10) : Encodes.Statement (.shri d a imm) := encodes_one _ _ (fun _ => rfl)
theorem Encodes.sari (d : Dest) (a : Opnd) (imm : BitVec 10) : Encodes.Statement (.sari d a imm) := encodes_one _ _ (fun _ => rfl)
theorem Encodes.li (d : Dest) (imm : BitVec 10) : Encodes.Statement (.li d imm) := encodes_one _ _ (fun _ => rfl)
theorem Encodes.lih (d : Dest) (a : Opnd) (imm : BitVec 10) : Encodes.Statement (.lih d a imm) := encodes_one _ _ (fun _ => rfl)
theorem Encodes.lea (d : Dest) (imm : BitVec 10) : Encodes.Statement (.lea d imm) := encodes_one _ _ (fun _ => rfl)
theorem Encodes.addiLong (d : Dest) (a : OpndK) (k : IWord) : Encodes.Statement (.addiLong d a k) := encodes_two _ _ _ (fun _ => rfl)
theorem Encodes.shliLong (d : Dest) (a : OpndK) (k : IWord) : Encodes.Statement (.shliLong d a k) := encodes_two _ _ _ (fun _ => rfl)
theorem Encodes.shriLong (d : Dest) (a : OpndK) (k : IWord) : Encodes.Statement (.shriLong d a k) := encodes_two _ _ _ (fun _ => rfl)
theorem Encodes.sariLong (d : Dest) (a : OpndK) (k : IWord) : Encodes.Statement (.sariLong d a k) := encodes_two _ _ _ (fun _ => rfl)
theorem Encodes.liLong (d : Dest) (k : IWord) : Encodes.Statement (.liLong d k) := encodes_two _ _ _ (fun _ => rfl)
theorem Encodes.lihLong (d : Dest) (a : OpndK) (k : IWord) : Encodes.Statement (.lihLong d a k) := encodes_two _ _ _ (fun _ => rfl)
theorem Encodes.leaLong (d : Dest) (k : IWord) : Encodes.Statement (.leaLong d k) := encodes_two _ _ _ (fun _ => rfl)
theorem Encodes.bz (a : Opnd) (off : BitVec 16) : Encodes.Statement (.bz a off) := encodes_one _ _ (fun _ => rfl)
theorem Encodes.jmp (off : BitVec 16) : Encodes.Statement (.jmp off) := encodes_one _ _ (fun _ => rfl)
theorem Encodes.bnz (a : Opnd) (off : BitVec 16) : Encodes.Statement (.bnz a off) := encodes_one _ _ (fun _ => rfl)
theorem Encodes.call (off : BitVec 16) : Encodes.Statement (.call off) := encodes_one _ _ (fun _ => rfl)
theorem Encodes.jmpr (a : Opnd) : Encodes.Statement (.jmpr a) := encodes_one _ _ (fun _ => rfl)
theorem Encodes.callr (d : Dest) (a : Opnd) : Encodes.Statement (.callr d a) := encodes_one _ _ (fun _ => rfl)
theorem Encodes.ret (a : Opnd) : Encodes.Statement (.ret a) := encodes_one _ _ (fun _ => rfl)
theorem Encodes.bccEq (a : Opnd) (b : Opnd) (off : BitVec 10) : Encodes.Statement (.bccEq a b off) := encodes_one _ _ (fun _ => rfl)
theorem Encodes.bccNe (a : Opnd) (b : Opnd) (off : BitVec 10) : Encodes.Statement (.bccNe a b off) := encodes_one _ _ (fun _ => rfl)
theorem Encodes.bccLtS (a : Opnd) (b : Opnd) (off : BitVec 10) : Encodes.Statement (.bccLtS a b off) := encodes_one _ _ (fun _ => rfl)
theorem Encodes.bccLtZ (a : Opnd) (b : Opnd) (off : BitVec 10) : Encodes.Statement (.bccLtZ a b off) := encodes_one _ _ (fun _ => rfl)
theorem Encodes.bccEqLong (a : OpndK) (b : OpndK) (k : IWord) : Encodes.Statement (.bccEqLong a b k) := encodes_two _ _ _ (fun _ => rfl)
theorem Encodes.bccNeLong (a : OpndK) (b : OpndK) (k : IWord) : Encodes.Statement (.bccNeLong a b k) := encodes_two _ _ _ (fun _ => rfl)
theorem Encodes.bccLtSLong (a : OpndK) (b : OpndK) (k : IWord) : Encodes.Statement (.bccLtSLong a b k) := encodes_two _ _ _ (fun _ => rfl)
theorem Encodes.bccLtZLong (a : OpndK) (b : OpndK) (k : IWord) : Encodes.Statement (.bccLtZLong a b k) := encodes_two _ _ _ (fun _ => rfl)
theorem Encodes.bccGeS (a : OpndK) (b : OpndK) (k : IWord) : Encodes.Statement (.bccGeS a b k) := encodes_two _ _ _ (fun _ => rfl)
theorem Encodes.bccGeZ (a : OpndK) (b : OpndK) (k : IWord) : Encodes.Statement (.bccGeZ a b k) := encodes_two _ _ _ (fun _ => rfl)
theorem Encodes.bzLong (a : OpndK) (k : IWord) : Encodes.Statement (.bzLong a k) := encodes_two _ _ _ (fun _ => rfl)
theorem Encodes.bnzLong (a : OpndK) (k : IWord) : Encodes.Statement (.bnzLong a k) := encodes_two _ _ _ (fun _ => rfl)
theorem Encodes.jmpLong (k : IWord) : Encodes.Statement (.jmpLong k) := encodes_two _ _ _ (fun _ => rfl)
theorem Encodes.callLong (k : IWord) : Encodes.Statement (.callLong k) := encodes_two _ _ _ (fun _ => rfl)
theorem Encodes.ld (d : Dest) (a : Opnd) (off : BitVec 7) (sz : MemSz) : Encodes.Statement (.ld d a off sz) := encodes_one _ _ (fun _ => rfl)
theorem Encodes.st (v : Opnd) (a : Opnd) (off : BitVec 7) (sz : MemSz) : Encodes.Statement (.st v a off sz) := encodes_one _ _ (fun _ => rfl)
theorem Encodes.ldf (d : Dest) (a : Opnd) (off : BitVec 8) (df : FF4) : Encodes.Statement (.ldf d a off df) := encodes_one _ _ (fun _ => rfl)
theorem Encodes.ldLong (d : Dest) (a : OpndK) (sz : MemSz) (k : IWord) : Encodes.Statement (.ldLong d a sz k) := encodes_two _ _ _ (fun _ => rfl)
theorem Encodes.stLong (v : OpndK) (a : OpndK) (sz : MemSz) (k : IWord) : Encodes.Statement (.stLong v a sz k) := encodes_two _ _ _ (fun _ => rfl)
theorem Encodes.ldfLong (d : Dest) (a : OpndK) (rm : Rm) (df : FF4) (k : IWord) : Encodes.Statement (.ldfLong d a rm df k) := encodes_two _ _ _ (fun _ => rfl)
theorem Encodes.amo (d : Dest) (a : Opnd) (b : Opnd) (w : AmoW) (ord : Ord) (scope : Scope) (op : AmoOp) : Encodes.Statement (.amo d a b w ord scope op) := encodes_two _ _ _ (fun _ => rfl)
theorem Encodes.cas (d : Dest) (a : Opnd) (b : Opnd) (c : Opnd) (w : AmoW) (ord : Ord) (scope : Scope) : Encodes.Statement (.cas d a b c w ord scope) := encodes_two _ _ _ (fun _ => rfl)
theorem Encodes.pf (a : Opnd) : Encodes.Statement (.pf a) := encodes_one _ _ (fun _ => rfl)
theorem Encodes.wb (a : Opnd) : Encodes.Statement (.wb a) := encodes_one _ _ (fun _ => rfl)
theorem Encodes.inv (a : Opnd) : Encodes.Statement (.inv a) := encodes_one _ _ (fun _ => rfl)
theorem Encodes.fence (ord : Ord) (scope : Scope) : Encodes.Statement (.fence ord scope) := encodes_one _ _ (fun _ => rfl)
theorem Encodes.syncacqLk (a : Opnd) (scope : Scope) : Encodes.Statement (.syncacqLk a scope) := encodes_one _ _ (fun _ => rfl)
theorem Encodes.syncacqGe (a : Opnd) (scope : Scope) : Encodes.Statement (.syncacqGe a scope) := encodes_one _ _ (fun _ => rfl)
theorem Encodes.syncacqTry (d : Dest) (a : Opnd) (scope : Scope) : Encodes.Statement (.syncacqTry d a scope) := encodes_one _ _ (fun _ => rfl)
theorem Encodes.syncrelSt (a : Opnd) (scope : Scope) : Encodes.Statement (.syncrelSt a scope) := encodes_one _ _ (fun _ => rfl)
theorem Encodes.syncrelAdd (d : Dest) (a : Opnd) (scope : Scope) : Encodes.Statement (.syncrelAdd d a scope) := encodes_one _ _ (fun _ => rfl)
theorem Encodes.syncrelClr (a : Opnd) (scope : Scope) : Encodes.Statement (.syncrelClr a scope) := encodes_one _ _ (fun _ => rfl)
theorem Encodes.monitor (a : Opnd) : Encodes.Statement (.monitor a) := encodes_one _ _ (fun _ => rfl)
theorem Encodes.mwait (d : Dest) (a : Opnd) : Encodes.Statement (.mwait d a) := encodes_one _ _ (fun _ => rfl)
theorem Encodes.wsref (d : Dest) (a : Opnd) : Encodes.Statement (.wsref d a) := encodes_one _ _ (fun _ => rfl)
theorem Encodes.fadd (d : Dest) (a : Opnd) (b : Opnd) (fm : FF4) (r : Rm4) : Encodes.Statement (.fadd d a b fm r) := encodes_one _ _ (fun _ => rfl)
theorem Encodes.fsub (d : Dest) (a : Opnd) (b : Opnd) (fm : FF4) (r : Rm4) : Encodes.Statement (.fsub d a b fm r) := encodes_one _ _ (fun _ => rfl)
theorem Encodes.fmul (d : Dest) (a : Opnd) (b : Opnd) (fm : FF4) (r : Rm4) : Encodes.Statement (.fmul d a b fm r) := encodes_one _ _ (fun _ => rfl)
theorem Encodes.fdiv (d : Dest) (a : Opnd) (b : Opnd) (fm : FF4) (r : Rm4) : Encodes.Statement (.fdiv d a b fm r) := encodes_one _ _ (fun _ => rfl)
theorem Encodes.fsqrt (d : Dest) (a : Opnd) (fm : FF4) (r : Rm4) : Encodes.Statement (.fsqrt d a fm r) := encodes_one _ _ (fun _ => rfl)
theorem Encodes.frem (d : Dest) (a : Opnd) (b : Opnd) (fm : FF4) : Encodes.Statement (.frem d a b fm) := encodes_one _ _ (fun _ => rfl)
theorem Encodes.fmin (d : Dest) (a : Opnd) (b : Opnd) (fm : FF4) : Encodes.Statement (.fmin d a b fm) := encodes_one _ _ (fun _ => rfl)
theorem Encodes.fmax (d : Dest) (a : Opnd) (b : Opnd) (fm : FF4) : Encodes.Statement (.fmax d a b fm) := encodes_one _ _ (fun _ => rfl)
theorem Encodes.fminn (d : Dest) (a : Opnd) (b : Opnd) (fm : FF4) : Encodes.Statement (.fminn d a b fm) := encodes_one _ _ (fun _ => rfl)
theorem Encodes.fmaxn (d : Dest) (a : Opnd) (b : Opnd) (fm : FF4) : Encodes.Statement (.fmaxn d a b fm) := encodes_one _ _ (fun _ => rfl)
theorem Encodes.fcmp (d : Dest) (a : Opnd) (b : Opnd) (fm : FF4) (c : Cmp4) : Encodes.Statement (.fcmp d a b fm c) := encodes_one _ _ (fun _ => rfl)
theorem Encodes.fclass (d : Dest) (a : Opnd) (fm : FF4) : Encodes.Statement (.fclass d a fm) := encodes_one _ _ (fun _ => rfl)
theorem Encodes.fsgnJ (d : Dest) (a : Opnd) (b : Opnd) (fm : FF4) : Encodes.Statement (.fsgnJ d a b fm) := encodes_one _ _ (fun _ => rfl)
theorem Encodes.fsgnN (d : Dest) (a : Opnd) (b : Opnd) (fm : FF4) : Encodes.Statement (.fsgnN d a b fm) := encodes_one _ _ (fun _ => rfl)
theorem Encodes.fsgnX (d : Dest) (a : Opnd) (b : Opnd) (fm : FF4) : Encodes.Statement (.fsgnX d a b fm) := encodes_one _ _ (fun _ => rfl)
theorem Encodes.frint (d : Dest) (a : Opnd) (fm : FF4) (r : Rm4) : Encodes.Statement (.frint d a fm r) := encodes_one _ _ (fun _ => rfl)
theorem Encodes.fscalb (d : Dest) (a : Opnd) (b : Opnd) (fm : FF4) (r : Rm4) : Encodes.Statement (.fscalb d a b fm r) := encodes_one _ _ (fun _ => rfl)
theorem Encodes.flogb (d : Dest) (a : Opnd) (fm : FF4) : Encodes.Statement (.flogb d a fm) := encodes_one _ _ (fun _ => rfl)
theorem Encodes.fnextUp (d : Dest) (a : Opnd) (fm : FF4) : Encodes.Statement (.fnextUp d a fm) := encodes_one _ _ (fun _ => rfl)
theorem Encodes.fnextDn (d : Dest) (a : Opnd) (fm : FF4) : Encodes.Statement (.fnextDn d a fm) := encodes_one _ _ (fun _ => rfl)
theorem Encodes.faddLong (d : Dest) (a : Opnd) (b : Opnd) (fm : FFmt) (rm : Rm) (ov : Ovf) : Encodes.Statement (.faddLong d a b fm rm ov) := encodes_two _ _ _ (fun _ => rfl)
theorem Encodes.fsubLong (d : Dest) (a : Opnd) (b : Opnd) (fm : FFmt) (rm : Rm) (ov : Ovf) : Encodes.Statement (.fsubLong d a b fm rm ov) := encodes_two _ _ _ (fun _ => rfl)
theorem Encodes.fmulLong (d : Dest) (a : Opnd) (b : Opnd) (fm : FFmt) (rm : Rm) (ov : Ovf) : Encodes.Statement (.fmulLong d a b fm rm ov) := encodes_two _ _ _ (fun _ => rfl)
theorem Encodes.fdivLong (d : Dest) (a : Opnd) (b : Opnd) (fm : FFmt) (rm : Rm) (ov : Ovf) : Encodes.Statement (.fdivLong d a b fm rm ov) := encodes_two _ _ _ (fun _ => rfl)
theorem Encodes.fsqrtLong (d : Dest) (a : Opnd) (fm : FFmt) (rm : Rm) (ov : Ovf) : Encodes.Statement (.fsqrtLong d a fm rm ov) := encodes_two _ _ _ (fun _ => rfl)
theorem Encodes.fremLong (d : Dest) (a : Opnd) (b : Opnd) (fm : FFmt) : Encodes.Statement (.fremLong d a b fm) := encodes_two _ _ _ (fun _ => rfl)
theorem Encodes.fminLong (d : Dest) (a : Opnd) (b : Opnd) (fm : FFmt) : Encodes.Statement (.fminLong d a b fm) := encodes_two _ _ _ (fun _ => rfl)
theorem Encodes.fmaxLong (d : Dest) (a : Opnd) (b : Opnd) (fm : FFmt) : Encodes.Statement (.fmaxLong d a b fm) := encodes_two _ _ _ (fun _ => rfl)
theorem Encodes.fminnLong (d : Dest) (a : Opnd) (b : Opnd) (fm : FFmt) : Encodes.Statement (.fminnLong d a b fm) := encodes_two _ _ _ (fun _ => rfl)
theorem Encodes.fmaxnLong (d : Dest) (a : Opnd) (b : Opnd) (fm : FFmt) : Encodes.Statement (.fmaxnLong d a b fm) := encodes_two _ _ _ (fun _ => rfl)
theorem Encodes.fcmpLong (d : Dest) (a : Opnd) (b : Opnd) (fm : FFmt) (c : Cmp8) : Encodes.Statement (.fcmpLong d a b fm c) := encodes_two _ _ _ (fun _ => rfl)
theorem Encodes.fclassLong (d : Dest) (a : Opnd) (fm : FFmt) : Encodes.Statement (.fclassLong d a fm) := encodes_two _ _ _ (fun _ => rfl)
theorem Encodes.fsgnJLong (d : Dest) (a : Opnd) (b : Opnd) (fm : FFmt) : Encodes.Statement (.fsgnJLong d a b fm) := encodes_two _ _ _ (fun _ => rfl)
theorem Encodes.fsgnNLong (d : Dest) (a : Opnd) (b : Opnd) (fm : FFmt) : Encodes.Statement (.fsgnNLong d a b fm) := encodes_two _ _ _ (fun _ => rfl)
theorem Encodes.fsgnXLong (d : Dest) (a : Opnd) (b : Opnd) (fm : FFmt) : Encodes.Statement (.fsgnXLong d a b fm) := encodes_two _ _ _ (fun _ => rfl)
theorem Encodes.frintLong (d : Dest) (a : Opnd) (fm : FFmt) (rm : Rm) (ov : Ovf) : Encodes.Statement (.frintLong d a fm rm ov) := encodes_two _ _ _ (fun _ => rfl)
theorem Encodes.frintX (d : Dest) (a : Opnd) (fm : FFmt) (rm : Rm) (ov : Ovf) : Encodes.Statement (.frintX d a fm rm ov) := encodes_two _ _ _ (fun _ => rfl)
theorem Encodes.fscalbLong (d : Dest) (a : Opnd) (b : Opnd) (fm : FFmt) (rm : Rm) (ov : Ovf) : Encodes.Statement (.fscalbLong d a b fm rm ov) := encodes_two _ _ _ (fun _ => rfl)
theorem Encodes.flogbLong (d : Dest) (a : Opnd) (fm : FFmt) : Encodes.Statement (.flogbLong d a fm) := encodes_two _ _ _ (fun _ => rfl)
theorem Encodes.fnextUpLong (d : Dest) (a : Opnd) (fm : FFmt) : Encodes.Statement (.fnextUpLong d a fm) := encodes_two _ _ _ (fun _ => rfl)
theorem Encodes.fnextDnLong (d : Dest) (a : Opnd) (fm : FFmt) : Encodes.Statement (.fnextDnLong d a fm) := encodes_two _ _ _ (fun _ => rfl)
theorem Encodes.fma (d : Dest) (a : Opnd) (b : Opnd) (c : Opnd) (fm : FFmt) (rm : Rm) (ov : Ovf) : Encodes.Statement (.fma d a b c fm rm ov) := encodes_two _ _ _ (fun _ => rfl)
theorem Encodes.fms (d : Dest) (a : Opnd) (b : Opnd) (c : Opnd) (fm : FFmt) (rm : Rm) (ov : Ovf) : Encodes.Statement (.fms d a b c fm rm ov) := encodes_two _ _ _ (fun _ => rfl)
theorem Encodes.fnma (d : Dest) (a : Opnd) (b : Opnd) (c : Opnd) (fm : FFmt) (rm : Rm) (ov : Ovf) : Encodes.Statement (.fnma d a b c fm rm ov) := encodes_two _ _ _ (fun _ => rfl)
theorem Encodes.fnms (d : Dest) (a : Opnd) (b : Opnd) (c : Opnd) (fm : FFmt) (rm : Rm) (ov : Ovf) : Encodes.Statement (.fnms d a b c fm rm ov) := encodes_two _ _ _ (fun _ => rfl)
theorem Encodes.fcvt (d : Dest) (a : Opnd) (dst : FFmt) (src : FFmt) (rm : Rm) (ov : Ovf) : Encodes.Statement (.fcvt d a dst src rm ov) := encodes_two _ _ _ (fun _ => rfl)
theorem Encodes.fcvti (d : Dest) (a : Opnd) (dst : IFmt) (src : FFmt) (rm : Rm) : Encodes.Statement (.fcvti d a dst src rm) := encodes_two _ _ _ (fun _ => rfl)
theorem Encodes.icvtf (d : Dest) (a : Opnd) (dst : FFmt) (src : IFmt) (rm : Rm) (ov : Ovf) : Encodes.Statement (.icvtf d a dst src rm ov) := encodes_two _ _ _ (fun _ => rfl)
theorem Encodes.fpk8 (d : Dest) (a : Opnd) (b : Opnd) (c : Opnd) (dst : B8) (src : FF4) (rm : Rm) (ov : Ovf) : Encodes.Statement (.fpk8 d a b c dst src rm ov) := encodes_two _ _ _ (fun _ => rfl)
theorem Encodes.fupk8 (d : Dest) (a : Opnd) (b : Opnd) (dst : FF4) (src : B8) (rm : Rm) : Encodes.Statement (.fupk8 d a b dst src rm) := encodes_two _ _ _ (fun _ => rfl)
theorem Encodes.xinit (a : Opnd) (b : Opnd) : Encodes.Statement (.xinit a b) := encodes_two _ _ _ (fun _ => rfl)
theorem Encodes.xadd (a : Opnd) (b : Opnd) : Encodes.Statement (.xadd a b) := encodes_two _ _ _ (fun _ => rfl)
theorem Encodes.xmad (a : Opnd) (b : Opnd) (c : Opnd) : Encodes.Statement (.xmad a b c) := encodes_two _ _ _ (fun _ => rfl)
theorem Encodes.xaddn (a : Opnd) (b : Opnd) : Encodes.Statement (.xaddn a b) := encodes_two _ _ _ (fun _ => rfl)
theorem Encodes.xrnd (d : Dest) (a : Opnd) (rm : Rm) : Encodes.Statement (.xrnd d a rm) := encodes_two _ _ _ (fun _ => rfl)
theorem Encodes.xstat (d : Dest) (a : Opnd) : Encodes.Statement (.xstat d a) := encodes_two _ _ _ (fun _ => rfl)
theorem Encodes.join (d : Dest) (a : Opnd) : Encodes.Statement (.join d a) := encodes_one _ _ (fun _ => rfl)
theorem Encodes.self (d : Dest) (e : Fin 6) : Encodes.Statement (.self d e) := encodes_one _ _ (fun _ => rfl)
theorem Encodes.spawn (a : Opnd) (b : Opnd) (c : Opnd) (idx : Bool) : Encodes.Statement (.spawn a b c idx) := encodes_two _ _ _ (fun _ => rfl)
theorem Encodes.grp (d : Dest) (slot : Fin 4) : Encodes.Statement (.grp d slot) := encodes_one _ _ (fun _ => rfl)
theorem Encodes.barArrive (d : Dest) (slot : Fin 4) : Encodes.Statement (.barArrive d slot) := encodes_one _ _ (fun _ => rfl)
theorem Encodes.barWait (slot : Fin 4) : Encodes.Statement (.barWait slot) := encodes_one _ _ (fun _ => rfl)
theorem Encodes.bar (d : Dest) (slot : Fin 4) : Encodes.Statement (.bar d slot) := encodes_one _ _ (fun _ => rfl)
theorem Encodes.convene (d : Dest) (slot : Fin 4) : Encodes.Statement (.convene d slot) := encodes_one _ _ (fun _ => rfl)
theorem Encodes.disband (slot : Fin 4) : Encodes.Statement (.disband slot) := encodes_one _ _ (fun _ => rfl)
theorem Encodes.send16 (a : Opnd) (b : Opnd) : Encodes.Statement (.send16 a b) := encodes_one _ _ (fun _ => rfl)
theorem Encodes.send32 (a : Opnd) (b : Opnd) : Encodes.Statement (.send32 a b) := encodes_one _ _ (fun _ => rfl)
theorem Encodes.send48 (a : Opnd) (b : Opnd) : Encodes.Statement (.send48 a b) := encodes_one _ _ (fun _ => rfl)
theorem Encodes.sendLong (a : Opnd) (b : Opnd) (len : MsgLen) (rel : Bool) (scope : Scope) (dfr : Bool) : Encodes.Statement (.sendLong a b len rel scope dfr) := encodes_two _ _ _ (fun _ => rfl)
theorem Encodes.recv (d : Dest) (a : Opnd) (b : Opnd) : Encodes.Statement (.recv d a b) := encodes_one _ _ (fun _ => rfl)
theorem Encodes.mbpeek (d : Dest) (a : Opnd) : Encodes.Statement (.mbpeek d a) := encodes_one _ _ (fun _ => rfl)
theorem Encodes.rcpDef (n : Fin 4) (idx : Fin 128) : Encodes.Statement (.rcpDef n idx) := encodes_one _ _ (fun _ => rfl)
theorem Encodes.rcpTag (idx : Fin 128) (r : Opnd) : Encodes.Statement (.rcpTag idx r) := encodes_one _ _ (fun _ => rfl)
theorem Encodes.rcpDrop (r : Opnd) : Encodes.Statement (.rcpDrop r) := encodes_one _ _ (fun _ => rfl)
theorem Encodes.rcpClr (r : Opnd) : Encodes.Statement (.rcpClr r) := encodes_one _ _ (fun _ => rfl)
theorem Encodes.push (d : Dest) (a : Opnd) : Encodes.Statement (.push d a) := encodes_one _ _ (fun _ => rfl)
theorem Encodes.pushDefer (d : Dest) (a : Opnd) : Encodes.Statement (.pushDefer d a) := encodes_two _ _ _ (fun _ => rfl)
theorem Encodes.pop (d : Dest) (a : Opnd) : Encodes.Statement (.pop d a) := encodes_one _ _ (fun _ => rfl)
theorem Encodes.waitt (a : Opnd) : Encodes.Statement (.waitt a) := encodes_one _ _ (fun _ => rfl)
theorem Encodes.tagff (d : Dest) (a : Opnd) : Encodes.Statement (.tagff d a) := encodes_one _ _ (fun _ => rfl)
theorem Encodes.tagclr (a : Opnd) : Encodes.Statement (.tagclr a) := encodes_one _ _ (fun _ => rfl)
theorem Encodes.lrec (a : Opnd) (b : Opnd) : Encodes.Statement (.lrec a b) := encodes_one _ _ (fun _ => rfl)
theorem Encodes.subMc (d : Dest) (a : Opnd) (b : Opnd) : Encodes.Statement (.subMc d a b) := encodes_one _ _ (fun _ => rfl)
theorem Encodes.unsub (a : Opnd) : Encodes.Statement (.unsub a) := encodes_one _ _ (fun _ => rfl)
theorem Encodes.ovld (d : Dest) (a : Opnd) (b : Opnd) : Encodes.Statement (.ovld d a b) := encodes_one _ _ (fun _ => rfl)
theorem Encodes.ringcfg (a : Opnd) (g : Fin 16) : Encodes.Statement (.ringcfg a g) := encodes_one _ _ (fun _ => rfl)
theorem Encodes.rpushRes (d : Dest) (g : Fin 16) : Encodes.Statement (.rpushRes d g) := encodes_one _ _ (fun _ => rfl)
theorem Encodes.rpushFill (a : Opnd) (g : Fin 16) : Encodes.Statement (.rpushFill a g) := encodes_one _ _ (fun _ => rfl)
theorem Encodes.rpop (g : Fin 16) : Encodes.Statement (.rpop g) := encodes_one _ _ (fun _ => rfl)
theorem Encodes.mma (ra : Fin 16) (rb : Fin 16) (acc : Fin 8) (fm : FFmt) : Encodes.Statement (.mma ra rb acc fm) := encodes_one _ _ (fun _ => rfl)
theorem Encodes.mmaKeepa (ra : Fin 16) (rb : Fin 16) (acc : Fin 8) (fm : FFmt) : Encodes.Statement (.mmaKeepa ra rb acc fm) := encodes_one _ _ (fun _ => rfl)
theorem Encodes.mmaKeepb (ra : Fin 16) (rb : Fin 16) (acc : Fin 8) (fm : FFmt) : Encodes.Statement (.mmaKeepb ra rb acc fm) := encodes_one _ _ (fun _ => rfl)
theorem Encodes.mmaKeep (ra : Fin 16) (rb : Fin 16) (acc : Fin 8) (fm : FFmt) : Encodes.Statement (.mmaKeep ra rb acc fm) := encodes_one _ _ (fun _ => rfl)
theorem Encodes.mmaLong (ra : Fin 16) (rb : Fin 16) (acc : Fin 8) (fa : FFmt) (fb : FFmt) (rm : Rm) (ka : Bool) (kb : Bool) : Encodes.Statement (.mmaLong ra rb acc fa fb rm ka kb) := encodes_two _ _ _ (fun _ => rfl)
theorem Encodes.accz (fm : AccFmt) (acc : Fin 8) : Encodes.Statement (.accz fm acc) := encodes_one _ _ (fun _ => rfl)
theorem Encodes.accld (fm : AccFmt) (a : Opnd) (acc : Fin 8) : Encodes.Statement (.accld fm a acc) := encodes_one _ _ (fun _ => rfl)
theorem Encodes.accst (fm : FFmt) (a : Opnd) (acc : Fin 8) (rm : Rm) : Encodes.Statement (.accst fm a acc rm) := encodes_one _ _ (fun _ => rfl)
theorem Encodes.accstOvf (fm : FFmt) (a : Opnd) (acc : Fin 8) (rm : Rm) : Encodes.Statement (.accstOvf fm a acc rm) := encodes_one _ _ (fun _ => rfl)
theorem Encodes.mstat (d : Dest) (acc : Fin 8) (e : Fin 7) : Encodes.Statement (.mstat d acc e) := encodes_one _ _ (fun _ => rfl)
theorem Encodes.forkw (d : Dest) (a : Opnd) : Encodes.Statement (.forkw d a) := encodes_one _ _ (fun _ => rfl)
theorem Encodes.forkwDefer (d : Dest) (a : Opnd) : Encodes.Statement (.forkwDefer d a) := encodes_two _ _ _ (fun _ => rfl)
theorem Encodes.choose (a : Opnd) : Encodes.Statement (.choose a) := encodes_one _ _ (fun _ => rfl)
theorem Encodes.wself (d : Dest) : Encodes.Statement (.wself d) := encodes_one _ _ (fun _ => rfl)
theorem Encodes.csrr (d : Dest) (num : BitVec 10) : Encodes.Statement (.csrr d num) := encodes_one _ _ (fun _ => rfl)
theorem Encodes.csrw (a : Opnd) (num : BitVec 10) : Encodes.Statement (.csrw a num) := encodes_one _ _ (fun _ => rfl)
theorem Encodes.csrx (d : Dest) (a : Opnd) (num : BitVec 10) : Encodes.Statement (.csrx d a num) := encodes_one _ _ (fun _ => rfl)
theorem Encodes.trap (a : Opnd) : Encodes.Statement (.trap a) := encodes_one _ _ (fun _ => rfl)
theorem Encodes.sysc (d : Dest) (a : Opnd) : Encodes.Statement (.sysc d a) := encodes_one _ _ (fun _ => rfl)
theorem Encodes.tlbinvPg (a : Opnd) (b : Opnd) : Encodes.Statement (.tlbinvPg a b) := encodes_one _ _ (fun _ => rfl)
theorem Encodes.tlbinvCtx (a : Opnd) (b : Opnd) : Encodes.Statement (.tlbinvCtx a b) := encodes_one _ _ (fun _ => rfl)
theorem Encodes.tlbinvAll (a : Opnd) (b : Opnd) : Encodes.Statement (.tlbinvAll a b) := encodes_one _ _ (fun _ => rfl)
theorem Encodes.tlbinvLong (a : Opnd) (b : Opnd) (kind : Fin 3) (scope : Scope) : Encodes.Statement (.tlbinvLong a b kind scope) := encodes_two _ _ _ (fun _ => rfl)
theorem Encodes.ckpt (d : Dest) : Encodes.Statement (.ckpt d) := encodes_one _ _ (fun _ => rfl)
theorem Encodes.cap (d : Dest) (a : Opnd) : Encodes.Statement (.cap d a) := encodes_one _ _ (fun _ => rfl)
theorem Encodes.filterLdev (d : Fin 8) (n : Fin 16) : Encodes.Statement (.filterLdev d n) := encodes_one _ _ (fun _ => rfl)
theorem Encodes.filterMulu (d : Fin 8) (a : Fin 8) (s : FSrc) : Encodes.Statement (.filterMulu d a s) := encodes_one _ _ (fun _ => rfl)
theorem Encodes.filterLi (d : Fin 8) (imm : BitVec 16) : Encodes.Statement (.filterLi d imm) := encodes_one _ _ (fun _ => rfl)
theorem Encodes.filterAdd (d : Fin 8) (a : Fin 8) (s : FSrc) : Encodes.Statement (.filterAdd d a s) := encodes_one _ _ (fun _ => rfl)
theorem Encodes.filterSub (d : Fin 8) (a : Fin 8) (s : FSrc) : Encodes.Statement (.filterSub d a s) := encodes_one _ _ (fun _ => rfl)
theorem Encodes.filterAnd (d : Fin 8) (a : Fin 8) (s : FSrc) : Encodes.Statement (.filterAnd d a s) := encodes_one _ _ (fun _ => rfl)
theorem Encodes.filterOr (d : Fin 8) (a : Fin 8) (s : FSrc) : Encodes.Statement (.filterOr d a s) := encodes_one _ _ (fun _ => rfl)
theorem Encodes.filterXor (d : Fin 8) (a : Fin 8) (s : FSrc) : Encodes.Statement (.filterXor d a s) := encodes_one _ _ (fun _ => rfl)
theorem Encodes.filterShl (d : Fin 8) (a : Fin 8) (s : FSrc) : Encodes.Statement (.filterShl d a s) := encodes_one _ _ (fun _ => rfl)
theorem Encodes.filterShr (d : Fin 8) (a : Fin 8) (s : FSrc) : Encodes.Statement (.filterShr d a s) := encodes_one _ _ (fun _ => rfl)
theorem Encodes.filterMin (d : Fin 8) (a : Fin 8) (s : FSrc) : Encodes.Statement (.filterMin d a s) := encodes_one _ _ (fun _ => rfl)
theorem Encodes.filterMax (d : Fin 8) (a : Fin 8) (s : FSrc) : Encodes.Statement (.filterMax d a s) := encodes_one _ _ (fun _ => rfl)
theorem Encodes.filterBeq (a : Fin 8) (b : Fin 8) (off : Fin 64) : Encodes.Statement (.filterBeq a b off) := encodes_one _ _ (fun _ => rfl)
theorem Encodes.filterBne (a : Fin 8) (b : Fin 8) (off : Fin 64) : Encodes.Statement (.filterBne a b off) := encodes_one _ _ (fun _ => rfl)
theorem Encodes.filterBltu (a : Fin 8) (b : Fin 8) (off : Fin 64) : Encodes.Statement (.filterBltu a b off) := encodes_one _ _ (fun _ => rfl)
theorem Encodes.filterBgeu (a : Fin 8) (b : Fin 8) (off : Fin 64) : Encodes.Statement (.filterBgeu a b off) := encodes_one _ _ (fun _ => rfl)
theorem Encodes.filterBr (off : Fin 64) : Encodes.Statement (.filterBr off) := encodes_one _ _ (fun _ => rfl)
theorem Encodes.filterHinc (obj : Fin 64) (a : Fin 8) (b : Fin 8) : Encodes.Statement (.filterHinc obj a b) := encodes_one _ _ (fun _ => rfl)
theorem Encodes.filterCms (obj : Fin 64) (a : Fin 8) (b : Fin 8) : Encodes.Statement (.filterCms obj a b) := encodes_one _ _ (fun _ => rfl)
theorem Encodes.filterHll (obj : Fin 64) (a : Fin 8) : Encodes.Statement (.filterHll obj a) := encodes_one _ _ (fun _ => rfl)
theorem Encodes.filterLdo (d : Fin 8) (obj : Fin 64) (a : Fin 8) : Encodes.Statement (.filterLdo d obj a) := encodes_one _ _ (fun _ => rfl)
theorem Encodes.filterTrig (n : Fin 16) (a : Fin 8) : Encodes.Statement (.filterTrig n a) := encodes_one _ _ (fun _ => rfl)
theorem Encodes.filterExp (a : Fin 8) (b : Fin 8) (tag : BitVec 8) : Encodes.Statement (.filterExp a b tag) := encodes_one _ _ (fun _ => rfl)
theorem Encodes.exit : Encodes.Statement .exit := encodes_one _ _ (fun _ => rfl)
theorem Encodes.nop : Encodes.Statement .nop := encodes_one _ _ (fun _ => rfl)
theorem Encodes.yield : Encodes.Statement .yield := encodes_one _ _ (fun _ => rfl)
theorem Encodes.abandon : Encodes.Statement .abandon := encodes_one _ _ (fun _ => rfl)
theorem Encodes.eret : Encodes.Statement .eret := encodes_one _ _ (fun _ => rfl)
theorem Encodes.halt : Encodes.Statement .halt := encodes_one _ _ (fun _ => rfl)
theorem Encodes.bkpt : Encodes.Statement .bkpt := encodes_one _ _ (fun _ => rfl)
theorem Encodes.filterSreq : Encodes.Statement .filterSreq := encodes_one _ _ (fun _ => rfl)
theorem Encodes.filterEnd : Encodes.Statement .filterEnd := encodes_one _ _ (fun _ => rfl)
theorem Encodes.mmaStart : Encodes.Statement .mmaStart := encodes_none _ (fun _ => rfl) rfl
theorem Encodes.mmaRetirement : Encodes.Statement .mmaRetirement := encodes_none _ (fun _ => rfl) rfl
theorem Encodes.choiceEvent : Encodes.Statement .choiceEvent := encodes_none _ (fun _ => rfl) rfl
theorem Encodes.deferredEntryPerform : Encodes.Statement .deferredEntryPerform := encodes_none _ (fun _ => rfl) rfl
theorem Encodes.copy : Encodes.Statement .copy := encodes_none _ (fun _ => rfl) rfl
theorem Encodes.gather : Encodes.Statement .gather := encodes_none _ (fun _ => rfl) rfl
theorem Encodes.fill : Encodes.Statement .fill := encodes_none _ (fun _ => rfl) rfl
theorem Encodes.readq : Encodes.Statement .readq := encodes_none _ (fun _ => rfl) rfl
theorem Encodes.mcast : Encodes.Statement .mcast := encodes_none _ (fun _ => rfl) rfl
theorem Encodes.mark : Encodes.Statement .mark := encodes_none _ (fun _ => rfl) rfl
theorem Encodes.ovldCommand : Encodes.Statement .ovldCommand := encodes_none _ (fun _ => rfl) rfl
theorem Encodes.commandCompletion : Encodes.Statement .commandCompletion := encodes_none _ (fun _ => rfl) rfl
theorem Encodes.channelResume : Encodes.Statement .channelResume := encodes_none _ (fun _ => rfl) rfl
theorem Encodes.multicastJoin : Encodes.Statement .multicastJoin := encodes_none _ (fun _ => rfl) rfl
theorem Encodes.multicastLeave : Encodes.Statement .multicastLeave := encodes_none _ (fun _ => rfl) rfl
theorem Encodes.multicastDelivery : Encodes.Statement .multicastDelivery := encodes_none _ (fun _ => rfl) rfl
theorem Encodes.contextKill : Encodes.Statement .contextKill := encodes_none _ (fun _ => rfl) rfl
theorem Encodes.fenceOutAcknowledgement : Encodes.Statement .fenceOutAcknowledgement := encodes_none _ (fun _ => rfl) rfl
theorem Encodes.killStampWrite : Encodes.Statement .killStampWrite := encodes_none _ (fun _ => rfl) rfl
theorem Encodes.pageWalk : Encodes.Statement .pageWalk := encodes_none _ (fun _ => rfl) rfl
theorem Encodes.chunkEnd : Encodes.Statement .chunkEnd := encodes_none _ (fun _ => rfl) rfl
theorem Encodes.commitRequest : Encodes.Statement .commitRequest := encodes_none _ (fun _ => rfl) rfl
theorem Encodes.commitGrant : Encodes.Statement .commitGrant := encodes_none _ (fun _ => rfl) rfl
theorem Encodes.commitConfirmation : Encodes.Statement .commitConfirmation := encodes_none _ (fun _ => rfl) rfl
theorem Encodes.invalidation : Encodes.Statement .invalidation := encodes_none _ (fun _ => rfl) rfl
theorem Encodes.invalidationAcknowledgement : Encodes.Statement .invalidationAcknowledgement := encodes_none _ (fun _ => rfl) rfl
theorem Encodes.invalidationRefusal : Encodes.Statement .invalidationRefusal := encodes_none _ (fun _ => rfl) rfl
theorem Encodes.commitPoint : Encodes.Statement .commitPoint := encodes_none _ (fun _ => rfl) rfl
theorem Encodes.pinTokenGrant : Encodes.Statement .pinTokenGrant := encodes_none _ (fun _ => rfl) rfl
theorem Encodes.readMiss : Encodes.Statement .readMiss := encodes_none _ (fun _ => rfl) rfl
theorem Encodes.forwardedRead : Encodes.Statement .forwardedRead := encodes_none _ (fun _ => rfl) rfl
theorem Encodes.ownerData : Encodes.Statement .ownerData := encodes_none _ (fun _ => rfl) rfl
theorem Encodes.negativeAcknowledgement : Encodes.Statement .negativeAcknowledgement := encodes_none _ (fun _ => rfl) rfl
theorem Encodes.writeBack : Encodes.Statement .writeBack := encodes_none _ (fun _ => rfl) rfl
theorem Encodes.l1Replacement : Encodes.Statement .l1Replacement := encodes_none _ (fun _ => rfl) rfl
theorem Encodes.homePerformedWrite : Encodes.Statement .homePerformedWrite := encodes_none _ (fun _ => rfl) rfl
theorem Encodes.recall : Encodes.Statement .recall := encodes_none _ (fun _ => rfl) rfl
theorem Encodes.sliceReplacement : Encodes.Statement .sliceReplacement := encodes_none _ (fun _ => rfl) rfl
theorem Encodes.singletonAccess : Encodes.Statement .singletonAccess := encodes_none _ (fun _ => rfl) rfl
theorem Encodes.postedStorePerform : Encodes.Statement .postedStorePerform := encodes_none _ (fun _ => rfl) rfl
theorem Encodes.watchArrival : Encodes.Statement .watchArrival := encodes_none _ (fun _ => rfl) rfl
theorem Encodes.mwaitLimitExpiry : Encodes.Statement .mwaitLimitExpiry := encodes_none _ (fun _ => rfl) rfl
theorem Encodes.answerResend : Encodes.Statement .answerResend := encodes_none _ (fun _ => rfl) rfl
theorem Encodes.clusterReport : Encodes.Statement .clusterReport := encodes_none _ (fun _ => rfl) rfl
theorem Encodes.clusterFence : Encodes.Statement .clusterFence := encodes_none _ (fun _ => rfl) rfl
theorem Encodes.ucieLinkFailure : Encodes.Statement .ucieLinkFailure := encodes_none _ (fun _ => rfl) rfl
theorem Encodes.dieFence : Encodes.Statement .dieFence := encodes_none _ (fun _ => rfl) rfl
theorem Encodes.messageAgeDiscard : Encodes.Statement .messageAgeDiscard := encodes_none _ (fun _ => rfl) rfl
theorem Encodes.sequencerTicket : Encodes.Statement .sequencerTicket := encodes_none _ (fun _ => rfl) rfl
theorem Encodes.sequencerTakeover : Encodes.Statement .sequencerTakeover := encodes_none _ (fun _ => rfl) rfl
theorem Encodes.hbmScrub : Encodes.Statement .hbmScrub := encodes_none _ (fun _ => rfl) rfl
theorem Encodes.hbmRefresh : Encodes.Statement .hbmRefresh := encodes_none _ (fun _ => rfl) rfl
theorem Encodes.weightStoreWindowOpen : Encodes.Statement .weightStoreWindowOpen := encodes_none _ (fun _ => rfl) rfl
theorem Encodes.weightStoreWindowClose : Encodes.Statement .weightStoreWindowClose := encodes_none _ (fun _ => rfl) rfl
theorem Encodes.granuleRestore : Encodes.Statement .granuleRestore := encodes_none _ (fun _ => rfl) rfl
theorem Encodes.contextSwitchOut : Encodes.Statement .contextSwitchOut := encodes_none _ (fun _ => rfl) rfl
theorem Encodes.contextSwitchIn : Encodes.Statement .contextSwitchIn := encodes_none _ (fun _ => rfl) rfl
theorem Encodes.tileSwap : Encodes.Statement .tileSwap := encodes_none _ (fun _ => rfl) rfl
theorem Encodes.queueTailChange : Encodes.Statement .queueTailChange := encodes_none _ (fun _ => rfl) rfl
theorem Encodes.launchRecordTake : Encodes.Statement .launchRecordTake := encodes_none _ (fun _ => rfl) rfl
theorem Encodes.rangeRequest : Encodes.Statement .rangeRequest := encodes_none _ (fun _ => rfl) rfl
theorem Encodes.shareRebalance : Encodes.Statement .shareRebalance := encodes_none _ (fun _ => rfl) rfl
theorem Encodes.priorityAging : Encodes.Statement .priorityAging := encodes_none _ (fun _ => rfl) rfl
theorem Encodes.stealProbe : Encodes.Statement .stealProbe := encodes_none _ (fun _ => rfl) rfl
theorem Encodes.recordAdmission : Encodes.Statement .recordAdmission := encodes_none _ (fun _ => rfl) rfl
theorem Encodes.granulePlacementEviction : Encodes.Statement .granulePlacementEviction := encodes_none _ (fun _ => rfl) rfl
theorem Encodes.slotWaitMark : Encodes.Statement .slotWaitMark := encodes_none _ (fun _ => rfl) rfl
theorem Encodes.longMissTimeout : Encodes.Statement .longMissTimeout := encodes_none _ (fun _ => rfl) rfl
theorem Encodes.threadEviction : Encodes.Statement .threadEviction := encodes_none _ (fun _ => rfl) rfl
theorem Encodes.wakeConditionMet : Encodes.Statement .wakeConditionMet := encodes_none _ (fun _ => rfl) rfl
theorem Encodes.launchCompletion : Encodes.Statement .launchCompletion := encodes_none _ (fun _ => rfl) rfl
theorem Encodes.vfSliceEnd : Encodes.Statement .vfSliceEnd := encodes_none _ (fun _ => rfl) rfl
theorem Encodes.trapDelivery : Encodes.Statement .trapDelivery := encodes_none _ (fun _ => rfl) rfl
theorem Encodes.dctlHalt : Encodes.Statement .dctlHalt := encodes_none _ (fun _ => rfl) rfl
theorem Encodes.dctlRel : Encodes.Statement .dctlRel := encodes_none _ (fun _ => rfl) rfl
theorem Encodes.crossTriggerHalt : Encodes.Statement .crossTriggerHalt := encodes_none _ (fun _ => rfl) rfl
theorem Encodes.dtdataAccess : Encodes.Statement .dtdataAccess := encodes_none _ (fun _ => rfl) rfl
theorem Encodes.trbaseWrite : Encodes.Statement .trbaseWrite := encodes_none _ (fun _ => rfl) rfl
theorem Encodes.traceStateChange : Encodes.Statement .traceStateChange := encodes_none _ (fun _ => rfl) rfl
theorem Encodes.traceSpanRecord : Encodes.Statement .traceSpanRecord := encodes_none _ (fun _ => rfl) rfl
theorem Encodes.samplePeriod : Encodes.Statement .samplePeriod := encodes_none _ (fun _ => rfl) rfl
theorem Encodes.sampleRequestTake : Encodes.Statement .sampleRequestTake := encodes_none _ (fun _ => rfl) rfl
theorem Encodes.sillageEvent : Encodes.Statement .sillageEvent := encodes_none _ (fun _ => rfl) rfl
theorem Encodes.sillageBudgetRefill : Encodes.Statement .sillageBudgetRefill := encodes_none _ (fun _ => rfl) rfl
theorem Encodes.spctlInstall : Encodes.Statement .spctlInstall := encodes_none _ (fun _ => rfl) rfl
theorem Encodes.spctlUninstall : Encodes.Statement .spctlUninstall := encodes_none _ (fun _ => rfl) rfl
theorem Encodes.atctlAttach : Encodes.Statement .atctlAttach := encodes_none _ (fun _ => rfl) rfl
theorem Encodes.atctlDetach : Encodes.Statement .atctlDetach := encodes_none _ (fun _ => rfl) rfl
theorem Encodes.objValidate : Encodes.Statement .objValidate := encodes_none _ (fun _ => rfl) rfl
theorem Encodes.objRemove : Encodes.Statement .objRemove := encodes_none _ (fun _ => rfl) rfl
theorem Encodes.tgcntClear : Encodes.Statement .tgcntClear := encodes_none _ (fun _ => rfl) rfl
theorem Encodes.tnexpbaseWrite : Encodes.Statement .tnexpbaseWrite := encodes_none _ (fun _ => rfl) rfl
theorem Encodes.checkpoint : Encodes.Statement .checkpoint := encodes_none _ (fun _ => rfl) rfl
theorem Encodes.checkpointComplete : Encodes.Statement .checkpointComplete := encodes_none _ (fun _ => rfl) rfl
theorem Encodes.logAcknowledgement : Encodes.Statement .logAcknowledgement := encodes_none _ (fun _ => rfl) rfl
theorem Encodes.rollback : Encodes.Statement .rollback := encodes_none _ (fun _ => rfl) rfl
theorem Encodes.hostWrite : Encodes.Statement .hostWrite := encodes_none _ (fun _ => rfl) rfl
theorem Encodes.hostRead : Encodes.Statement .hostRead := encodes_none _ (fun _ => rfl) rfl
theorem Encodes.hostSequencedOperation : Encodes.Statement .hostSequencedOperation := encodes_none _ (fun _ => rfl) rfl
theorem Encodes.partitionCreate : Encodes.Statement .partitionCreate := encodes_none _ (fun _ => rfl) rfl
theorem Encodes.stateWriteRun : Encodes.Statement .stateWriteRun := encodes_none _ (fun _ => rfl) rfl
theorem Encodes.stateWriteStopped : Encodes.Statement .stateWriteStopped := encodes_none _ (fun _ => rfl) rfl
theorem Encodes.stateWriteLoad : Encodes.Statement .stateWriteLoad := encodes_none _ (fun _ => rfl) rfl
theorem Encodes.stateTransitionComplete : Encodes.Statement .stateTransitionComplete := encodes_none _ (fun _ => rfl) rfl
theorem Encodes.rsmapWrite : Encodes.Statement .rsmapWrite := encodes_none _ (fun _ => rfl) rfl
theorem Encodes.resizeComplete : Encodes.Statement .resizeComplete := encodes_none _ (fun _ => rfl) rfl
theorem Encodes.contextDescriptorValidate : Encodes.Statement .contextDescriptorValidate := encodes_none _ (fun _ => rfl) rfl
theorem Encodes.killWrite : Encodes.Statement .killWrite := encodes_none _ (fun _ => rfl) rfl
theorem Encodes.queueEnWrite : Encodes.Statement .queueEnWrite := encodes_none _ (fun _ => rfl) rfl
theorem Encodes.counterClearWrite : Encodes.Statement .counterClearWrite := encodes_none _ (fun _ => rfl) rfl
theorem Encodes.routeTableWrite : Encodes.Statement .routeTableWrite := encodes_none _ (fun _ => rfl) rfl
theorem Encodes.routeLoss : Encodes.Statement .routeLoss := encodes_none _ (fun _ => rfl) rfl
theorem Encodes.routeReturn : Encodes.Statement .routeReturn := encodes_none _ (fun _ => rfl) rfl
theorem Encodes.unreachableTimeout : Encodes.Statement .unreachableTimeout := encodes_none _ (fun _ => rfl) rfl
theorem Encodes.fabricRequest : Encodes.Statement .fabricRequest := encodes_none _ (fun _ => rfl) rfl
theorem Encodes.messageArrival : Encodes.Statement .messageArrival := encodes_none _ (fun _ => rfl) rfl
theorem Encodes.clockStretch : Encodes.Statement .clockStretch := encodes_none _ (fun _ => rfl) rfl
theorem Encodes.boot : Encodes.Statement .boot := encodes_none _ (fun _ => rfl) rfl
theorem Encodes.registerWrite : Encodes.Statement .registerWrite := encodes_none _ (fun _ => rfl) rfl
theorem Encodes.clusterReadmission : Encodes.Statement .clusterReadmission := encodes_none _ (fun _ => rfl) rfl
theorem Encodes.ioDieFailure : Encodes.Statement .ioDieFailure := encodes_none _ (fun _ => rfl) rfl

end Sys2Proof.Laws
end

