-- ==== Sys2Proof/Laws/Perform.lean ====
section
/-! SUPPORT. Laws/Perform.lean: what the shared shapes of thread instructions do: the checks, the passing, values in a chunk. -/

namespace Sys2Proof.Machine

open Sys2Proof.Safety

/-- The front thread with its kept soft values dropped. -/
def clear (s : State) : State := { s with th := { s.th with kept := [] } }

/-! ### The instruction monad -/

@[simp] theorem M.pure_eq {α : Type} (a : α) (s : State) : (pure a : M α) s = .ok a s := rfl
@[simp] theorem M.get_eq (s : State) : (get : M State) s = .ok s s := rfl
@[simp] theorem M.set_eq (t s : State) : (set t : M Unit) s = .ok () t := rfl
@[simp] theorem M.modify_eq (f : State → State) (s : State) : (modify f : M Unit) s = .ok () (f s) := rfl
@[simp] theorem M.throw_eq {α : Type} (e : Stop) (s : State) : (throw e : M α) s = .error e s := rfl
@[simp] theorem M.trapM_eq {α : Type} (c b : Nat) (x y z : Word) (s : State) :
    (trapM c b x y z : M α) s = .error (.trap (trapOf s c b x y z)) s := rfl

theorem M.bind_ok {α β : Type} {m : M α} {f : α → M β} {s s1 : State} {a : α} (h : m s = .ok a s1) : (m >>= f) s = f a s1 := by
  show EStateM.bind m f s = _
  simp [EStateM.bind, h]

theorem M.bind_error {α β : Type} {m : M α} {f : α → M β} {s s1 : State} {e : Stop} (h : m s = .error e s1) :
    (m >>= f) s = .error e s1 := by
  show EStateM.bind m f s = _
  simp [EStateM.bind, h]

@[simp] theorem M.get_bind {β : Type} (f : State → M β) (s : State) : (get >>= f) s = f s s := rfl
@[simp] theorem M.set_bind {β : Type} (t : State) (f : Unit → M β) (s : State) : (set t >>= f) s = f () t := rfl
@[simp] theorem M.modify_bind {β : Type} (g : State → State) (f : Unit → M β) (s : State) : (modify g >>= f) s = f () (g s) := rfl
@[simp] theorem M.pure_bind {α β : Type} (a : α) (f : α → M β) (s : State) : (pure a >>= f) s = f a s := rfl

/-! ### Checks -/

theorem declared_ok {s : State} {os : List Opnd} {d : Dest} (h : ∀ o ∈ os, Readable s.th o) (hd : Writable s.th d) :
    declared os d s = .ok () (clear s) := by
  unfold declared
  rw [M.get_bind]
  have h1 : os.any (fun o => match o with | .n k => decide (s.th.nreg ≤ k.val) | _ => false) = false := by
    rw [List.any_eq_false]
    intro o ho
    have := h o ho
    cases o <;> simp_all [Readable]
  have h2 : ∀ x, x = false → ¬ (os.any (fun o => match o with | .n k => decide (s.th.nreg ≤ k.val) | _ => false) || x) = true := by
    intro x hx hb
    rw [Bool.or_eq_true, h1, hx] at hb
    simp at hb
  cases d with
  | reg k =>
    have h4 : ¬ isSoft s.th k.val = true := by rw [hd.2]; simp
    exact (congrFun (if_neg (h2 _ (decide_eq_false (Nat.not_le.2 hd.1)))) s).trans (congrFun (if_neg h4) s)
  | push => exact (congrFun (if_neg (h2 _ rfl)) s).trans (congrFun (if_neg (by simp)) s)
  | drop => exact (congrFun (if_neg (h2 _ rfl)) s).trans (congrFun (if_neg (by simp)) s)

theorem softs_ok {s : State} {os : List Opnd} (h : ∀ o ∈ os, Readable s.th o) : softs os s = .ok () s := by
  induction os with
  | nil => rfl
  | cons o os ih =>
    have ih := ih (fun o ho => h o (by simp [ho]))
    have ho := h o (by simp)
    cases o with
    | n k =>
      simp only [softs, M.get_bind]
      by_cases hs : isSoft s.th k.val = true
      · have hb := ho.2 hs
        have he : evalSoft k.val s = .ok () s := by
          unfold evalSoft
          simp [hb]
        split
        · exact (M.bind_ok he).trans ih
        · exact ih
      · simp [hs]
        exact ih
    | q i => exact ih
    | z => exact ih
    | tid => exact ih

theorem stallCheck_ok {s : State} {os : List Opnd} (h : OnTime s.th os) : stallCheck os s = .ok () s := by
  unfold stallCheck
  rw [M.get_bind]
  rcases h with h | h <;> by_cases hc : s.th.a.chk <;> simp_all

theorem stallOf_clear (t : Thread) (k : List (Nat × Word)) (os : List Opnd) : stallOf { t with kept := k } os = stallOf t os := by
  induction os with
  | nil => rfl
  | cons o os ih =>
    cases o with
    | n i =>
      have hs : isSoft { t with kept := k } i.val = isSoft t i.val := rfl
      simp only [stallOf, hs, ih]
    | q i => simp only [stallOf, ih]
    | z => simp only [stallOf, ih]
    | tid => simp only [stallOf, ih]

@[simp] theorem OnTime_clear (s : State) (os : List Opnd) : OnTime (clear s).th os ↔ OnTime s.th os := by
  simp [OnTime, clear, stallOf_clear]

@[simp] theorem Readable_clear (s : State) (o : Opnd) : Readable (clear s).th o ↔ Readable s.th o := by
  cases o <;> exact Iff.rfl

/-- An instruction whose checks all pass. -/
theorem checks_ok {s : State} {addr others : List Opnd} {d : Dest} {early : M Unit} (h : Fits s (addr ++ others) d)
    (he : early (clear s) = .ok () (clear s)) : checks addr others d early s = .ok () (clear s) := by
  unfold checks
  rw [M.bind_ok (declared_ok h.1 h.2.1),
    M.bind_ok (softs_ok (fun o ho => (Readable_clear s o).2 (h.1 o (by simp [ho])))), M.bind_ok he,
    M.bind_ok (softs_ok (fun o ho => (Readable_clear s o).2 (h.1 o (by simp [ho]))))]
  exact stallCheck_ok ((OnTime_clear s _).2 h.2.2)

/-- An operand read after the checks reads as before. -/
theorem opnd_clear {s : State} {o : Opnd} (h : Readable s.th o) : opnd (clear s) o = opnd s o := by
  cases o with
  | n k =>
    have e : isSoft (clear s).th k.val = isSoft s.th k.val := rfl
    simp only [opnd, e, softVal]
    by_cases hs : isSoft s.th k.val = true
    · have hb := h.2 hs
      have hb' : Assoc.get (clear s).th.a.binds k.val = none := hb
      simp [hs, hb, hb']
    · simp [hs, clear]
  | q i => rfl
  | z => rfl
  | tid => rfl

/-! ### Passing -/

/-- Passing in a chunk: the front thread goes on at `pc`, and only counting happens beside it. -/
theorem countIn_advance {s : State} {pc : Word} (hc : ChunkGoesOn s) :
    (countIn (advance s pc)).th = passed s.th s.th.a pc ∧ Counts { s with th := passed s.th s.th.a pc } (countIn (advance s pc)) := by
  have key : ∀ s1 : State, Counts s s1 → ∀ th : Thread, th.chunk.before + th.chunk.count < 511 →
      (countIn { s1 with th := th }).th = { th with boundary := false, chunk := { th.chunk with count := th.chunk.count + 1 } } ∧
      Counts { s with th := { th with boundary := false, chunk := { th.chunk with count := th.chunk.count + 1 } } }
        (countIn { s1 with th := th }) := by
    intro s1 h th ht
    unfold countIn
    simp only
    rw [if_neg (by omega)]
    exact ⟨rfl, ⟨rfl, h.rest, h.mem, h.coh, h.wk, h.vw, h.now, h.sched, h.turn, h.eng, h.cc, h.sys, h.ctl, h.dbg, h.rep⟩⟩
  have h2 : ∃ s1, Counts s s1 ∧ advance s pc = { s1 with th := { s1.th with
      a := { s1.th.a with pc := pc, dist := s1.th.a.dist + 1 + stallOfWords s1.th.words, suppress := false }
      status := .running, kept := [], longMiss := false, waited := 0
      answer := if s1.th.answered.isSome then none else s1.th.answer } } := by
    unfold advance
    refine ⟨_, ?_, rfl⟩
    have ha := Counts.perfTh s s.th 2 1
    have hb : Counts s (if s.th.a.level = 0 then perfTh (perfTh s s.th 2 1) s.th 1 1 else perfTh s s.th 2 1) := by
      split
      · exact ha.trans (Counts.perfTh _ _ _ _)
      · exact ha
    split
    · exact hb
    · exact hb.trans (Counts.postOnce _ _)
  obtain ⟨s1, h, e⟩ := h2
  rw [e, h.th]
  exact key s1 h _ hc

/-- What a performed instruction of a chunk leaves. -/
theorem retire_in_chunk {s : State} {pc : Word} {r : Ret} (hr : r = .seq ∧ pc = nextPc s ∨ r = .jump pc) (hc : ChunkGoesOn s) :
    (retire s r).th = passed s.th s.th.a pc ∧ Counts { s with th := (retire s r).th } (retire s r) := by
  have h := countIn_advance (pc := pc) hc
  rcases hr with ⟨rfl, rfl⟩ | rfl
  · exact ⟨h.1, by simp only [retire]; rw [h.1]; exact h.2⟩
  · exact ⟨h.1, by simp only [retire]; rw [h.1]; exact h.2⟩

theorem perform_ok {m : M Ret} {s s1 : State} {r : Ret} (h : m s = .ok r s1) : perform m s = .next (retire s1 r) := by
  unfold perform
  simp [h]

theorem perform_error {m : M Ret} {s s1 : State} {e : Stop} (h : m s = .error e s1) (he : e ≠ .cut) : perform m s = .next (stopAt s1 e) := by
  unfold perform
  rw [h]
  cases e <;> simp_all

/-- An instruction of a thread always answers a next state: it passes, waits, or takes its trap. -/
theorem perform_next (m : M Ret) (s : State) : ∃ t, perform m s = .next t := by
  unfold perform
  split
  · exact ⟨_, rfl⟩
  · simp only
    repeat' split
    all_goals exact ⟨_, rfl⟩
  · exact ⟨_, rfl⟩

/-! ### Values -/

@[simp] theorem pushArch_written (a : Arch) (d : Dest) (v : Word) (lat : Nat) : pushArch a d v lat = written a d v lat := by
  cases d <;> rfl

theorem answered_pushResult (s : State) (d : Dest) (v : Word) (lat : Nat) : (pushResult s d v lat).th.answered = s.th.answered := by
  simp only [Thread.answered, pushResult_th, pushArch_pc]

@[simp] theorem written_pc (a : Arch) (d : Dest) (v : Word) (lat : Nat) : (written a d v lat).pc = a.pc := by cases d <;> rfl
@[simp] theorem written_dist (a : Arch) (d : Dest) (v : Word) (lat : Nat) : (written a d v lat).dist = a.dist := by cases d <;> rfl

/-- The thread after an instruction that first wrote its registers. -/
theorem passed_of (t : Thread) (a : Arch) (pc : Word) (h : a.pc = t.a.pc) :
    passed { t with kept := [], a := a } a pc = passed t a pc := by
  unfold passed
  have : ({ t with kept := [], a := a } : Thread).answered = t.answered := by
    simp only [Thread.answered, h]
  simp [this]

/-- An instruction that leaves registers `a` in its chunk. -/
theorem passes_of {i : Instr} {s : State} {m : M Ret} {a : Arch} {pc : Word} {r : Ret} (hx : exec i s = perform m s)
    (hm : m s = .ok r { s with th := { s.th with kept := [], a := a } })
    (ha : a.pc = s.th.a.pc) (hr : r = .seq ∧ pc = following s.th ∨ r = .jump pc) (hc : ChunkGoesOn s) : Passes i s a pc := by
  have hn : nextPc { s with th := { s.th with kept := [], a := a } } = following s.th := by
    simp only [nextPc, following, lenOfWords, ha]
  have h := retire_in_chunk (s := { s with th := { s.th with kept := [], a := a } }) (pc := pc) (r := r)
    (by rcases hr with ⟨h1, h2⟩ | h1
        · exact .inl ⟨h1, h2.trans hn.symm⟩
        · exact .inr h1) hc
  refine ⟨_, hx.trans (perform_ok hm), ?_, h.2⟩
  rw [h.1]
  exact passed_of s.th a pc ha

/-- An instruction that delivers a value. -/
theorem valueOp_passes {i : Instr} {s : State} {os : List Opnd} {d : Dest} {lat : Nat} {f : State → Word}
    (hx : exec i s = valueOp os d lat f s) (h : Fits s os d) (hc : ChunkGoesOn s) :
    Passes i s (written s.th.a d (f (clear s)) lat) (following s.th) := by
  refine passes_of hx ?_ (by simp) (.inl ⟨rfl, rfl⟩) hc
  rw [M.bind_ok (checks_ok (addr := os) (others := []) (early := pure ()) (by simpa using h) rfl)]
  show EStateM.Result.ok Ret.seq (pushResult (clear s) d (f (clear s)) lat) = _
  simp only [pushResult, updArch, pushArch_written, clear]

end Sys2Proof.Machine
end

