-- ==== Sys2Proof/Tests/Slice0.lean ====
section
/-! SUPPORT. Slice0.lean: tests. Ill-formed terms are refused; words that the spec's examples work out decode to their statements; single steps
give what the rules say; and for every statement with hypotheses a theorem `test_meets_…` shows states and operands that meet them. -/

namespace Sys2Proof.Tests

set_option maxRecDepth 8000
set_option exponentiation.threshold 2000

open Sys2Proof Sys2Proof.Machine Sys2Proof.Safety Sys2Proof.Claims

/-! ### Well-formedness: each check refuses a term (R267, R270, R295, R297, R315, R316, R323, R353, R368, R375, R433) -/

theorem test_ill_shift : (Instr.shli (.reg 1) (.n 1) 64).wellFormed = false ∧ (Instr.shliLong (.reg 1) (.r (.n 1)) 64).wellFormed = false ∧
    (Instr.shli (.reg 1) (.n 1) 63).wellFormed = true := by decide

theorem test_ill_branch_of_zero : (Instr.bz .z 1).wellFormed = false ∧ (Instr.bz (.q 0) 1).wellFormed = true := by decide

theorem test_ill_store_size : (Instr.st (.q 0) (.n 3) 0 .s8).wellFormed = false ∧ (Instr.stLong (.r (.q 0)) (.r (.n 3)) .s32 0).wellFormed = false ∧
    (Instr.st (.q 0) (.n 3) 0 .z8).wellFormed = true := by decide

theorem test_ill_overflow_mode : (Instr.faddLong .push (.q 0) (.q 1) (.ieee .d) .rne .ovf).wellFormed = false ∧
    (Instr.fcvt .push (.q 0) (.ieee .f) (.ieee .d) .rne .ovf).wellFormed = false ∧
    (Instr.faddLong .push (.q 0) (.q 1) (.ieee .d) .rne .sat).wellFormed = true := by decide

theorem test_ill_send_scope : (Instr.sendLong (.q 0) (.q 1) .b16 false .sys true).wellFormed = false ∧
    (Instr.sendLong (.q 0) (.q 1) .b16 true .sys true).wellFormed = true := by decide

theorem test_ill_mma_pair : (Instr.mmaLong 0 1 0 (.ieee .d) (.ieee .f) .rne false false).wellFormed = false := by decide

theorem test_ill_accst_rounding : (Instr.accst (.ieee .h) (.n 6) 2 .dyn).wellFormed = false := by decide

theorem test_ill_filter_branch : (Instr.filterBr 0).wellFormed = false ∧ (Instr.filterBeq 1 2 0).wellFormed = false := by decide

/-- A step of another agent has no encoding. -/
theorem test_ill_step : Instr.commitPoint.wellFormed = false ∧ encode 0 .commitPoint = [] := by decide

/-! ### Decoding: words that the spec's examples give for statements, one or more for each family -/

theorem test_dec_int : decode [0x20554ffd] = .ok (.addi (.reg 5) (.n 3) (BitVec.ofInt 10 (-3)), 1) ∧
    decode [0xe617f000, 0x12345678] = .ok (.addiLong (.reg 7) (.r .z) 0x12345678, 2) := ⟨rfl, rfl⟩

theorem test_dec_control : decode [0x46000004] = .ok (.nop, 1) ∧
    decode [0x4c144ffd] = .ok (.bccLtS (.n 3) (.n 4) (BitVec.ofInt 10 (-3)), 1) := ⟨rfl, rfl⟩

theorem test_dec_float : decode [0x60d45561] = .ok (.fadd (.reg 4) (.n 5) (.n 6) .d .rne, 1) ∧
    decode [0xe014556d, 0x5d820000] = .ok (.fma (.reg 4) (.n 5) (.n 6) (.n 7) (.ieee .d) .rtp .sat, 2) := ⟨rfl, rfl⟩

theorem test_dec_convert : decode [0xe2da5403, 0x64580002] =
    .ok (.fpk8 (.reg 10) (.n 5) (.q 0) (.n 9) { p := 3, uns := false, fin := false } .f .rne .sat, 2) := rfl

theorem test_dec_accumulator : decode [0xe4004db2, 0x70000000] = .ok (.xmad (.n 3) (.n 11) (.n 12), 2) := rfl

theorem test_dec_memory : decode [0x50955016] = .ok (.ld (.reg 5) (.n 4) 2 .d64, 1) ∧
    decode [0x52004c06] = .ok (.st (.q 0) (.n 3) 0 .d64, 1) ∧
    decode [0xe8164830, 0x00010000] = .ok (.ldLong (.reg 6) (.r (.n 2)) .s16 0x10000, 2) := ⟨rfl, rfl, rfl⟩

theorem test_dec_sync : decode [0x58000022] = .ok (.fence .rel .pkg, 1) ∧ decode [0x5a005020] = .ok (.syncacqLk (.n 4) .pkg, 1) ∧
    decode [0x5c00f001] = .ok (.mwait .push .z, 1) := ⟨rfl, rfl, rfl⟩

theorem test_dec_atomic : decode [0xe8004d73, 0x001a1005] = .ok (.amo .push (.n 3) (.n 7) .z32 .rlx .pkg .min, 2) ∧
    decode [0xe81e75c3, 0x00181005] = .ok (.amo (.reg 14) (.n 13) (.n 12) .s32 .rlx .pkg .min, 2) ∧
    decode [0xe81847c4, 0x5c1e5000] = .ok (.cas (.reg 8) (.n 1) .z (.n 7) .z64 .acq .pkg, 2) := ⟨rfl, rfl, rfl⟩

theorem test_dec_threads : decode [0x82000003] = .ok (.bar .push 0, 1) ∧ decode [0x8810a000] = .ok (.rcpDef 1 5, 1) := ⟨rfl, rfl⟩

theorem test_dec_engine : decode [0x90195000] = .ok (.push (.reg 9) (.n 4), 1) ∧ decode [0x92006400] = .ok (.waitt (.n 9), 1) := ⟨rfl, rfl⟩

theorem test_dec_matrix : decode [0x961a00c1] = .ok (.rpushRes (.reg 10) 3, 1) ∧ decode [0x96004c40] = .ok (.ringcfg (.n 3) 1, 1) ∧
    decode [0x98005580] = .ok (.mma 0 1 2 (.b8 { p := 3, uns := false, fin := false }), 1) ∧
    decode [0xee08e800, 0x00820001] = .ok (.mmaLong 2 3 5 (.ieee .d) (.ieee .d) .rtz false false, 2) ∧
    decode [0x9a035902] = .ok (.accst (.ieee .h) (.n 6) 2 .rne, 1) := ⟨rfl, rfl, rfl, rfl, rfl⟩

theorem test_dec_worlds : decode [0x9c184800] = .ok (.forkw (.reg 8) (.n 2), 1) ∧ decode [0x9c006801] = .ok (.choose (.n 10), 1) := ⟨rfl, rfl⟩

theorem test_dec_system : decode [0xa200f002] = .ok (.csrw .z 2, 1) ∧ decode [0xaa564803] = .ok (.cap (.reg 6) (.n 2), 1) ∧
    decode [0xf0008e21, 0x00001800] = .ok (.tlbinvLong (.n 19) (.n 18) 0 .dom, 2) := ⟨rfl, rfl, rfl⟩

theorem test_dec_filter : decodeFilter 0x04800008 = .ok (.filterLdev 1 8) ∧ decodeFilter 0x0d000002 = .ok (.filterLi 2 2) ∧
    decodeFilter 0x38140007 = .ok (.filterBne 1 2 7) ∧ decodeFilter 0x2a31003f = .ok (.filterShr 4 3 (.imm 63)) ∧
    decodeFilter 0x34400004 = .ok (.filterBeq 4 0 4) ∧ decodeFilter 0x485c0003 = .ok (.filterHinc 3 5 6) ∧
    decodeFilter 0x64000000 = .ok .filterEnd := ⟨rfl, rfl, rfl, rfl, rfl, rfl, rfl⟩

theorem test_dec_refused : decode [0] = .error .permanentlyIllegal ∧ decode [0xfe000000] = .error .permanentlyIllegal ∧
    decode [0xc0000000] = .error .futureSpace ∧ decode [0x0e000000] = .error .unassigned ∧
    decodeFilter 0x68000000 = .error .unassigned := ⟨rfl, rfl, rfl, rfl, rfl⟩

/-! ### Small states -/

/-- A thread with 40 named registers, handle 1, in a chunk on core 0, with given q0, n0, n1 and n2. -/
def running (q0 n0 n1 n2 : Word) : State :=
  { State.reset with th := { Thread.vacant with
      uid := 1, status := .running, nreg := 40
      a := { Arch.zero with pc := 0x1000, q := Reg.of q0 :: List.replicate 15 Reg.zero
                            n := [Reg.of n0, Reg.of n1, Reg.of n2] ++ List.replicate 41 Reg.zero } } }

/-- The same between chunks. -/
def between (q0 n0 n1 n2 : Word) : State := { running q0 n0 n1 n2 with th := { (running q0 n0 n1 n2).th with boundary := true } }

/-- The next state, or that after reset where there is none. -/
def nextOf (o : Out) : State :=
  match o with
  | .next t => t
  | _ => State.reset

/-- n5 after an instruction of a running thread. -/
def n5 (i : Instr) (q0 n0 n1 n2 : Word) : Word := (nReg (nextOf (exec i (running q0 n0 n1 n2))).th.a 5).val

/-- FPFLAGS after it. -/
def flagsOf (i : Instr) (n0 n1 : Word) : Word := (nextOf (exec i (running 0 n0 n1 0))).th.a.fpflags

/-! ### Single steps; expected values by hand from the rules named -/

/-- R286: sums wrap, and `mulh.s` is the high half; R287: quotients round to zero, a remainder has the dividend's sign, and x / 0 is all ones. -/
theorem test_int : n5 (.add (.reg 5) (.n 0) (.n 1)) 0 (-1) 2 0 = 1 ∧ n5 (.mulhS (.reg 5) (.n 0) (.n 1)) 0 (-1) 2 0 = -1 ∧
    n5 (.divS (.reg 5) (.n 0) (.n 1)) 0 (-7) 2 0 = -3 ∧ n5 (.remS (.reg 5) (.n 0) (.n 1)) 0 (-7) 2 0 = -1 ∧
    n5 (.divZ (.reg 5) (.n 0) (.n 1)) 0 7 0 0 = -1 := by decide

/-- R289, R290: counts use six bits; `sar` copies bit 63; `brev` mirrors; `clz` of zero is 64. -/
theorem test_bits : n5 (.shl (.reg 5) (.n 0) (.n 1)) 0 3 65 0 = 6 ∧ n5 (.sar (.reg 5) (.n 0) (.n 1)) 0 (-8) 1 0 = -4 ∧
    n5 (.rotl (.reg 5) (.n 0) (.n 1)) 0 0x8000000000000001 4 0 = 0x18 ∧ n5 (.brev (.reg 5) (.n 0)) 0 3 0 0 = 0xc000000000000000 ∧
    n5 (.clz (.reg 5) (.n 0)) 0 0 0 0 = 64 := by decide

/-- R249: a result is pushed onto the result queue, whose older entries move up. -/
theorem test_push : ((nextOf (exec (.add .push (.n 0) (.n 1)) (running 7 5 6 0))).th.a.q.take 2).map (fun r => r.val) = [11, 7] := by decide

/-- R235, R236, R305: 1.5 + 2 is 3.5 and raises nothing; 1 / 0 is infinity and raises DZ; the root of -1 raises NV. -/
theorem test_float : n5 (.fadd (.reg 5) (.n 0) (.n 1) .d .rne) 0 0x3ff8000000000000 0x4000000000000000 0 = 0x400c000000000000 ∧
    flagsOf (.fadd (.reg 5) (.n 0) (.n 1) .d .rne) 0x3ff8000000000000 0x4000000000000000 = 0 ∧
    n5 (.fdiv (.reg 5) (.n 0) (.n 1) .d .rne) 0 0x3ff0000000000000 0 0 = 0x7ff0000000000000 ∧
    flagsOf (.fdiv (.reg 5) (.n 0) (.n 1) .d .rne) 0x3ff0000000000000 0 = 2 ∧
    flagsOf (.fsqrt (.reg 5) (.n 0) .d .rne) 0xbff0000000000000 0 = 1 := by decide

/-- R297, R300: a taken branch counts words from its own pc, backwards too; one not taken falls through. -/
theorem test_branch : (nextOf (exec (.bz (.n 0) 3) (running 0 0 0 0))).th.a.pc = 0x100c ∧
    (nextOf (exec (.bz (.n 0) 3) (running 0 1 0 0))).th.a.pc = 0x1004 ∧
    (nextOf (exec (.bccLtS (.n 0) (.n 1) (-3)) (running 0 (-1) 0 0))).th.a.pc = 0xff4 ∧
    (nextOf (exec (.bccLtZ (.n 0) (.n 1) (-3)) (running 0 (-1) 0 0))).th.a.pc = 0x1004 := by decide

/-- R433, R434: a filter's `sub` wraps, and its shift counts have six bits. -/
theorem test_filter :
    let run (i : Instr) : List Word :=
      ((nextOf (exec i { State.reset with dbg := { State.reset.dbg with runs :=
        [{ die := 0, slot := 0, vf := 0, supv := true, ev := { die := 0, code := 0, vf := 0, core := 0, fields := [] }, pc := 0,
           regs := [1, 2, 65, 0, 0, 0, 0, 0], count := 0 }] } })).dbg.runs.map (fun r => r.regs.getD 3 0))
    run (.filterSub 3 0 (.reg 1)) = [-1] ∧ run (.filterShl 3 1 (.reg 2)) = [4] ∧ run (.filterMin 3 1 (.imm 5)) = [2] := by decide

/-! ### Helpers for the witnesses -/

theorem fits_small (s : State) (os : List Opnd) (d : Dest) (hn : s.th.nreg = 40) (hs : s.th.nsoft = 0) (hc : s.th.a.chk = false)
    (ho : os.all (fun o => match o with | .n k => decide (k.val < 40) | _ => true) = true)
    (hd : (match d with | .reg k => decide (k.val < 40) | _ => true) = true) : Fits s os d := by
  have soft (k : Nat) : isSoft s.th k = false := by
    simp only [isSoft, Thread.softBase, hn, hs, Bool.and_eq_false_iff, decide_eq_false_iff_not]; omega
  refine ⟨fun o h => ?_, ?_, .inl hc⟩
  · have := List.all_eq_true.1 ho o h
    cases o <;> simp_all [Readable]
  · cases d <;> simp_all [Writable]

/-- A machine with a thread in a chunk, and one with a thread between chunks, that the witnesses use where nothing more is needed. -/
def run0 : State := running 0 0 0 0
def btw0 : State := between 0 0 0 0

theorem fit_run (q0 n0 n1 n2 : Word) (os : List Opnd) (d : Dest)
    (ho : os.all (fun o => match o with | .n k => decide (k.val < 40) | _ => true) = true)
    (hd : (match d with | .reg k => decide (k.val < 40) | _ => true) = true) : Fits (running q0 n0 n1 n2) os d :=
  fits_small _ _ _ rfl rfl rfl ho hd

theorem fit_btw (q0 n0 n1 n2 : Word) (os : List Opnd) (d : Dest)
    (ho : os.all (fun o => match o with | .n k => decide (k.val < 40) | _ => true) = true)
    (hd : (match d with | .reg k => decide (k.val < 40) | _ => true) = true) : Fits (between q0 n0 n1 n2) os d :=
  fits_small _ _ _ rfl rfl rfl ho hd

/-! ### States that meet the hypotheses of the statements: values, control, exceptions -/

theorem test_meets_BitResults : (0 : Word) = 0 ∧ (1 : Word) ≠ 0 ∧ 63 < 64 ∧ 7 < 8 := by decide

theorem test_meets_ControlTransfers :
    branchOf (.bccLtS (.n 0) (.n 1) 1023) (running 0 (-1) 2 0) = some ([.n 0, .n 1], true, -1) ∧
    branchOf (.bccLtS (.n 0) (.n 1) 1) (running 0 2 2 0) = some ([.n 0, .n 1], false, 1) ∧
    Fits (running 0 (-1) 2 0) [.n 0, .n 1] .drop ∧ run0.th.chunk.before + run0.th.chunk.count < 511 ∧
    Fits (running 0 0x2000 0 0) [.n 0] (.reg 39) ∧ (opnd (running 0 0x2000 0 0) (.n 0)).toNat % 4 = 0 ∧
    Fits (running 0 0x2002 0 0) [.n 0] .drop ∧ (opnd (running 0 0x2002 0 0) (.n 0)).toNat % 4 ≠ 0 :=
  ⟨rfl, rfl, fit_run _ _ _ _ _ _ rfl rfl, by decide, fit_run _ _ _ _ _ _ rfl rfl, by decide, fit_run _ _ _ _ _ _ rfl rfl, by decide⟩

/-- The thread with two soft registers, n38 and n39. -/
def soft0 : State := { run0 with th := { run0.th with nsoft := 2 } }

/-- The thread with the scoreboard's check on, and n0 produced one instruction before by a multiplication. -/
def near0 : State := { run0 with th := { run0.th with a := { run0.th.a with
  chk := true, dist := 1, n := { val := 6, born := 0, lat := 3 } :: run0.th.a.n.tail } } }

theorem test_meets_OperandChecks :
    fieldsOf (.add (.reg 40) (.n 0) (.n 1)) run0 = some ([.n 0, .n 1], .reg 40) ∧ Undeclared run0.th [.n 0, .n 1] (.reg 40) ∧
    fieldsOf (.add (.reg 39) (.n 0) (.n 1)) soft0 = some ([.n 0, .n 1], .reg 39) ∧ ¬ Undeclared soft0.th [.n 0, .n 1] (.reg 39) ∧
    isSoft soft0.th 39 = true ∧
    fieldsOf (.add (.reg 1) (.n 1) (.n 0)) near0 = some ([.n 1] ++ .n 0 :: [], .reg 1) ∧
    (∀ o ∈ [Opnd.n 1, .n 0], Readable near0.th o) ∧ Writable near0.th (.reg 1) ∧ near0.th.a.chk = true ∧
    TooNear near0.th (.n 0) 1 3 ∧ ∀ x ∈ [Opnd.n 1], ∀ dist l, ¬ TooNear near0.th x dist l := by
  refine ⟨rfl, .inr ⟨40, rfl, by decide⟩, rfl, ?_, by decide, rfl, ?_, by simp [Writable, isSoft]; decide, rfl,
    ⟨_, .inr ⟨0, rfl, by decide, rfl⟩, rfl, rfl, by decide⟩, ?_⟩
  · rintro (⟨k, hk, h⟩ | ⟨k, hk, h⟩)
    · have : k = 0 ∨ k = 1 := by simpa using hk
      rcases this with rfl | rfl <;> exact absurd h (by decide)
    · have : (39 : Fin 44) = k := by simpa using hk
      subst this; exact absurd h (by decide)
  · intro o h
    have : o = .n 1 ∨ o = .n 0 := by simpa using h
    rcases this with rfl | rfl <;> simp [Readable, isSoft, near0, run0, running, Thread.softBase, Thread.vacant]
  · rintro x hx dist l ⟨r, ⟨k, h, _⟩ | ⟨k, h, _, hr⟩, hd, hl, hlt⟩ <;> obtain rfl : x = .n 1 := by simpa using hx
    · cases h
    · cases h; subst hr; subst hl; subst hd; exact absurd hlt (by decide)

/-- A launch with a group of two threads and the recipes given. -/
def launch0 (rs : List Recipe) : Launch :=
  { lnum := 0, part := 0, ctx := 0, vf := 0, queue := 0, record := 0, seqno := 3, recipes := rs, faults := none, block := none
    groups := [{ kind := 0, base := 0, stride := 1, count := 2, bitmap := [], phase := 0, arrived := 0 }] }

/-- A launch with recipe 5, one instruction, and n38 bound to it. -/
def bound0 (n0 : Word) (i : Instr) : State :=
  let s := running 0 n0 0 0
  { s with wk := { s.wk with launches := [launch0 [{ idx := 5, addr := 0x2000, words := encode 0 i }]] }
           th := { s.th with nsoft := 2, a := { s.th.a with binds := [(38, 5)] } } }

/-- n38 evaluates to n0 + 3 under the first state; under the second its load is out of alignment. -/
theorem test_meets_SoftOperands :
    (∃ s1, softs [.n 38, .n 0] { bound0 7 (.addi .push (.n 0) 3) with th := { (bound0 7 (.addi .push (.n 0) 3)).th with kept := [] } } = .ok () s1 ∧
      s1.th.kept = [(38, 10)] ∧ OnTime s1.th [.n 38, .n 0] ∧ s1.th.chunk.before + s1.th.chunk.count < 511) ∧
    (intOf (.add (.reg 1) (.n 38) (.n 0)) (bound0 7 .nop)).map (fun x => (x.1, x.2.1)) = some ([.n 38, .n 0], .reg 1) ∧
    Writable (bound0 7 .nop).th (.reg 1) ∧
    ∃ e s1, softs [.n 38] { bound0 7 (.ld .push (.n 0) 0 .d64) with th := { (bound0 7 (.ld .push (.n 0) 0 .d64)).th with kept := [] } } =
      .error e s1 ∧ e ≠ .cut := by
  refine ⟨⟨_, rfl, by decide, .inl rfl, by decide⟩, rfl, ⟨by decide, by decide⟩, _, _, rfl, by decide⟩

/-- The thread at its chunk's 512th instruction. -/
def last0 : State := { run0 with th := { run0.th with chunk := { run0.th.chunk with count := 511 } } }

theorem test_meets_IntegerResults :
    (∃ v lat, intOf (.mulhS (.reg 1) (.q 15) (.n 39)) run0 = some ([.q 15, .n 39], .reg 1, v, lat)) ∧ Fits run0 [.q 15, .n 39] (.reg 1) ∧
    run0.th.chunk.before + run0.th.chunk.count < 511 ∧ (∃ v lat, intOf (.li .drop 5) last0 = some ([], .drop, v, lat)) ∧ Fits last0 [] .drop ∧
    511 ≤ last0.th.chunk.before + last0.th.chunk.count :=
  ⟨⟨_, _, rfl⟩, fit_run _ _ _ _ _ _ rfl rfl, by decide, ⟨_, _, rfl⟩, fits_small _ _ _ rfl rfl rfl rfl rfl, by decide⟩

/-- 1.0 and 0.0 with the trap for a division by zero enabled. -/
def fp0 (ctl : Word) : State :=
  let s := running 0 0x3ff0000000000000 0 0
  { s with th := { s.th with a := { s.th.a with fpctl := ctl } } }

theorem test_meets_FloatResults :
    (∃ v lat, floatOf (.fdiv (.reg 5) (.n 0) (.n 1) .d .rne) (fp0 0) = some ([.n 0, .n 1], .reg 5, v, lat) ∧ v.fl ≠ 0 ∧
      v.fl &&& (fp0 0).th.a.fpctl.bits 12 8 = 0) ∧ Fits (fp0 0) [.n 0, .n 1] (.reg 5) ∧ (fp0 0).th.chunk.before + (fp0 0).th.chunk.count < 511 ∧
    (∃ v lat, floatOf (.fdiv (.reg 5) (.n 0) (.n 1) .d .rne) (fp0 0x1f00) = some ([.n 0, .n 1], .reg 5, v, lat) ∧
      v.fl &&& (fp0 0x1f00).th.a.fpctl.bits 12 8 ≠ 0) ∧ Fits (fp0 0x1f00) [.n 0, .n 1] (.reg 5) :=
  ⟨⟨_, _, rfl, by decide, by decide⟩, fits_small _ _ _ rfl rfl rfl rfl rfl, by decide, ⟨_, _, rfl, by decide⟩,
    fits_small _ _ _ rfl rfl rfl rfl rfl⟩

/-- Numbers, modes and formats that the statements about values take: 255 is -1 in 8 bits. -/
theorem test_meets_FloatArithmetic : Rm.rne ≠ .dyn := by decide

theorem test_meets_FloatConversions : Rm.rtn ≠ .dyn ∧ FFmt.ieee .d ≠ .ieee .f ∧ 127 < 256 ∧ IntIn .s8 255 (-1) ∧ IntIn .z64 (-1) (2 ^ 64 - 1) := by
  refine ⟨by decide, by decide, by decide, ?_, ?_⟩ <;> refine ⟨?_, ?_, ?_⟩ <;> decide

/-- Handlers of both levels, at a handler level, with the launch in the table. -/
def handled (s : State) (level : Nat) (kern supv : Word) : State :=
  { s with wk := { s.wk with launches := [launch0 []] }
           th := { s.th with a := { s.th.a with level := level }, kern := { s.th.kern with handler := kern }, supv := { s.th.supv with handler := supv } } }

/-- A software trap. -/
def trap0 : Trap := { cause := 0x10, sub := 0, usub := 0, i0 := 7, i1 := 0, i2 := 0, i3 := 0 }

/-- An engine fault: the command's bits, and the core and index of the thread that pushed it; a launch that has a fault recorded. -/
def trap1 : Trap := { trap0 with cause := 0x0e, eng := some (5, 3, 7) }
def faulted0 : State := { handled run0 2 0 0 with wk := { run0.wk with launches := [{ launch0 [] with faults := some { trap := trap0, pc := 0x1000, core := 0, index := 0, count := 2 ^ 32 - 1 } }] } }

theorem test_meets_TrapEntry_records : trap1.eng = some (5, 3, 7) ∧ trap0.eng = none ∧ (launch0 []).faults = none ∧
    faulted0.th.a.level = 2 ∧ ∃ l g, faulted0.wk.launches = [l] ∧ l.lnum = faulted0.th.lnum ∧ l.faults = some g :=
  ⟨rfl, rfl, rfl, rfl, _, _, rfl, rfl, rfl⟩

theorem test_meets_TrapEntry : trap0.cause < 256 ∧ trap0.sub < 256 ∧ trap0.usub < 256 ∧ (handled run0 0 0x100 0x200).th.a.level < 3 ∧
    ((handled run0 0 0x100 0x200).th.a.level = 0 ∧ (handled run0 0 0x100 0x200).th.kern.handler ≠ 0 ∧ trap0.cause ≠ 0x11) ∧
    (¬ ((handled run0 1 0x100 0x200).th.a.level = 0 ∧ (handled run0 1 0x100 0x200).th.kern.handler ≠ 0 ∧ trap0.cause ≠ 0x11) ∧
      (handled run0 1 0x100 0x200).th.a.level < 2 ∧ (handled run0 1 0x100 0x200).th.supv.handler ≠ 0) ∧
    (handled run0 2 0x100 0x200).wk.launches = [launch0 []] ∧ (launch0 []).lnum = (handled run0 2 0x100 0x200).th.lnum ∧
    (handled run0 2 0x100 0x200).th.a.level = 2 ∧ (handled run0 1 0x100 0).th.supv.handler = 0 := by decide

/-- A chunk that has written a byte in class D. -/
def wrote0 : State := { run0 with th := { run0.th with chunk := { run0.th.chunk with count := 1, writes := [(0x40, 1)] } } }

theorem test_meets_TrapsAreDelivered : Between btw0 ∧ (∀ d ∈ btw0.coh.dir, turnOf btw0 btw0.th.uid d.line = false) ∧ (∀ e ∈ btw0.wk.cl, btw0.th.uid ∉ e.2.reserved) ∧
    (run0.th.boundary = false ∧ NoReplay run0 ∧ run0.th.chunk.writes = [] ∧ run0.th.chunk.dirty = [] ∧ run0.th.chunk.rel = false ∧
      poisonedRead run0 run0.th.chunk = false) ∧
    wrote0.th.boundary = false ∧ wrote0.th.chunk.writes ≠ [] ∧ wrote0.th.chunk.dirty = [] ∧ poisonedRead wrote0 wrote0.th.chunk = false := by
  refine ⟨rfl, by decide, by decide, ⟨rfl, rfl, rfl, rfl, rfl, by decide⟩, rfl, by decide, rfl, by decide⟩

theorem test_meets_Returns : (0x1000 : Word).toNat % 4 = 0 ∧ (handled btw0 1 0x100 0x200).th.a.level = 1 ∧
    Between (handled btw0 1 0x100 0x200) ∧ (handled btw0 1 0x100 0x200).th.chunk.dirty = [] ∧ NoReplay (handled btw0 1 0x100 0x200) ∧
    (handled btw0 2 0x100 0x200).th.a.level = 2 ∧ Between (handled btw0 2 0x100 0x200) ∧
    destOfWord (handled btw0 2 0x100 0x200).th.supv.i3.toNat = .push ∧ destOfWord 0x150000 = .reg 5 ∧
    frameOf (handled btw0 1 0x100 0x200) 0 0 (handled btw0 1 0x100 0x200).th.kern.pc.toNat = none ∧ (handled btw0 0 0x100 0x200).th.a.level = 0 := by
  refine ⟨by decide, rfl, rfl, rfl, rfl, rfl, rfl, rfl, rfl, rfl, rfl⟩

theorem test_meets_TrapsAndPrivilege : Between (handled btw0 0 0x100 0x200) ∧ NoView (handled btw0 0 0x100 0x200) ∧
    NoReplay (handled btw0 0 0x100 0x200) ∧ (handled btw0 0 0x100 0x200).th.a.level = 0 ∧
    Fits (handled btw0 0 0x100 0x200) [.n 0] (.reg 3) ∧ run0.th.a.sup = false ∧ 0x100 ≤ (0x100 : BitVec 10).toNat ∧
    (0x1ff : BitVec 10).toNat ≤ 0x1ff ∧ csrAssigned 0x3ff = false ∧ 0x1ff < (0x3ff : BitVec 10).toNat ∧ csrAssigned 0x0ff = false ∧
    csrAssigned 0x1ff = false :=
  ⟨rfl, rfl, rfl, rfl, fits_small _ _ _ rfl rfl rfl rfl rfl, rfl, by decide, by decide, by decide, by decide, by decide, by decide⟩

/-! ### Instructions between chunks, system registers -/

/-- A rival's thread, in a view. -/
def rival0 (s : State) : State := { s with th := { s.th with chain := [9] } }

/-- In the supervisor's mode. -/
def sup0 (s : State) : State := { s with th := { s.th with a := { s.th.a with sup := true } } }

/-- A thread that has registered or been granted a value at its instruction. -/
def given0 (s : State) (v : Word) : State := { s with th := { s.th with answer := some (s.th.a.pc, v) } }

theorem test_meets_SpawnsAndJoins_yield : Between btw0 ∧ wantsSlot (ready btw0) (clusterOf btw0.th.core) = false ∧ NoView btw0 ∧ NoReplay btw0 ∧
    btw0.th.chunk.dirty = [] ∧ btw0.th.a.level = 0 ∧ btw0.th.crew = none ∧ (∀ p ∈ btw0.coh.posted, p.uid ≠ btw0.th.uid) ∧
    ∀ e ∈ btw0.eng.cc, ∀ g ∈ e.2.tags, g.uid ≠ btw0.th.uid := by
  refine ⟨rfl, rfl, rfl, rfl, rfl, rfl, rfl, ?_, ?_⟩ <;> intro _ h <;> cases h

/-- Registers that the mode may read: FPCTL without a record, TAGMAP with one (R253). -/
theorem test_meets_RegisterReads : csrRefused (0x001 : BitVec 10).toNat (!run0.th.a.sup) = none ∧ isLoggedCsr 0x001 = false ∧
    csrRefused (0x115 : BitVec 10).toNat (!(sup0 run0).th.a.sup) = none ∧ csrRefused (0x020 : BitVec 10).toNat true = none ∧ isLoggedCsr 0x020 = true ∧
    Writable run0.th (.reg 3) ∧ run0.th.chunk.before + run0.th.chunk.count < 511 := 
  ⟨by decide, by decide, by decide, by decide, by decide, ⟨by decide, by decide⟩, by decide⟩

theorem test_meets_RegisterWrites : Fits run0 [.n 0] .drop ∧ Fits run0 [.n 0] (.reg 3) ∧ run0.th.chunk.before + run0.th.chunk.count < 511 ∧ Between btw0 ∧ NoView btw0 ∧
    Fits btw0 [.n 0] (.reg 3) ∧ csrRefused (0x010 : BitVec 10).toNat (!btw0.th.a.sup) = none ∧ isFpCsr (0x010 : BitVec 10).toNat = false ∧
    isLoggedCsr (0x010 : BitVec 10).toNat = false ∧ csrRefused (0x020 : BitVec 10).toNat (!btw0.th.a.sup) = none ∧
    isFpCsr (0x020 : BitVec 10).toNat = false ∧ isLoggedCsr (0x020 : BitVec 10).toNat = true ∧
    ((rival0 btw0).th.chain ≠ [] ∧ csrRefused (0x010 : BitVec 10).toNat (!(rival0 btw0).th.a.sup) = none ∧ Fits (rival0 btw0) [.n 0] (.reg 3)) ∧
    (∀ n ∈ [0x001, 0x002, 0x008, 0x010, 0x011, 0x012, 0x013, 0x016], csrAssigned n = true ∧ csrWritable n true = true) ∧
    (∀ n ∈ [0x100, 0x101, 0x102, 0x110, 0x111, 0x112, 0x115], csrAssigned n = true ∧ csrWritable n false = true) ∧
    csrAssigned 0x030 = true ∧ csrWritable 0x030 true = false ∧ (∀ n ∈ [0x030, 0x037, 0x038, 0x03f], csrAssigned n = true ∧ csrWritable n false = true) ∧
    perfTiming ((ccOf run0 run0.th.core (ctxOf run0.th)).perfsel.getD 7 0) = false ∧ perfTiming ((1 : Word).bits 17 0) = false := by
  refine ⟨fit_run _ _ _ _ _ _ rfl rfl, fit_run _ _ _ _ _ _ rfl rfl, by decide, rfl, rfl, fit_btw _ _ _ _ _ _ rfl rfl, by decide, by decide, by decide,
    by decide, by decide, by decide, ⟨by decide, by decide, fits_small _ _ _ rfl rfl rfl rfl rfl⟩, by decide, by decide, by decide, by decide, by decide, by decide, by decide⟩

/-- Another thread, whose chunk has used the translation of a page. -/
def user0 : Thread := { run0.th with uid := 2, chunk := { run0.th.chunk with used := [(0, 0x10000, 12)] } }

theorem test_meets_SystemOperations : Between (sup0 btw0) ∧ NoView (sup0 btw0) ∧ (sup0 btw0).th.a.sup = true ∧ Fits (sup0 btw0) [.n 0, .n 1] .drop ∧
    ((sup0 btw0).rest.all (fun t => t.chunk.used.isEmpty)) = true ∧ Writable (sup0 btw0).th (.reg 3) ∧ NoReplay (sup0 btw0) ∧
    (sup0 btw0).th.answered = none ∧ ¬ Event.checkpoint (sup0 btw0).th.part ∈ (sup0 btw0).agenda ∧ (given0 (sup0 btw0) 5).th.answered = some 5 ∧
    NoView run0 ∧ Fits run0 [.n 0] (.reg 3) ∧ run0.th.chunk.before + run0.th.chunk.count < 511 ∧
    ((sup0 btw0).rest = [] ∧ user0.uid ≠ (sup0 btw0).th.uid ∧ (0, 0x10000, 12) ∈ user0.chunk.used ∧
      (inScope .pkg (clusterOf (sup0 btw0).th.core) (clusterOf user0.core) && ((0 : Nat) == 0 && (0x10000 : Nat) == 0x10040 / 2 ^ 12 * 2 ^ 12)) = true) := by
  refine ⟨rfl, rfl, rfl, fits_small _ _ _ rfl rfl rfl rfl rfl, rfl, ⟨by decide, by decide⟩, rfl, rfl, ?_, rfl, rfl, fit_run _ _ _ _ _ _ rfl rfl, ?_, ?_⟩ <;> decide

/-! ### Memory -/

/-- A leaf entry: a class and a format, readable and writable by users (R32). -/
def leaf0 (cls fmt : Nat) : Nat := 2 ^ 63 + cls * 2 ^ 58 + fmt * 2 ^ 52 + 0x17

/-- The translation of the page at 0x10000. -/
def entry0 (cls fmt : Nat) : Tlb := { cl := 0, ctx := 0, base := 0x10000, lg := 12, leafPa := 0x300000, leaf := leaf0 cls fmt, frame := 0x200000 }

/-- A line of 64 sevens in the L1 of core 0, behind VA 0x10040. -/
def line0 (cls : MemClass) : L1Line :=
  { core := 0, line := 0x200040, cls := cls, ctx := 0, va := 0x10040, data := List.replicate 64 7, valid := 2 ^ 64 - 1, dirty := 0, last := (0, 0) }

/-- A state with a page and an allocation of eight granules in the scratchpad, the first present. -/
def mapped (s : State) (cls fmt : Nat) : State :=
  { s with mem := { s.mem with tlb := [entry0 cls fmt], l1tlb := [(0, entry0 cls fmt)] }
           wk := { s.wk with launches := [launch0 []], allocs := [{ cl := 0, ctx := 0, size := 8, present := [(0, 0)], saved := [], due := [], asked := [], resident := true, outAt := 0 }] } }

/-- The same with the line in the L1. -/
def cached (s : State) (cls fmt : Nat) (c : MemClass) : State :=
  { mapped s cls fmt with coh := { (mapped s cls fmt).coh with l1 := [line0 c] } }

/-- The start of the own window (R19). -/
def win : Word := 0x1fe000000000000

/-- n0 at the page, n1 at the window. -/
def memR (cls fmt : Nat) (c : MemClass) : State := cached (running 5 0x10040 win 0) cls fmt c
def memB (cls fmt : Nat) (c : MemClass) : State := cached (between 5 0x10040 win 0) cls fmt c

/-- No partition exists, so the device has number 0. -/
theorem dev0 (s : State) (h : s.sys = State.reset.sys) : ownDev s = 0 := by
  have : ownDev s = ownDev { State.reset with sys := s.sys } := rfl
  rw [this, h]; decide

theorem window0 (s : State) (p : Nat) (h : s.sys = State.reset.sys)
    (hp : scratchAt s (clusterOf s.th.core) (ctxOf s.th) 0 = .ok p) : OwnWindow s win p :=
  ⟨by decide, 0, p, by simp [windowOf, win, scratchBytes], hp, by simp [localPa, dev0 s h]⟩

theorem here0 (s : State) (h : s.sys = State.reset.sys) : isLocal s 0x200040 = true := by
  simp [isLocal, paDev, dev0 s h]

/-- What `HeldPage` asks of the address 0x10040 with the entry. -/
theorem held0 (s : State) (cls : MemClass) (kind : AccKind) (n fmt : Nat) (h : s.sys = State.reset.sys)
    (ht : l1TlbFind s (whoOf s.th) 0x10040 = some (entry0 n fmt)) (hu : s.th.a.sup = false)
    (hp : permError (leaf0 n fmt) true false kind = none) (hc : peCls (leaf0 n fmt) = cls) :
    HeldPage s 0x10040 (entry0 n fmt) 0x200040 cls kind :=
  ⟨by simp [canonical], by decide, ht, by rw [hu]; exact hp, hc, by simp [entry0], by simp [isLocal, paDev, dev0 s h, entry0], here0 _ h, by decide⟩

theorem fit_memR (n fmt : Nat) (c : MemClass) (os : List Opnd) (d : Dest)
    (ho : os.all (fun o => match o with | .n k => decide (k.val < 40) | _ => true) = true)
    (hd : (match d with | .reg k => decide (k.val < 40) | _ => true) = true) : Fits (memR n fmt c) os d :=
  fits_small _ _ _ rfl rfl rfl ho hd

theorem fit_memB (n fmt : Nat) (c : MemClass) (os : List Opnd) (d : Dest)
    (ho : os.all (fun o => match o with | .n k => decide (k.val < 40) | _ => true) = true)
    (hd : (match d with | .reg k => decide (k.val < 40) | _ => true) = true) : Fits (memB n fmt c) os d :=
  fits_small _ _ _ rfl rfl rfl ho hd

/-- A doubleword of the window at its start, and one of the page. -/
theorem test_meets_Loads : loadOf (.ld (.reg 5) (.n 1) 0 .d64) (memR 0 0 .D) = some ([.n 1], .reg 5, win, .d64) ∧
    Fits (memR 0 0 .D) [.n 1] (.reg 5) ∧ (memR 0 0 .D).th.chunk.before + (memR 0 0 .D).th.chunk.count < 511 ∧ win.toNat % szBytes .d64 = 0 ∧
    OwnWindow (memR 0 0 .D) win 0x20000000000 ∧ loadOf (.ld (.reg 5) (.n 0) 0 .s32) (memR 0 0 .D) = some ([.n 0], .reg 5, 0x10040, .s32) ∧
    HeldPage (memR 0 0 .D) 0x10040 (entry0 0 0) 0x200040 .D .read ∧ hasLine (memR 0 0 .D) (lineOf 0x200040) .D = true :=
  ⟨rfl, fit_memR _ _ _ _ _ rfl rfl, by decide, by decide, window0 _ _ rfl rfl, rfl, held0 _ _ _ _ _ rfl (by decide) rfl rfl rfl, rfl⟩

theorem test_meets_Stores : storeOf (.st (.q 0) (.n 1) 0 .z16) (memR 0 0 .D) = some ([.n 1], [.q 0], win, 5, .z16) ∧
    Fits (memR 0 0 .D) [.n 1, .q 0] .drop ∧ (memR 0 0 .D).th.chunk.before + (memR 0 0 .D).th.chunk.count < 511 ∧ NoView (memR 0 0 .D) ∧ win.toNat % szBytes .z16 = 0 ∧
    OwnWindow (memR 0 0 .D) win 0x20000000000 ∧ bufRoom (memR 0 0 .D) (lineOf 0x20000000000) = true ∧
    storeOf (.st (.q 0) (.n 0) 0 .d64) (memR 0 0 .D) = some ([.n 0], [.q 0], 0x10040, 5, .d64) ∧
    HeldPage (memR 0 0 .D) 0x10040 (entry0 0 0) 0x200040 .D .write ∧ hasLine (memR 0 0 .D) (lineOf 0x200040) .D = true ∧
    specRoom (memR 0 0 .D) (lineOf 0x200040) = true ∧ (5 ≤ 7 ∧ 7 < 5 + [(1 : Byte), 2, 3].length) :=
  ⟨rfl, fit_memR _ _ _ _ _ rfl rfl, by decide, rfl, by decide, window0 _ _ rfl rfl, rfl, rfl, held0 _ _ _ _ _ rfl (by decide) rfl rfl rfl, rfl, rfl, by decide⟩

/-- Instructions of R103 met in a chunk: one that reads no memory, a `push` and an `lrec` of the own window, `eret` and `halt`. -/
theorem test_meets_Singletons : run0.th.chunk.dirty = [] ∧ NoReplay run0 ∧ lcOf run0 0 + 1 = 1 ∧ run0.th.boundary = false ∧
    (∃ u, CutAt (.disband 3) run0 u) ∧ (∃ u, CutAt (.push (.reg 5) (.n 1)) (memR 0 0 .D) u) ∧ (∃ u, CutAt (.lrec (.n 1) (.n 2)) (memR 0 0 .D) u) ∧
    (∃ u, CutAt .eret (handled run0 1 0x100 0x200) u) ∧ (∃ u, CutAt .halt (sup0 run0) u) ∧ (memR 0 0 .D).th.boundary = false :=
  ⟨rfl, rfl, rfl, rfl, ⟨_, .inl ⟨_, _, rfl, fit_run _ _ _ _ _ _ rfl rfl, rfl⟩⟩,
    ⟨_, .inr (.inl ⟨_, _, _, _, _, _, rfl, fit_memR _ _ _ _ _ rfl rfl, by decide, ⟨rfl, .inl (by decide)⟩, rfl⟩)⟩,
    ⟨_, .inr (.inr (.inl ⟨_, _, _, _, rfl, rfl, fit_memR _ _ _ _ _ rfl rfl, by decide, ⟨rfl, .inl (by decide)⟩, ⟨rfl, .inl (by decide)⟩, rfl⟩))⟩,
    ⟨_, .inr (.inr (.inr (.inl ⟨rfl, by decide, rfl⟩)))⟩, ⟨_, .inr (.inr (.inr (.inr ⟨rfl, rfl, rfl, rfl⟩)))⟩, rfl⟩

/-- A rival with a page of class U, and with the memory above. -/
def rivalU : State := rival0 (mapped (running 5 0x10040 win 0) 2 0)
def rivalD : State := rival0 (memR 0 0 .D)

/-- A rival whose fork has a rival as parent, 17 entries deferred by it and its parent. -/
def merging0 : State :=
  let e : Deferred := .send 0x1000 2 [1] false .cl
  { rival0 btw0 with
    th := { (rival0 btw0).th with fork := some 4, world := 0x1000, deferral := List.replicate 9 e, a := { btw0.th.a with n := Reg.of 0 :: btw0.th.a.n.tail } }
    wk := { btw0.wk with saved := [{ run0.th with uid := 8, deferral := List.replicate 8 e }] }
    vw := { btw0.vw with forks := [{ id := 4, parent := 8, parentChain := [3], defer := true, rivals := [(0, 1, 9, true), (1, 2, 10, true)], closed := false
                                     choice := none, part := 0 }] } }

theorem test_meets_RivalsStayInside :
    (rivalD.th.chain ≠ [] ∧ barredOf (.pop (.reg 3) (.n 0)) rivalD = some ([.n 0], .reg 3, 2) ∧ Readable rivalD.th (.n 0) ∧ Writable rivalD.th (.reg 3)) ∧
    ((rival0 (sup0 run0)).th.chain ≠ [] ∧ (rival0 (sup0 run0)).th.a.sup = true) ∧
    (storeOf (.st (.q 0) (.n 1) 0 .z16) rivalD = some ([.n 1], [.q 0], win, 5, .z16) ∧ (∀ o ∈ [Opnd.n 1, .q 0], Readable rivalD.th o) ∧
      win.toNat % szBytes .z16 = 0 ∧ ∃ x, Maps rivalD win .write x ∧ Outward rivalD x) ∧
    (∀ sc ∈ [Scope.cl, .dom], ∃ f, atomicOf (.amo (.reg 5) (.n 1) (.q 0) .z64 .sc sc .add) rivalD = some (.n 1, [.q 0], .reg 5, .z64, .sc, sc, f)) ∧
    (opnd rivalD (.n 1)).toNat % (amoBits .z64 / 8) = 0 ∧ Writable rivalD.th (.reg 5) ∧
    (∃ x, Maps rivalD (opnd rivalD (.n 1)) .rmw x ∧ Outward rivalD x ∧ ¬ Arbiter rivalD x) ∧
    (syncOf (.syncrelSt (.n 0) .cl) = some (.n 0, [.q 0], .drop, true) ∧ rivalU.th.answered = none ∧
      ∃ x, Maps rivalU (opnd rivalU (.n 0)) .rmw x ∧ x.tgt = .mem .U ∧ ¬ Arbiter rivalU x ∧ queuedAt rivalU (lineOf x.pa) = false) ∧
    ((opnd rivalU (.n 0)).toNat % 64 = 0 ∧ ∃ x, Maps rivalU (opnd rivalU (.n 0)) .rmw x) ∧
    (merging0.th.chain ≠ [] ∧ Between merging0 ∧ Fits merging0 [.n 0] .drop ∧ heldForChoice merging0 merging0.th.uid = none ∧ merging0.th.answered = none ∧
      (opnd merging0 (.n 0)).toNat = 0 ∧ 0 < merging0.th.world.bits 15 12 + 1 ∧
      ∃ f, merging0.th.fork.bind (forkAt merging0) = some f ∧ f.closed = false ∧ f.rival 0 = some (1, 9) ∧ f.parentChain ≠ [] ∧
        16 < mergedEntries merging0 f 1) := by
  have rd (s : State) (k : Fin 44) (h : s.th.nreg = 40) (h' : s.th.nsoft = 0) (hk : k.val < 40) : Readable s.th (.n k) := by
    have soft : isSoft s.th k.val = false := by
      simp only [isSoft, Thread.softBase, h, h', Bool.and_eq_false_iff, decide_eq_false_iff_not]; omega
    simp_all [Readable]
  refine ⟨⟨by decide, rfl, rd _ _ rfl rfl (by decide), by decide, by decide⟩, by decide, ⟨rfl, ?_, by decide, _, ⟨rfl, .inl (by decide)⟩, .inl ⟨_, rfl⟩⟩,
    fun sc _ => ⟨_, rfl⟩, by decide, ⟨by decide, by decide⟩, ⟨_, ⟨rfl, .inl (by decide)⟩, .inl ⟨_, rfl⟩, fun h => by cases h.1⟩,
    ⟨rfl, rfl, _, ⟨rfl, .inr (by decide)⟩, rfl, by unfold Arbiter; decide, by decide⟩, ⟨by decide, _, ⟨rfl, .inr (by decide)⟩⟩,
    ⟨by decide, rfl, fits_small _ _ _ rfl rfl rfl rfl rfl, rfl, rfl, by decide, by decide, _, rfl, rfl, rfl, by decide, by decide⟩⟩
  intro o h
  have : o = .n 1 ∨ o = .q 0 := by simpa using h
  rcases this with rfl | rfl
  · exact rd _ _ rfl rfl (by decide)
  · trivial

/-- A translation that ends in a fault, and one that is held. -/
def faults (r : Except XErr Xl × State) : Bool :=
  match r.1 with
  | .error (.fault ..) => true
  | _ => false

def holds (r : Except XErr Xl × State) : Bool :=
  match r.1 with
  | .error (.hold _) => true
  | _ => false

/-- The page's table is not walked to its end: an absent root faults; a window address of a context without its granule waits. -/
theorem test_meets_AccessFaults : loadOf (.ld (.reg 5) (.n 0) 1 .d64) (running 5 0x10001 0 0) = some ([.n 0], .reg 5, 0x10009, .d64) ∧
    (0x10009 : Word).toNat % szBytes .d64 ≠ 0 ∧ storeOf (.st (.q 0) (.n 0) 1 .z16) (running 5 0x10001 0 0) = some ([.n 0], [.q 0], 0x10003, 5, .z16) ∧
    (0x10003 : Word).toNat % szBytes .z16 ≠ 0 ∧ Fits (running 5 0x10001 0 0) [.n 0] (.reg 5) ∧ Fits (running 5 0x10001 0 0) [.n 0, .q 0] .drop ∧
    faults (xlateAs (ready run0) (whoOf run0.th) 0x10000 false .read) = true ∧
    faults (xlateAs (ready run0) (whoOf run0.th) 0x10000 false .write) = true ∧
    holds (xlateAs (ready (memR 0 0 .D)) (whoOf (memR 0 0 .D).th) (win.toNat + 0x4000) false .read) = true ∧
    holds (xlateAs (ready (memR 0 0 .D)) (whoOf (memR 0 0 .D).th) (win.toNat + 0x4000) false .write) = true :=
  ⟨rfl, by decide, rfl, by decide, fit_run _ _ _ _ _ _ rfl rfl, fit_run _ _ _ _ _ _ rfl rfl, by decide, by decide, by decide, by decide⟩

/-- A page of half-precision elements, and one without a format. -/
theorem test_meets_DecodingLoads : decodingOf (.ldf (.reg 5) (.n 0) 0 .f) (memR 0 3 .D) = some ([.n 0], .reg 5, 0x10040, .dyn, .f) ∧
    Fits (memR 0 3 .D) [.n 0] (.reg 5) ∧ (memR 0 3 .D).th.chunk.before + (memR 0 3 .D).th.chunk.count < 511 ∧ HeldPage (memR 0 3 .D) 0x10040 (entry0 0 3) 0x200040 .D .read ∧
    hasLine (memR 0 3 .D) (lineOf 0x200040) .D = true ∧ peBgeo (entry0 0 3).leaf = 0 ∧
    (∃ f, elFmt (peFmt (entry0 0 3).leaf) = some f ∧ 0x10040 % 2 ^ f.bytes.log2 = 0 ∧
      (valLdf .f f (Machine.rmOf (memR 0 3 .D).th.a .dyn)
        (leNat ((List.range f.bytes).map (fun j => dByte (memR 0 3 .D) (0x200040 + j)))) 127).fl &&& (memR 0 3 .D).th.a.fpctl.bits 12 8 = 0) ∧
    elFmt (peFmt (entry0 0 0).leaf) = none :=
  ⟨rfl, fit_memR _ _ _ _ _ rfl rfl, by decide, held0 _ _ _ _ _ rfl (by decide) rfl rfl rfl, rfl, rfl, ⟨_, rfl, by decide, by decide⟩, rfl⟩

theorem test_meets_Atomics : 2 ^ 32 - 1 < 2 ^ amoBits .s32 ∧
    (∃ f, atomicOf (.amo (.reg 5) (.n 0) (.q 0) .z64 .rlx .pkg .add) (memR 0 0 .D) = some (.n 0, [.q 0], .reg 5, .z64, .rlx, .pkg, f)) ∧
    (∃ f, atomicOf (.cas (.reg 5) (.n 0) (.q 0) (.n 2) .s32 .rlx .pkg) (memR 0 0 .D) = some (.n 0, [.q 0, .n 2], .reg 5, .s32, .rlx, .pkg, f)) ∧
    Fits (memR 0 0 .D) [.n 0, .q 0] (.reg 5) ∧ (memR 0 0 .D).th.chunk.before + (memR 0 0 .D).th.chunk.count < 511 ∧ NoView (memR 0 0 .D) ∧
    (opnd (memR 0 0 .D) (.n 0)).toNat % (amoBits .z64 / 8) = 0 ∧ HeldPage (memR 0 0 .D) (opnd (memR 0 0 .D) (.n 0)) (entry0 0 0) 0x200040 .D .rmw ∧
    hasLine (memR 0 0 .D) (lineOf 0x200040) .D = true ∧ specRoom (memR 0 0 .D) (lineOf 0x200040) = true :=
  ⟨by decide, ⟨_, rfl⟩, ⟨_, rfl⟩, fit_memR _ _ _ _ _ rfl rfl, by decide, rfl, by decide, held0 _ _ _ _ _ rfl (by decide) rfl rfl rfl, rfl, rfl⟩

theorem test_meets_AtomicsAtBank :
    (∃ f, atomicOf (.amo (.reg 5) (.n 1) (.q 0) .z64 .rlx .pkg .add) (memB 0 0 .D) = some (.n 1, [.q 0], .reg 5, .z64, .rlx, .pkg, f)) ∧
    Fits (memB 0 0 .D) [.n 1, .q 0] (.reg 5) ∧ Between (memB 0 0 .D) ∧ NoView (memB 0 0 .D) ∧
    (opnd (memB 0 0 .D) (.n 1)).toNat % (amoBits .z64 / 8) = 0 ∧ OwnWindow (memB 0 0 .D) (opnd (memB 0 0 .D) (.n 1)) 0x20000000000 ∧
    (memB 0 0 .D).mem.poisoned.contains (lineOf 0x20000000000) = false ∧ Memory.wf (memB 0 0 .D).mem.cells = true :=
  ⟨⟨_, rfl⟩, fit_memB _ _ _ _ _ rfl rfl, rfl, rfl, by decide, window0 _ _ rfl rfl, rfl, rfl⟩

/-- A thread without posted stores and guarded lines, where no step is due and no line is busy, has nothing to release (R122). -/
theorem quiet_of (s : State) (hp : s.coh.posted = []) (hg : gLines s s.th.core (ctxOf s.th) = []) (ha : s.agenda = []) (hd : s.coh.dir = []) :
    Quiet s := ⟨by simp [hp], hg, by simp [coreWritesPending, pendingWrites, ha, hd, hp]⟩

theorem quietB (n fmt : Nat) (c : MemClass) (hc : c ≠ .G) : Quiet (memB n fmt c) := by
  refine quiet_of _ rfl ?_ rfl rfl
  cases c <;> first | rfl | exact absurd rfl hc

theorem test_meets_HintsAndFences : Fits (memR 0 0 .D) [.n 0] .drop ∧ (memR 0 0 .D).th.chunk.before + (memR 0 0 .D).th.chunk.count < 511 ∧
    HeldPage (memR 0 0 .D) (opnd (memR 0 0 .D) (.n 0)) (entry0 0 0) 0x200040 .D .read ∧
    HeldPage (memR 3 0 .W) (opnd (memR 3 0 .W) (.n 0)) (entry0 3 0) 0x200040 .W .read ∧ hasLine (memR 3 0 .W) (lineOf 0x200040) .W = true ∧
    Between (memB 0 0 .D) ∧ NoView (memB 0 0 .D) ∧ Quiet (memB 0 0 .D) ∧ (memB 0 0 .D).th.answered = none ∧
    ¬ (memB 0 0 .D).th.uid ∈ (memB 0 0 .D).sys.ticketQueue ∧ (given0 (memB 0 0 .D) 5).th.answered.isSome = true ∧
    Between (given0 (memB 0 0 .D) 5) ∧ ¬ (Ord.rel = .sc ∧ (Scope.cl = .dom ∨ Scope.cl = .sys)) :=
  ⟨fit_memR _ _ _ _ _ rfl rfl, by decide, held0 _ _ _ _ _ rfl (by decide) rfl rfl rfl, held0 _ _ _ _ _ rfl (by decide) rfl rfl rfl, rfl, rfl, rfl, quietB _ _ _ (by decide), rfl, by decide, rfl, rfl, by decide⟩

/-- An armed watch on the line. -/
def watched (s : State) (forced : Bool) (stamp : Nat) : State :=
  { s with th := { s.th with a := { s.th.a with monitor := some 0x200040 } }
           coh := { s.coh with watches := [{ line := 0x200040, uid := 1, ref := 3, forced := forced, fresh := false }], stamps := [(0x200040, stamp)] } }

/-- The page in the weight store, its bank's window open. -/
def weight0 : State :=
  { run0 with
    th := { run0.th with a := { run0.th.a with n := Reg.of 0x10040 :: run0.th.a.n.tail } }
    mem := { run0.mem with l1tlb := [(0, { entry0 3 0 with frame := weightBase })] }
    sys := { run0.sys with wsOpen := [(0, weightBank (weightBase + 0x40))] } }

/-- Another page there, in bank 16, the window of bank 3 having opened last. -/
def weight1 : State :=
  { weight0 with mem := { weight0.mem with l1tlb := [(0, { entry0 3 0 with frame := weightBase + 0x1000 })] }
                 sys := { run0.sys with wsLast := [(0, 3)] } }

theorem test_meets_Monitors : Fits (memB 2 0 .U) [.n 0] (.reg 5) ∧ HeldPage (memB 2 0 .U) (opnd (memB 2 0 .U) (.n 0)) (entry0 2 0) 0x200040 .U .read ∧
    Between btw0 ∧ Fits btw0 [.n 0] (.reg 5) ∧ btw0.th.a.monitor = none ∧ NoReplay (watched btw0 true 0) ∧
    (watched btw0 true 0).th.a.monitor.isSome = true ∧
    watchOf (watched btw0 true 0) 1 = some { line := 0x200040, uid := 1, ref := 3, forced := true, fresh := false } ∧
    watchOf (watched btw0 false 4) 1 = some { line := 0x200040, uid := 1, ref := 3, forced := false, fresh := false } ∧
    3 < stampOf (watched btw0 false 4) 0x200040 ∧ stampOf (watched btw0 false 3) 0x200040 ≤ 3 ∧
    (given0 (watched btw0 false 3) 0).th.answered.isSome = true ∧ (watched btw0 false 3).th.answered = none ∧
    HeldPage (memR 0 0 .D) (opnd (memR 0 0 .D) (.n 0)) (entry0 0 0) 0x200040 .D .read ∧ (memR 0 0 .D).th.chunk.before + (memR 0 0 .D).th.chunk.count < 511 ∧
    HeldPage weight1 (opnd weight1 (.n 0)) { entry0 3 0 with frame := weightBase + 0x1000 } (weightBase + 0x1040) .W .read ∧
    Assoc.get weight1.sys.wsLast ((paLocal (weightBase + 0x1040) - weightBase) / 0x40000000) = some 3 ∧
    weight1.sys.wsOpen.contains ((paLocal (weightBase + 0x1040) - weightBase) / 0x40000000, weightBank (paLocal (weightBase + 0x1040))) = false ∧
    3 < weightBank (paLocal (weightBase + 0x1040)) ∧ watchOf btw0 btw0.th.uid = none ∧
    HeldPage weight0 (opnd weight0 (.n 0)) { entry0 3 0 with frame := weightBase } (weightBase + 0x40) .W .read ∧
    weight0.sys.wsOpen.contains ((paLocal (weightBase + 0x40) - weightBase) / 0x40000000, weightBank (paLocal (weightBase + 0x40))) = true :=
  ⟨fit_memB _ _ _ _ _ rfl rfl, held0 _ _ _ _ _ rfl (by decide) rfl rfl rfl, rfl, fit_btw _ _ _ _ _ _ rfl rfl, rfl, rfl, rfl, by decide, by decide,
    by decide, by decide, rfl, rfl, held0 _ _ _ _ _ rfl (by decide) rfl rfl rfl, by decide,
    ⟨by decide, by decide, by decide, by decide, by decide, by decide, by decide, by decide, by decide⟩, by decide, by decide, by decide, by decide,
    ⟨by decide, by decide, by decide, by decide, by decide, by decide, by decide, by decide, by decide⟩, by decide⟩

/-- A sync object's value in memory. -/
def valued (s : State) (v : Byte) : State := { s with mem := { s.mem with cells := if v = 0 then [] else [(0x200040, v)] } }

/-- The page in class U, nothing in the L1. -/
def objB (v : Byte) : State := valued (mapped (between 5 0x10040 win 0) 2 0) v

theorem freeB (v : Byte) : FreeLine (objB v) 0x200040 := by
  refine ⟨?_, ?_, ?_, ?_, ?_, rfl⟩ <;> decide +revert

theorem quiet_obj (v : Byte) : Quiet (objB v) :=
  quiet_of _ rfl rfl rfl rfl

theorem test_meets_SyncOperations : Between (objB 9) ∧ NoView (objB 9) ∧ (objB 9).th.answered = none ∧ Fits (objB 9) [.q 0, .n 0] (.reg 5) ∧
    HeldPage (objB 9) (opnd (objB 9) (.n 0)) (entry0 2 0) 0x200040 .U .rmw ∧ 0x200040 % 64 = 0 ∧ FreeLine (objB 9) 0x200040 ∧ Quiet (objB 9) ∧
    Memory.wf (objB 9).mem.cells = true ∧ Memory.wf (objB 0).mem.cells = true ∧
    (∀ v ∈ [0, 9], syncBad { va := (opnd (objB v) (.n 0)).toNat, pa := 0x200040, tgt := .mem .U, leafPa := 0x300000, leaf := leaf0 2 0, base := 0x10000, lg := 12 }
      (leNat (cellsRead (objB v).mem.cells 0x200040 64)) = false) ∧
    leNat (cellsRead (objB 0).mem.cells 0x200040 8) = 0 ∧ leNat (cellsRead (objB 9).mem.cells 0x200040 8) = 9 ∧
    (opnd (objB 9) (.q 0)).toNat ≤ 9 ∧ ((objB 9).coh.waiters.filter (fun w => homeOf w.line = homeOf 0x200040)).length < 4096 := by
  refine ⟨rfl, rfl, rfl, fits_small _ _ _ rfl rfl rfl rfl rfl, held0 _ _ _ _ _ rfl (by decide) rfl rfl rfl, rfl, freeB 9, quiet_obj 9, ?_, ?_, ?_, ?_, ?_, ?_, ?_⟩ <;>
    decide

/-- Partition 0 with every stack and cluster, in a state of R446. -/
def part0 (s : State) (st : Nat) : State :=
  { s with sys := { s.sys with boot := .booted, ctl := [(0, BitVec.ofNat 64 (1 + 4 * st)), (8, 0xffffffff0000ffff)] } }

/-- A page of a class at a frame, n0 at it and n1 at cluster 1's window; partition 0 has every cluster, a route to device 1, and its function leave
for the Fabric; the context's allocation on cluster 1 has its first granule present; nothing in the L1. -/
def paged (s : State) (cls frame : Nat) : State :=
  let s := part0 s 1
  { s with
    th := { s.th with a := { s.th.a with n := [Reg.of 0x10040, Reg.of 0x1ff000000200000] ++ s.th.a.n.drop 2 } }
    mem := { s.mem with l1tlb := [(0, { entry0 cls 0 with frame := frame })] }
    sys := { s.sys with ctl := (0xc00, 0x8100) :: (vfAddr 0 0, 2) :: s.sys.ctl }
    wk := { s.wk with allocs := [{ cl := 1, ctx := 0, size := 8, present := [(0, 0)], saved := [], due := [], asked := [], resident := true, outAt := 0 }] } }

/-- The page in HBM, in another device, in control space. -/
def hbmP (cls : Nat) : State := paged btw0 cls 0x200000
def farP (cls : Nat) : State := paged btw0 cls 0x40000200000
def ctlP (frame : Nat) : State := paged btw0 0 frame

/-- A line of the page owned by another core. -/
def ownedP : State := { hbmP 0 with coh := { (hbmP 0).coh with dir := [{ DirEnt.fresh 0x200040 with st := .O, owner := 3 }] } }

theorem fit_paged (s : State) (cls frame : Nat) (os : List Opnd) (d : Dest) (h : s.th.nreg = 40) (h' : s.th.nsoft = 0) (hc : s.th.a.chk = false)
    (ho : os.all (fun o => match o with | .n k => decide (k.val < 40) | _ => true) = true)
    (hd : (match d with | .reg k => decide (k.val < 40) | _ => true) = true) : Fits (paged s cls frame) os d :=
  fits_small _ _ _ h h' hc ho hd

/-- The page is held in each class; its line is fetched at once, or free at its home. -/
theorem held_hbm (cls : Nat) (c : MemClass) (kind : AccKind) (hk : kind ≠ .exec) (h : (cls, c) ∈ [(0, MemClass.D), (1, .G), (2, .U), (3, .W)]) :
    HeldPage (hbmP cls) 0x10040 { entry0 cls 0 with frame := 0x200000 } 0x200040 c kind := by
  simp only [List.mem_cons, Prod.mk.injEq, List.not_mem_nil, or_false] at h
  rcases h with ⟨rfl, rfl⟩ | ⟨rfl, rfl⟩ | ⟨rfl, rfl⟩ | ⟨rfl, rfl⟩ <;> cases kind <;>
    first | exact absurd rfl hk | (refine ⟨?_, ?_, ?_, ?_, ?_, ?_, ?_, ?_, ?_⟩ <;> decide)

theorem fetch_hbm (cls : Nat) (h : cls ∈ [0, 1, 3]) : Fetchable (hbmP cls) (lineOf 0x200040) := by
  simp only [List.mem_cons, List.not_mem_nil, or_false] at h
  rcases h with rfl | rfl | rfl <;> exact ⟨by decide, show List.length _ < _ from by decide, by decide, by decide, by decide, by decide⟩

theorem free_hbm (cls : Nat) (h : cls ∈ [0, 1, 2]) : FreeLine (hbmP cls) (lineOf 0x200040) := by
  simp only [List.mem_cons, List.not_mem_nil, or_false] at h
  rcases h with rfl | rfl | rfl <;> refine ⟨?_, ?_, ?_, ?_, ?_, ?_⟩ <;> decide

theorem other_hbm : OtherWindow (hbmP 2) 0x1ff000000200000 0x20000200000 :=
  ⟨by decide, 1, 0, 0x20000200000, by decide, by decide, by decide, rfl, by decide⟩

theorem far_page (cls : Nat) (c : MemClass) (kind : AccKind) (hk : kind ≠ .exec) (h : (cls, c) ∈ [(1, MemClass.G), (2, .U)]) :
    FarPage (farP cls) 0x10040 { entry0 cls 0 with frame := 0x40000200000 } 0x40000200040 c kind ∧ FarOpen (farP cls) 0x40000200040 := by
  simp only [List.mem_cons, Prod.mk.injEq, List.not_mem_nil, or_false] at h
  rcases h with ⟨rfl, rfl⟩ | ⟨rfl, rfl⟩ <;> cases kind <;>
    first | exact absurd rfl hk | exact ⟨⟨by decide, by decide, by decide, by decide, by decide, by decide, by decide, by decide, by decide, by decide⟩,
      by decide, by decide, by decide, by decide⟩

/-- A load of each place. -/
theorem test_meets_OtherAccesses_loads : loadOf (.ld (.reg 5) (.n 0) 0 .d64) (hbmP 0) = some ([.n 0], .reg 5, 0x10040, .d64) ∧
    Fits (hbmP 0) [.n 0] (.reg 5) ∧ (0x10040 : Word).toNat % szBytes .d64 = 0 ∧ 0x200040 % szBytes .d64 = 0 ∧
    (HeldPage (memR 1 0 .G) 0x10040 (entry0 1 0) 0x200040 .G .read ∧ gHas (memR 1 0 .G) 0x200040 8 = true) ∧
    (HeldPage (hbmP 1) 0x10040 { entry0 1 0 with frame := 0x200000 } 0x200040 .G .read ∧ gHas (hbmP 1) 0x200040 8 = false ∧ Fetchable (hbmP 1) (lineOf 0x200040)) ∧
    (HeldPage (hbmP 0) 0x10040 { entry0 0 0 with frame := 0x200000 } 0x200040 .D .read ∧ NoView (hbmP 0) ∧ Fetchable (hbmP 0) (lineOf 0x200040)) ∧
    (l1TlbFind ownedP (whoOf ownedP.th) 0x10040 = some { entry0 0 0 with frame := 0x200000 } ∧ l1Get ownedP 0 (lineOf 0x200040) = none ∧
      entryFree ownedP (clusterOf 0) 0 = true ∧ sliceRoom ownedP (lineOf 0x200040) = true ∧ readAsked ownedP 0 (lineOf 0x200040) .D = false ∧
      (dirOf ownedP (lineOf 0x200040)).st = .O) ∧
    (HeldPage (hbmP 3) 0x10040 { entry0 3 0 with frame := 0x200000 } 0x200040 .W .read ∧ Fetchable (hbmP 3) (lineOf 0x200040) ∧
      windowWaits (hbmP 3) (lineOf 0x200040) = false ∧ windowWaits weight0 (lineOf (weightBase + 0x40)) = true ∧
      l1Get weight0 0 (lineOf (weightBase + 0x40)) = none ∧ l1Get (memR 3 0 .W) 0 (lineOf 0x200040) = some (line0 .W)) ∧
    (Between (hbmP 2) ∧ HeldPage (hbmP 2) 0x10040 { entry0 2 0 with frame := 0x200000 } 0x200040 .U .read ∧ FreeLine (hbmP 2) (lineOf 0x200040)) ∧
    (OtherWindow (hbmP 2) 0x1ff000000200000 0x20000200000 ∧ entryFree (hbmP 2) (clusterOf 0) 0 = true ∧
      (hbmP 2).mem.poisoned.contains (lineOf 0x20000200000) = false ∧ loadOf (.ld (.reg 5) (.n 1) 0 .d64) (hbmP 2) = some ([.n 1], .reg 5, 0x1ff000000200000, .d64)) ∧
    ((FarPage (farP 1) 0x10040 { entry0 1 0 with frame := 0x40000200000 } 0x40000200040 .G .read ∧ FarOpen (farP 1) 0x40000200040) ∧
      l1Get (farP 1) 0 (lineOf 0x40000200040) = none ∧ gHas (farP 1) 0x40000200040 8 = false ∧ (dirOf (farP 1) (lineOf 0x40000200040)).queue = [] ∧
      (farP 1).mem.poisoned.contains (lineOf 0x40000200040) = false) :=
  ⟨rfl, fit_paged _ _ _ _ _ rfl rfl rfl rfl rfl, by decide, by decide, ⟨held0 _ _ _ _ _ rfl (by decide) rfl rfl rfl, rfl⟩,
    ⟨held_hbm _ _ _ (by decide) (by decide), by decide, fetch_hbm _ (by decide)⟩, ⟨held_hbm _ _ _ (by decide) (by decide), rfl, fetch_hbm _ (by decide)⟩, by decide,
    ⟨held_hbm _ _ _ (by decide) (by decide), fetch_hbm _ (by decide), by decide, by decide, by decide, by decide⟩,
    ⟨rfl, held_hbm _ _ _ (by decide) (by decide), free_hbm _ (by decide)⟩, ⟨other_hbm, by decide, by decide, rfl⟩, ⟨far_page _ _ _ (by decide) (by decide), by decide⟩⟩

/-- A store to each; the partition's own registers are readable and writable, offset 0x200 is a hole. -/
theorem test_meets_OtherAccesses_stores : storeOf (.st (.q 0) (.n 0) 0 .d64) (hbmP 1) = some ([.n 0], [.q 0], 0x10040, 0, .d64) ∧
    (HeldPage (hbmP 1) 0x10040 { entry0 1 0 with frame := 0x200000 } 0x200040 .G .write ∧ specRoom (hbmP 1) (lineOf 0x200040) = true ∧
      l1Get (hbmP 1) 0 (lineOf 0x200040) = none ∧ L1Room (hbmP 1) 0 ∧ hasLine (memR 1 0 .G) (lineOf 0x200040) .G = true) ∧
    (HeldPage (hbmP 0) 0x10040 { entry0 0 0 with frame := 0x200000 } 0x200040 .D .write ∧ specRoom (hbmP 0) (lineOf 0x200040) = true) ∧
    (Memory.wf (hbmP 2).mem.cells = true ∧ HeldPage (hbmP 2) 0x10040 { entry0 2 0 with frame := 0x200000 } 0x200040 .U .write) ∧
    (routeLive (farP 2) 0 (paDev 0x40000200040) = true ∧ (FarPage (farP 2) 0x10040 { entry0 2 0 with frame := 0x40000200000 } 0x40000200040 .U .write ∧
        FarOpen (farP 2) 0x40000200040) ∧ (∀ h ∈ (farP 2).rep.skips, h.part ≠ (farP 2).th.part) ∧
      (FarPage (farP 1) 0x10040 { entry0 1 0 with frame := 0x40000200000 } 0x40000200040 .G .write ∧ FarOpen (farP 1) 0x40000200040) ∧
      specRoom (farP 1) (lineOf 0x40000200040) = true ∧ (farP 1).th.chunk.gwrites = [] ∧ L1Room (farP 1) 0) ∧
    (∀ kind ∈ [AccKind.read, .write], ControlPage (ctlP controlBase) 0x10040 { entry0 0 0 with frame := controlBase } (controlBase + 0x40) kind) ∧
    (let w := withChunk (ctlP controlBase) (touchedIn (ctlP controlBase) { entry0 0 0 with frame := controlBase })
     (ctlReadAs w (.supervisor 0) 0x40).1.isSome = true ∧ replayedVal (ctlReadAs w (.supervisor 0) 0x40).2 = none ∧ (ctlReadAs w (.supervisor 0) 0x200).1 = none ∧
       (ctlWriteAs w (.supervisor 0) 0x40 5).isSome = true ∧ (ctlWriteAs w (.supervisor 0) 0x200 5).isNone = true) := by
  refine ⟨rfl, ⟨held_hbm _ _ _ (by decide) (by decide), by decide, by decide, show List.length _ < _ from by decide, rfl⟩,
    ⟨held_hbm _ _ _ (by decide) (by decide), by decide⟩, ⟨by decide, held_hbm _ _ _ (by decide) (by decide)⟩,
    ⟨by decide, far_page _ _ _ (by decide) (by decide), by decide, far_page _ _ _ (by decide) (by decide), by decide, rfl, show List.length _ < _ from by decide⟩, ?_,
    by decide⟩
  intro kind h
  simp only [List.mem_cons, List.not_mem_nil, or_false] at h
  rcases h with rfl | rfl <;> refine ⟨?_, ?_, ?_, ?_, ?_, ?_, ?_, ?_⟩ <;> decide

theorem quiet_paged (cls frame : Nat) : Quiet (paged btw0 cls frame) := quiet_of _ rfl rfl rfl rfl

theorem quiet_memR (cls : Nat) : Quiet (memR cls 0 .D) := quiet_of _ rfl rfl rfl rfl

/-- With an order: nothing is left to release or acquire. -/
theorem test_meets_Atomics_orders :
    (∃ f, atomicOf (.amo (.reg 5) (.n 0) (.q 0) .z64 .ar .pkg .add) (memR 0 0 .D) = some (.n 0, [.q 0], .reg 5, .z64, .ar, .pkg, f)) ∧
    (∃ f, atomicOf (.amo (.reg 5) (.n 0) (.q 0) .z64 .sc .pkg .add) (memR 0 0 .D) = some (.n 0, [.q 0], .reg 5, .z64, .sc, .pkg, f)) ∧
    ¬ (Ord.sc = .sc ∧ (Scope.pkg = .dom ∨ Scope.pkg = .sys)) ∧ Quiet (memR 0 0 .D) :=
  ⟨⟨_, rfl⟩, ⟨_, rfl⟩, by decide, quiet_memR 0⟩

/-- A bank, own and another cluster's; lines of class U, G and, with a ticket, D; another device's memory, where that grants it; tickets. -/
theorem test_meets_AtomicsAtBank_places :
    (∃ f, atomicOf (.amo (.reg 5) (.n 0) (.q 0) .z64 .sc .dom .add) (hbmP 0) = some (.n 0, [.q 0], .reg 5, .z64, .sc, .dom, f)) ∧
    Fits (hbmP 0) [.n 0, .q 0] (.reg 5) ∧ Between (hbmP 0) ∧ NoView (hbmP 0) ∧ (∀ cls frame, Quiet (paged btw0 cls frame)) ∧
    (∃ c, AtomicPlace (memB 0 0 .D) win 0x20000000000 false false c) ∧ (∃ c, AtomicPlace (hbmP 2) 0x1ff000000200000 0x20000200000 false false c) ∧
    (∃ c, AtomicPlace (hbmP 2) 0x10040 0x200040 false false c) ∧ (∃ c, AtomicPlace (hbmP 1) 0x10040 0x200040 false false c) ∧
    (∃ c, AtomicPlace (hbmP 0) 0x10040 0x200040 true false c) ∧
    (Config.remoteGrants 0x40000200040 (jobOf (farP 2) (farP 2).th) = true → ∃ c, AtomicPlace (farP 2) 0x10040 0x40000200040 false true c) ∧
    (Config.remoteGrants 0x40000200040 (jobOf (farP 1) (farP 1).th) = true → ∃ c, AtomicPlace (farP 1) 0x10040 0x40000200040 false true c) ∧
    NoReplay (hbmP 0) ∧ (hbmP 0).th.answered = none ∧ ¬ (hbmP 0).th.uid ∈ (hbmP 0).sys.ticketQueue ∧ (given0 (hbmP 0) 5).th.answered = some 5 ∧
    Memory.wf (hbmP 0).mem.cells = true ∧ Memory.wf (farP 1).mem.cells = true := by
  have clean (s : State) (l : Nat) (h : l1Get s s.th.core l = none) (hp : s.coh.posted = []) : CleanCopy s l :=
    ⟨fun x hx => (by rw [h] at hx; cases hx), fun p hm => (by rw [hp] at hm; cases hm)⟩
  refine ⟨⟨_, rfl⟩, fit_paged _ _ _ _ _ rfl rfl rfl rfl rfl, rfl, rfl, quiet_paged, ⟨_, .inl ⟨.inl (window0 _ _ rfl rfl), rfl, rfl, rfl⟩⟩,
    ⟨_, .inl ⟨.inr other_hbm, by decide, rfl, rfl⟩⟩,
    ⟨_, .inr (.inl ⟨_, _, held_hbm _ _ _ (by decide) (by decide), .inl rfl, free_hbm _ (by decide), rfl, rfl⟩)⟩,
    ⟨_, .inr (.inl ⟨_, _, held_hbm 1 .G _ (by decide) (by decide), .inr (.inl ⟨rfl, clean _ _ (by decide) rfl⟩), free_hbm _ (by decide), rfl, rfl⟩)⟩,
    ⟨_, .inr (.inl ⟨_, _, held_hbm 0 .D _ (by decide) (by decide), .inr (.inr ⟨rfl, rfl⟩), free_hbm _ (by decide), rfl, rfl⟩)⟩,
    fun h => ⟨_, .inr (.inr ⟨_, .U, (far_page _ _ _ (by decide) (by decide)).1, fun h => (by cases h), (far_page 2 .U .rmw (by decide) (by decide)).2, by decide, h, rfl, rfl⟩)⟩,
    fun h => ⟨_, .inr (.inr ⟨_, .G, (far_page _ _ _ (by decide) (by decide)).1, fun _ => clean _ _ (by decide) rfl, (far_page 1 .G .rmw (by decide) (by decide)).2, by decide, h, rfl, rfl⟩)⟩,
    rfl, rfl, by decide, rfl, by decide, by decide⟩

/-- The start of the window's first granule stands at its physical granule 0. -/
theorem scratch0 (s : State) (off : Nat) (a : Alloc) (h : allocOf s 0 0 = some a) (hp : a.present = [(0, 0)]) (hr : a.resident = true)
    (hs : a.size = 8) (ho : off < 0x4000) : scratchAt s 0 0 off = .ok (0x20000000000 + off) := by
  have h0 : off / 0x4000 = 0 := by omega
  simp [scratchAt, h, hs, hr, hp, h0, Assoc.get, scratchPa, scratchBase, Nat.mod_eq_of_lt ho]
  omega

/-- The doublewords of an object at the window's start, and at its offset 256. -/
def pas0 (n : Nat) : List Nat := (List.range 17).map (fun k => 0x20000000000 + n + 8 * k)

theorem object0 (n : Nat) (va : Word) (h0 : n + 136 < 0x4000) (ha : va.toNat % 8 = 0) (hw : isWindow va.toNat = true)
    (ho : windowOf 0 va.toNat = some (0, n)) : ObjectAt (memR 0 0 .D) va (pas0 n) := by
  refine ⟨ha, by simp [pas0], n, _, ?_, rfl, by simp; omega, fun k hk => ⟨0x20000000000 + (n + 8 * k), ?_, ?_⟩⟩
  · have : clusterOf (memR 0 0 .D).th.core = 0 := rfl
    simp [accOffset, hw, ho, this, scratchBytes]; omega
  · exact scratch0 _ _ _ rfl rfl rfl rfl (by omega)
  · simp [pas0, localPa, dev0 (memR 0 0 .D) rfl, hk]; omega

theorem test_meets_LongAccumulators : (memR 0 0 .D).th.chunk.before + (memR 0 0 .D).th.chunk.count < 511 ∧ NoView (memR 0 0 .D) ∧ opnd (memR 0 0 .D) (.n 1) = win ∧
    ObjectAt (memR 0 0 .D) win (pas0 0) ∧ ObjectAt (memR 0 0 .D) (win + 256) (pas0 256) ∧ ObjectRoom (memR 0 0 .D) (pas0 0) ∧
    Fits (memR 0 0 .D) [.n 1, .n 0, .n 2] .drop ∧ Fits (memR 0 0 .D) [.n 1] (.reg 5) ∧
    (((LongAcc.read (accRead (memR 0 0 .D) (pas0 0))).round (Machine.rmOf (memR 0 0 .D).th.a .rne)).fl &&& (memR 0 0 .D).th.a.fpctl.bits 12 8 = 0) ∧
    (let l : LongAcc := { base := -1074, sticky := 62, w := -3 }
     l.base < 2 ^ 11 ∧ -2 ^ 11 ≤ l.base ∧ l.sticky < 64 ∧ l.sticky % 2 = 0 ∧ -2 ^ 1023 ≤ l.w ∧ l.w < 2 ^ 1023) ∧ Rm.rtz ≠ .dyn := by
  refine ⟨by decide, rfl, rfl, object0 0 win (by omega) (by decide) (by decide) (by decide),
    object0 256 (win + 256) (by omega) (by decide) (by decide) (by decide), by unfold ObjectRoom; decide, fit_memR _ _ _ _ _ rfl rfl, fit_memR _ _ _ _ _ rfl rfl,
    by decide, by decide, by decide⟩

/-! ### Threads, groups, messages -/

theorem test_meets_SpawnsAndJoins : Between btw0 ∧ NoView btw0 ∧ Fits btw0 ([.n 0, .n 2] ++ [.n 1, .q 0]) .drop ∧ Quiet btw0 ∧
    (opnd btw0 (.n 0)).toNat % 4 = 0 ∧ (opnd btw0 (.n 2)).toNat % 64 = 0 ∧ dequeRoom btw0 0 = true ∧
    (opnd (between 0 2 0 0) (.n 0)).toNat % 4 ≠ 0 ∧ (opnd (between 0 0 0 32) (.n 2)).toNat % 64 ≠ 0 ∧
    HeldPage (objB 2) (opnd (objB 2) (.n 0)) (entry0 2 0) 0x200040 .U .rmw ∧ (opnd (objB 2) (.n 0)).toNat % 64 = 0 ∧ FreeLine (objB 2) 0x200040 ∧
    Quiet (objB 2) ∧ dequeRoom (objB 2) 0 = true ∧
    (∀ v ∈ [1, 2], (let o := leNat (cellsRead (objB v).mem.cells 0x200040 64); bits o 255 64 = 0 ∧ bits o 63 0 = v.toNat ∧ bits o 257 256 = 0 ∧ bits o 461 460 = 0)) := by
  refine ⟨rfl, rfl, fit_btw _ _ _ _ _ _ rfl rfl, quiet_of _ rfl rfl rfl rfl,
    ?_, ?_, ?_, ?_, ?_, held0 _ _ _ _ _ rfl (by decide) rfl rfl rfl, ?_, freeB 2, quiet_obj 2, ?_, ?_⟩ <;> decide

/-- The thread in slot 0 of a group of two, its launch in the table, with arrivals and crews given. -/
def group0 (s : State) (arrived phase : Nat) (last : List (Nat × Nat)) (crews : List Crew) (crew : Option (Nat × Nat × Nat)) : State :=
  { s with
    wk := { s.wk with launches := [{ launch0 [] with groups := [{ kind := 0, base := 0, stride := 1, count := 2, bitmap := [], phase := phase, arrived := arrived }] }] }
    eng := { s.eng with crews := crews }
    th := { s.th with arrivals := last, crew := crew, a := { s.th.a with grpslots := 0x8000 } } }

/-- A crew of two in which member 1 has convened; and the crew of the thread, convened. -/
def forming0 : Crew := { cl := 0, entry := 0, lnum := 0, grp := 0, ctx := 0, size := 2, members := [(1, 2)], left := [], convened := false }
def crew0 : Crew := { forming0 with members := [(1, 2), (0, 1)], convened := true }

theorem test_meets_RegisterReads_self : Writable run0.th (.reg 5) ∧ run0.th.chunk.before + run0.th.chunk.count < 511 ∧ NoReplay (group0 run0 0 0 [] [] none) ∧
    (launchOf (group0 run0 0 0 [] [] none) 0).isSome = true ∧ HasGroup (group0 run0 0 0 [] [] none) 0 0 ∧
    GroupIs (group0 run0 0 0 [] [] none) 0 { kind := 0, base := 0, stride := 1, count := 2, bitmap := [], phase := 0, arrived := 0 } ∧
    bits run0.th.a.grpslots.toNat (16 * 3 + 15) (16 * 3 + 15) = 0 := by
  refine ⟨⟨by decide, by decide⟩, by decide, rfl, by decide, ⟨by decide, by decide⟩, ⟨_, rfl, rfl⟩, by decide⟩

theorem quiet_group (a p : Nat) (l : List (Nat × Nat)) (cs : List Crew) (c : Option (Nat × Nat × Nat)) : Quiet (group0 btw0 a p l cs c) :=
  quiet_of _ rfl rfl rfl rfl

theorem test_meets_BarriersAndCrews : Between (group0 btw0 0 1 [(0, 0)] [] none) ∧ NoView (group0 btw0 0 1 [(0, 0)] [] none) ∧
    NoReplay (group0 btw0 0 1 [(0, 0)] [] none) ∧ Quiet (group0 btw0 0 1 [(0, 0)] [] none) ∧ Writable btw0.th (.reg 5) ∧
    HasGroup (group0 btw0 0 1 [(0, 0)] [] none) 0 0 ∧ (∃ gr, GroupIs (group0 btw0 0 1 [(0, 0)] [] none) 0 gr ∧ gr.phase = 1 ∧ ¬ gr.size ≤ gr.arrived + 1) ∧
    (∃ gr, GroupIs (group0 btw0 1 1 [(0, 0)] [] none) 0 gr ∧ gr.size ≤ gr.arrived + 1) ∧
    Assoc.get (group0 btw0 0 1 [(0, 0)] [] none).th.arrivals 0 = some 0 ∧ Assoc.get (group0 btw0 0 1 [(0, 1)] [] none).th.arrivals 0 = some 1 ∧
    (group0 btw0 0 1 [] [] none).th.answered = none ∧ (given0 (group0 btw0 0 1 [] [] none) 1).th.answered = some 1 ∧
    convening (group0 btw0 0 0 [] [forming0] none) 0 0 = some forming0 ∧ forming0.cl = clusterOf btw0.th.core ∧
    forming0.size ≤ forming0.members.length + 1 ∧ crewAt (group0 btw0 0 0 [] [crew0] (some (0, 0, 0))) 0 0 = some crew0 ∧
    (group0 btw0 0 0 [] [crew0] (some (0, 0, 0))).th.crew = some (crew0.cl, crew0.entry, 0) ∧ crew0.grp = 0 ∧ crew0.lnum = 0 ∧
    4 < Group.size { kind := 0, base := 0, stride := 1, count := 5, bitmap := [], phase := 0, arrived := 0 } := by
  refine ⟨rfl, rfl, rfl, quiet_group _ _ _ _ _, ⟨by decide, by decide⟩, ⟨by decide, by decide⟩, ⟨_, ⟨_, rfl, rfl⟩, rfl, by decide⟩,
    ⟨_, ⟨_, rfl, rfl⟩, by decide⟩, ?_, ?_, ?_, ?_, ?_, ?_, ?_, ?_, ?_, ?_, ?_, ?_⟩ <;> decide

/-- The thread of it, n0 naming mailbox 2 of its own core, n1 a payload; with its context switched in, or not, and messages in boxes. -/
def mailed (s : State) (name : Word) (resident : Bool) (boxes : List BoxMsg) : State :=
  let t := part0 (mapped s 0 0) 1
  { t with th := { t.th with a := { t.th.a with n := [Reg.of name, Reg.of win] ++ List.replicate 42 Reg.zero } }
           eng := { t.eng with cc := [((0, 0), { CoreCtx.empty with resident := resident, boxes := boxes })] } }

/-- A message of 16 bytes in box 2. -/
def msg0 : BoxMsg := { box := 2, dev := 0, core := 3, data := List.replicate 16 1, rel := false, scope := .cl, stamp := 4 }

theorem quiet_mail (name : Word) (r : Bool) (b : List BoxMsg) : Quiet (mailed btw0 name r b) :=
  quiet_of _ rfl rfl rfl rfl

theorem payload0 (s : State) (a : Alloc) (hd : ownDev s = 0) (hk : payloadOk s s.th win 48 = true) (hc : clusterOf s.th.core = 0)
    (hx : ctxOf s.th = 0) (h : allocOf s 0 0 = some a) (hp : a.present = [(0, 0)]) (hr : a.resident = true) (hs : a.size = 8) :
    PayloadAt s win [0x20000000000, 0x20000000010, 0x20000000020] := by
  refine ⟨hk, fun j hj => ?_⟩
  have off (j : Nat) (hj : j < 3) : (win + BitVec.ofNat 64 (16 * j)).toNat - 0x1fe000000000000 = 16 * j := by
    have : j = 0 ∨ j = 1 ∨ j = 2 := by omega
    rcases this with rfl | rfl | rfl <;> decide
  have hj : j < 3 := hj
  refine ⟨0x20000000000 + 16 * j, ?_, ?_⟩
  · rw [hc, hx, off j hj, scratch0 s (16 * j) a h hp hr hs (by omega)]
  · have : j = 0 ∨ j = 1 ∨ j = 2 := by omega
    rcases this with rfl | rfl | rfl <;> simp [localPa, hd]

theorem test_meets_Sends : sendOf (.sendLong (.n 0) (.n 1) .b48 true .sys false) = some (.n 0, .n 1, 3, true) ∧
    Between (mailed btw0 2 true []) ∧ NoView (mailed btw0 2 true []) ∧ Quiet (mailed btw0 2 true []) ∧ Fits (mailed btw0 2 true []) [.n 0, .n 1] .drop ∧
    nameOk (mailed btw0 2 true []) (mailed btw0 2 true []).th 2 = true ∧
    PayloadAt (mailed btw0 2 true []) (opnd (mailed btw0 2 true []) (.n 1)) [0x20000000000, 0x20000000010, 0x20000000020] ∧
    (∀ p ∈ [0x20000000000, 0x20000000010, 0x20000000020], (mailed btw0 2 true []).mem.poisoned.contains (lineOf p) = false) ∧
    sendReady (mailed btw0 2 true []) (mailed btw0 2 true []).th 2 = none ∧ NoReplay (mailed btw0 2 true []) ∧
    (∀ e ∈ (mailed btw0 2 true []).rep.skips, e.part ≠ (mailed btw0 2 true []).th.part) ∧ nameDev 2 = ownDev (mailed btw0 2 true []) ∧
    sendReady (mailed btw0 2 false []) (mailed btw0 2 false []).th 2 = some (.sendRoom 0 2) ∧
    nameOk (mailed btw0 0x10 true []) (mailed btw0 0x10 true []).th 0x10 = false ∧
    payloadOk (mailed btw0 2 true []) (mailed btw0 2 true []).th (win + 8) 16 = false := by
  refine ⟨rfl, rfl, rfl, quiet_mail _ _ _, fits_small _ _ _ rfl rfl rfl rfl rfl, ?_, payload0 _ _ (by decide) (by decide) rfl rfl rfl rfl rfl rfl, by decide, ?_, rfl, ?_, ?_, ?_, ?_, ?_⟩ <;> decide

/-- The same with a route to device 1, or none, and a name there. -/
def mailedOut (live : Bool) : State :=
  let s := mailed btw0 0x100000002 true []
  { s with sys := { s.sys with ctl := (if live then [(0xc00, 0x8100)] else []) ++ s.sys.ctl } }

theorem test_meets_Sends_out :
    nameDev 0x100000002 = 1 ∧ nameDev 0x100000002 ≠ ownDev (mailedOut true) ∧
    (∀ l ∈ [true, false], Between (mailedOut l) ∧ NoView (mailedOut l) ∧ opnd (mailedOut l) (.n 0) = 0x100000002 ∧
      replayOf (mailedOut l) (mailedOut l).th.part = none ∧ payloadOk (mailedOut l) (mailedOut l).th (opnd (mailedOut l) (.n 1)) 16 = true ∧
      (mailedOut l).rep.skips = []) ∧
    (Config.inDomain 1 = true → Config.holdsCore 1 0 (pdJob (mailedOut true) 0) = true →
      nameOk (mailedOut true) (mailedOut true).th 0x100000002 = true) ∧
    sendReady (mailedOut true) (mailedOut true).th 0x100000002 = none ∧ sendReady (mailedOut false) (mailedOut false).th 0x100000002 = some (.route 1) := by
  refine ⟨by decide, by decide, ?_, ?_, by decide, by decide⟩
  · intro l _; cases l <;> exact ⟨rfl, rfl, rfl, rfl, by decide, rfl⟩
  · intro h h'
    rw [show nameOk (mailedOut true) (mailedOut true).th 0x100000002 = (Config.inDomain 1 && Config.holdsCore 1 0 (pdJob (mailedOut true) 0)) from rfl,
      h, h']; rfl

theorem test_meets_Receives : NoReplay (mailed btw0 4 true [msg0]) ∧ Between (mailed btw0 4 true [msg0]) ∧ NoView (mailed btw0 4 true [msg0]) ∧
    Fits (mailed btw0 4 true [msg0]) [.n 0, .n 1] (.reg 5) ∧ (opnd (mailed btw0 4 true [msg0]) (.n 0)).toNat % 2 ^ 16 ≠ 0 ∧
    PayloadAt (mailed btw0 4 true [msg0]) (opnd (mailed btw0 4 true [msg0]) (.n 1)) [0x20000000000, 0x20000000010, 0x20000000020] ∧
    (∀ p ∈ [0x20000000000, 0x20000000010, 0x20000000020], (mailed btw0 4 true [msg0]).mem.poisoned.contains (lineOf p) = false) ∧
    2 < 16 ∧ bitAt 4 2 = true ∧ (∀ j, j < 2 → bitAt 4 j = true → ∀ x ∈ [msg0], x.box ≠ j) ∧
    (ccOf (mailed btw0 4 true [msg0]) 0 0).boxes.find? (fun x => x.box = 2) = some msg0 ∧ msg0.rel = false ∧
    (∀ x ∈ (ccOf (mailed btw0 8 true [msg0]) 0 0).boxes, bitAt 8 x.box = false) ∧
    (opnd (mailed btw0 0x10000 true []) (.n 0)).toNat % 2 ^ 16 = 0 ∧ Fits (mailed run0 4 true [msg0]) [.n 0] (.reg 5) ∧
    (mailed run0 4 true [msg0]).th.chunk.before + (mailed run0 4 true [msg0]).th.chunk.count < 511 := by
  refine ⟨rfl, rfl, rfl, fits_small _ _ _ rfl rfl rfl rfl rfl, ?_, payload0 _ _ (by decide) (by decide) rfl rfl rfl rfl rfl rfl, by decide, ?_, ?_, ?_, ?_, ?_, ?_, ?_,
    fits_small _ _ _ rfl rfl rfl rfl rfl, ?_⟩ <;> decide

/-! ### Recipes, engines as threads use them -/

/-- The thread with a word after its own in its instruction scratchpad, and recipe 5 in its launch's image or not. -/
def recorded0 (rs : List Recipe) : State :=
  let s := { run0 with th := { run0.th with words := (encode 0 (.rcpDef 0 5)).headD 0, nsoft := 2 } }
  { s with mem := { s.mem with frames := [{ core := 0, frame := 0, ctx := 0, block := 4 }]
                               icells := ((leBytes 4 ((encode 0 (.addi .push (.n 0) 1)).headD 0)).zipIdx.map (fun e => (4 + e.2, e.1))).filter (fun e => e.2 ≠ 0) }
           wk := { s.wk with launches := [launch0 rs] } }

theorem test_meets_Recipes : (recorded0 []).th.chunk.before + (recorded0 []).th.chunk.count < 511 ∧
    (∃ ws, recordWords 1 (following (recorded0 []).th) (recorded0 []) = .ok ws (recorded0 []) ∧ ws = encode 0 (.addi .push (.n 0) 1)) ∧
    recipeOf (recorded0 []) 5 = none ∧
    recipeOf (recorded0 [{ idx := 5, addr := 0x1004, words := encode 0 (.addi .push (.n 0) 1) }]) 5 =
      some { idx := 5, addr := (following (recorded0 []).th).toNat, words := encode 0 (.addi .push (.n 0) 1) } ∧
    isSoft (recorded0 []).th 38 = true ∧ (∀ m : Fin 44, Opnd.q 0 = .n m → isSoft (recorded0 []).th m.val = false) ∧ Opnd.q 0 ≠ .z ∧
    (∃ os x, intOf (.addi .push (.q 0) 1) (recorded0 []) = some (os, x) ∧ recipeOk (recorded0 []).th 1 ((encode 0 (.addi .push (.q 0) 1)).headD 0) (.addi .push (.q 0) 1) = true ∧
      recipeOk (recorded0 []).th 0 ((encode 0 (.addi .push (.q 0) 1)).headD 0) (.addi .push (.q 0) 1) = false) := by
  refine ⟨by decide, ⟨_, rfl, by decide⟩, rfl, by decide, by decide, ?_, by decide, _, _, rfl, by decide, by decide⟩
  intro m h; cases h

/-- A command of handle 7 on core 0 with a word given, whose layout records are those given. -/
def cmd0 (word : Nat) (src dst : Option LayoutCopy) : Command :=
  { id := 7, cl := 0, core := 0, word := word, pc := 0x1000, uid := 1, slot := 0, ctx := 0, part := 0, lnum := 0, index := 0, user := true,
    src := src, dst := dst, ovld := false, root := 0, vf := 0, pos := 0, entry := none, finished := false, moved := 0, slab := none, buf := [],
    pending := false, aside := false, stamped := false, pgfmt := none, windowed := false, route := none, fault := none }

/-- A window state with a FIFO. -/
def fifo0 (n : Nat) : State :=
  { memB 0 0 .D with eng := { (memB 0 0 .D).eng with fifo := List.replicate n (cmd0 0 none none) } }

theorem quiet_fifo (n : Nat) : Quiet (fifo0 n) :=
  quiet_of _ rfl rfl rfl rfl

/-- Every completion tag of the thread's core and context held. -/
def allTags (s : State) : State :=
  { s with eng := { s.eng with cc := [((0, 0), { CoreCtx.empty with tags := (List.range 64).map (fun t =>
      { tag := t, op := 3, uid := 1, total := 0, delivered := 0, popped := 0, fault := none, faultDelivered := false, done := false }) })] } }

theorem no_tag (n : Nat) : ¬ TagFree (allTags (fifo0 n)) := by
  rintro ⟨t, h, hn⟩
  have all : ∀ t, t < 64 → tagSt (allTags (fifo0 0)) t ≠ none := by decide
  exact all t h hn

theorem test_meets_Pushes : Between (fifo0 0) ∧ NoView (fifo0 0) ∧ Quiet (fifo0 0) ∧ Fits (fifo0 0) [.n 1] (.reg 5) ∧
    (opnd (fifo0 0) (.n 1)).toNat % 32 = 0 ∧ OwnWindow (fifo0 0) (opnd (fifo0 0) (.n 1)) 0x20000000000 ∧
    ((fifo0 15).eng.fifo.filter (fun c => c.core = (fifo0 15).th.core)).length < 16 ∧ TagFree (fifo0 15) ∧ (fifo0 15).th.answered = none ∧
    ¬ ((fifo0 16).eng.fifo.filter (fun c => c.core = (fifo0 16).th.core)).length < 16 ∧ TagFree (fifo0 16) ∧ ¬ TagFree (allTags (fifo0 0)) ∧
    (3 : Word).toNat < 64 ∧ (given0 (fifo0 16) 3).th.answered = some 3 :=
  ⟨rfl, rfl, quiet_fifo 0, fits_small _ _ _ rfl rfl rfl rfl rfl, by decide, window0 _ _ rfl rfl, by decide, ⟨0, by decide, by decide⟩, rfl, by decide,
    ⟨0, by decide, by decide⟩, no_tag _, by decide, rfl⟩

/-- The command word has been read by a first attempt. -/
def again0 (n : Nat) : State := { fifo0 n with th := { (fifo0 n).th with cmd := some (0x1000, 2 ^ 248) } }

theorem test_meets_Pushes_again : (fifo0 0).th.command = none ∧ (again0 16).th.command = some (2 ^ 248) ∧ Between (again0 16) ∧ NoView (again0 16) ∧
    Fits (again0 16) [.n 1] (.reg 5) ∧ TagFree (again0 16) ∧ (again0 16).th.answered = none ∧ (given0 (again0 0) 3).th.answered = some 3 ∧
    (given0 (again0 0) 3).th.command = some (2 ^ 248) :=
  ⟨rfl, rfl, rfl, rfl, fits_small _ _ _ rfl rfl rfl rfl rfl, ⟨0, by decide, by decide⟩, rfl, rfl, rfl⟩

/-- Completion tag 3, of the thread's READQ, its bit in TAGMAP and its result elements as given. -/
def tagged (s : State) (map : Word) (elems : List (Nat × Word)) (op : Nat) : State :=
  { s with eng := { s.eng with cc := [((0, 0), { CoreCtx.empty with tagmap := map, elems := elems
                                                                    tags := [{ tag := 3, op := op, uid := 1, total := 1, delivered := 1, popped := 0, fault := none, faultDelivered := false, done := true }] })] }
           th := { s.th with a := { s.th.a with n := Reg.of 3 :: s.th.a.n.tail } } }

theorem test_meets_Tags : NoReplay (tagged btw0 8 [(3, 9)] 4) ∧
    tagSt (tagged btw0 8 [(3, 9)] 4) ((opnd (tagged btw0 8 [(3, 9)] 4) (.n 0)).toNat % 64) =
      some { tag := 3, op := 4, uid := 1, total := 1, delivered := 1, popped := 0, fault := none, faultDelivered := false, done := true } ∧
    Between (tagged btw0 8 [(3, 9)] 4) ∧ NoView (tagged btw0 8 [(3, 9)] 4) ∧ Fits (tagged btw0 8 [(3, 9)] 4) [.n 0] (.reg 5) ∧
    (ccOf (tagged btw0 8 [(3, 9)] 4) 0 0).elems.find? (fun e => e.1 = 3) = some (3, 9) ∧ bitAt (ccOf (tagged btw0 8 [] 4) 0 0).tagmap.toNat 3 = true ∧
    bitAt (ccOf (tagged btw0 0 [] 4) 0 0).tagmap.toNat 3 = false ∧ tagSt (running 0 4 0 0) ((opnd (running 0 4 0 0) (.n 0)).toNat % 64) = none := by
  refine ⟨rfl, ?_, rfl, rfl, fits_small _ _ _ rfl rfl rfl rfl rfl, ?_, ?_, ?_, ?_⟩ <;> decide

/-- n0 and n1 as an `ovld` of two frames from frame 4 has them, and as other operands. -/
def ovl0 (a b : Word) : State := between 0 a b 0

/-- A subscription of tag 3. -/
def sub0 (joined : Bool) : Sub :=
  { id := 5, cl := 0, entry := 0, mtag := 3, ctx := 0, part := 0, core := 0, tag := 3, layout := { idx := 0, word := 0, ctx := none }, user := true, uid := 1,
    pc := 0x1000, root := 0, vf := 0, lnum := 0, index := 0, joined := joined }

def subbed (s : State) (x : Sub) : State := { tagged s 0 [] 0x10 with eng := { (tagged s 0 [] 0x10).eng with subs := [x] } }

theorem test_meets_LayoutsAndSubscriptions : Between (memB 0 0 .D) ∧ NoView (memB 0 0 .D) ∧ Fits (memB 0 0 .D) [.n 1, .n 2] .drop ∧
    (opnd (memB 0 0 .D) (.n 1)).toNat % 8 = 0 ∧
    (∀ j, j < 12 → ∃ pa, ((List.range 12).map (fun j => 0x20000000000 + 8 * j))[j]? = some pa ∧
      OwnWindow (memB 0 0 .D) (opnd (memB 0 0 .D) (.n 1) + BitVec.ofNat 64 (8 * j)) pa) ∧
    Between (ovl0 0x8000 0x204) ∧ Fits (ovl0 0x8000 0x204) [.n 0, .n 1] (.reg 5) ∧
    (let f := (opnd (ovl0 0x8000 0x204) (.n 1)).toNat % 128
     let n := (opnd (ovl0 0x8000 0x204) (.n 1)).toNat / 256 % 128
     (opnd (ovl0 0x8000 0x204) (.n 0)).toNat % 1024 = 0 ∧ (opnd (ovl0 0x8000 0x204) (.n 1)).toNat = n * 256 + f ∧ n ≠ 0 ∧ f + n ≤ 96 ∧
      Assoc.getD (ovl0 0x8000 0x204).mem.pinf 0 0 ≤ f) ∧
    ((ovl0 0x8000 0x204).eng.fifo.filter (fun c => c.core = 0)).length < 16 ∧ TagFree (ovl0 0x8000 0x204) ∧
    (opnd (ovl0 0x8000 0x1080) (.n 1)).toNat ≠ 0x10 * 256 + 0 ∧ (opnd (ovl0 0x8001 0x204) (.n 0)).toNat % 1024 ≠ 0 ∧
    (opnd (ovl0 5 0) (.n 0)).toNat < 2 ^ 32 ∧ (ovl0 5 0).th.answered = none ∧ (∃ e, e < 32 ∧ subAt (ovl0 5 0) 0 e = none) ∧
    (given0 (subbed btw0 (sub0 true)) 3).th.answered = some 3 ∧
    (subbed btw0 (sub0 true)).eng.subs.find? (fun e => e.cl = 0 ∧ e.core = 0 ∧ e.ctx = ctxOf (subbed btw0 (sub0 true)).th ∧ e.tag = (3 : Word).toNat) = some (sub0 true) ∧
    (sub0 true).joined = true ∧ (∃ g, tagSt (subbed btw0 (sub0 true)) ((opnd (subbed btw0 (sub0 true)) (.n 0)).toNat % 64) = some g ∧ g.op = 0x10) ∧
    (subbed btw0 (sub0 true)).eng.subs.find? (fun e => e.core = 0 ∧ e.ctx = ctxOf (subbed btw0 (sub0 true)).th ∧
      e.tag = (opnd (subbed btw0 (sub0 true)) (.n 0)).toNat % 64) = some (sub0 true) := by
  refine ⟨rfl, rfl, fit_memB _ _ _ _ _ rfl rfl, ?_, fun j hj => ⟨0x20000000000 + 8 * j, by simp [hj], ?_, 8 * j, 0x20000000000 + 8 * j, ?_, ?_, by simp [localPa, dev0 (memB 0 0 .D) rfl]⟩, rfl, fits_small _ _ _ rfl rfl rfl rfl rfl,
    ?_, ?_, ⟨0, by decide, by decide⟩, ?_, ?_, ?_, rfl, ⟨0, by decide, by decide⟩, rfl, ?_, rfl, ⟨_, rfl, rfl⟩, ?_⟩
  · decide
  · have : j = 0 ∨ j = 1 ∨ j = 2 ∨ j = 3 ∨ j = 4 ∨ j = 5 ∨ j = 6 ∨ j = 7 ∨ j = 8 ∨ j = 9 ∨ j = 10 ∨ j = 11 := by omega
    rcases this with rfl | rfl | rfl | rfl | rfl | rfl | rfl | rfl | rfl | rfl | rfl | rfl <;> decide
  · have : j = 0 ∨ j = 1 ∨ j = 2 ∨ j = 3 ∨ j = 4 ∨ j = 5 ∨ j = 6 ∨ j = 7 ∨ j = 8 ∨ j = 9 ∨ j = 10 ∨ j = 11 := by omega
    rcases this with rfl | rfl | rfl | rfl | rfl | rfl | rfl | rfl | rfl | rfl | rfl | rfl <;> decide
  · exact scratch0 (memB 0 0 .D) (8 * j) _ rfl rfl rfl rfl (by omega)
  all_goals decide

/-- A full match table. -/
def fullTable : State :=
  { ovl0 5 0 with eng := { (ovl0 5 0).eng with subs := (List.range 32).map (fun e => { sub0 true with id := e, entry := e, tag := e }) } }

/-- Frames below 8 are the supervisor's (R60). -/
def pinned8 (sup : Bool) : State :=
  let s := ovl0 0x8000 0x204
  { s with mem := { s.mem with pinf := [(0, 8)] }, th := { s.th with a := { s.th.a with sup := sup } } }

theorem test_meets_LayoutsAndSubscriptions_edges :
    (given0 (ovl0 0x8000 0x204) 9).th.answered = some 9 ∧ (9 : Word).toNat < 64 ∧ ¬ TagFree (allTags (fifo0 0)) ∧
    ((pinned8 true).th.a.sup = true ∧ (pinned8 false).th.a.sup = false ∧ 4 < Assoc.getD (pinned8 false).mem.pinf (pinned8 false).th.core 0) ∧
    ((∀ e, e < 32 → subAt fullTable (clusterOf fullTable.th.core) e ≠ none) ∧ TagFree fullTable ∧ fullTable.th.answered = none ∧ fullTable.th.status ≠ .vacant) ∧
    (∀ m ∈ (subbed btw0 (sub0 true)).eng.mcasts, m.id ≠ (sub0 true).id ∨ m.pos = 0) :=
  ⟨rfl, by decide, no_tag 0, by decide, ⟨by decide, ⟨0, by decide, by decide⟩, rfl, by decide⟩, fun m h => by cases h⟩

/-! ### Rings, tiles, views -/

/-- A ring of two entries. -/
def ring0 (g base : Nat) (e0 : EntrySt) : Ring := { cl := 0, ctx := 0, g := g, base := base, count := 2, head := 0, next := 0, ents := [e0, .free] }

/-- The thread as member 0 of a convened crew, with two granules of scratchpad, rings and tiles. -/
def matrix0 (rings : List Ring) (present : Bool) (fifo : List Command) : State :=
  let s := memB 0 0 .D
  { s with
    wk := { s.wk with allocs := [{ cl := 0, ctx := 0, size := 8, present := [(0, 0), (1, 1)], saved := [], due := [], asked := [], resident := true, outAt := 0 }] }
    eng := { s.eng with rings := rings, crews := [crew0], fifo := fifo
                        tiles := [{ cl := 0, crew := 0, acc := 2, fmt := .f, data := [], inv := 0, ovf := 0, sat := 0, present := present, named := 0, block := false }] }
    th := { s.th with crew := some (0, 0, 0), a := { s.th.a with n := [Reg.of 0x200000000, Reg.of win] ++ List.replicate 42 Reg.zero } } }

theorem test_meets_Rings : Between (matrix0 [] true []) ∧ NoView (matrix0 [] true []) ∧ Fits (matrix0 [] true []) [.n 0] .drop ∧
    (∃ al, allocOf (matrix0 [] true []) 0 0 = some al ∧ (let v := (opnd (matrix0 [] true []) (.n 0)).toNat
      v = 2 * 2 ^ 32 + 0 ∧ v / 2 ^ 32 = 2 ∧ v % 2 ^ 21 = 0 ∧ 0 % 4096 = 0 ∧ 0 + 2 * 4224 ≤ al.size * 0x4000)) ∧
    ringAt (matrix0 [] true []) 0 0 3 = none ∧ ringNamed (matrix0 [] true []) 0 0 3 = false ∧
    HasRing (matrix0 [ring0 3 0 .free] true []) 3 (ring0 3 0 .free) ∧ (ring0 3 0 .free).ents.getD 0 .reserved = .free ∧
    HasRing (matrix0 [ring0 3 0 .reserved] true []) 3 (ring0 3 0 .reserved) ∧ (ring0 3 0 .reserved).ents.getD 0 .reserved ≠ .free ∧
    (ring0 3 0 .reserved).ents.getD 0 .free = .reserved ∧ (ring0 3 0 .reserved).base + 0 * 4096 = (opnd (matrix0 [] true []) (.n 0)).toNat % 2 ^ 32 ∧
    HasRing (matrix0 [ring0 3 0 .filled] true []) 3 (ring0 3 0 .filled) ∧ (ring0 3 0 .filled).ents.getD 0 .free = .filled ∧
    (matrix0 [ring0 3 0 .filled] true []).eng.mma = [] ∧ Writable (matrix0 [] true []).th (.reg 5) := by
  refine ⟨rfl, rfl, fits_small _ _ _ rfl rfl rfl rfl rfl, ⟨_, rfl, by decide⟩, rfl, rfl, ⟨by decide, rfl, rfl, rfl⟩, rfl, ⟨by decide, rfl, rfl, rfl⟩, by decide, rfl,
    by decide, ⟨by decide, rfl, rfl, rfl⟩, rfl, rfl, ⟨by decide, by decide⟩⟩

/-- Both heads filled, and one not. -/
def filled0 : State := matrix0 [ring0 0 0 .filled, ring0 1 0x3000 .filled] true []
def unfilled0 : State := matrix0 [ring0 0 0 .free, ring0 1 0x3000 .filled] true []

theorem test_meets_Rings_mma : mmaOf (.mmaKeepa 0 1 2 (.b8 { p := 3, uns := false, fin := false })) =
      some (0, 1, 2, .b8 { p := 3, uns := false, fin := false }, .b8 { p := 3, uns := false, fin := false }, .rne, true, false) ∧
    Between filled0 ∧ NoView filled0 ∧ Issuer filled0 0 0 crew0 ∧ HasRing filled0 0 (ring0 0 0 .filled) ∧ HasRing filled0 1 (ring0 1 0x3000 .filled) ∧
    (tileAt filled0 0 0 2).fmt ≠ .d ∧ (tileAt filled0 0 0 2).fmt = .f ∧ ringReadable filled0 (ring0 0 0 .filled) = true ∧
    ringReadable filled0 (ring0 1 0x3000 .filled) = true ∧ filled0.eng.mma = [] ∧ (tileAt filled0 0 0 2).present = true ∧
    entryPoisoned filled0 (ring0 0 0 .filled) = false ∧ entryPoisoned filled0 (ring0 1 0x3000 .filled) = false ∧ Issuer unfilled0 0 0 crew0 ∧ HasRing unfilled0 0 (ring0 0 0 .free) ∧ ringReadable unfilled0 (ring0 0 0 .free) = false ∧
    mmaOf (.mma 4 4 2 (.ieee .f)) = some (4, 4, 2, .ieee .f, .ieee .f, .rne, false, false) := by
  refine ⟨rfl, rfl, rfl, ⟨rfl, by decide, rfl⟩, ⟨by decide, rfl, rfl, rfl⟩, ⟨by decide, rfl, rfl, rfl⟩, by decide, rfl, by decide, by decide, rfl, rfl,
    by decide, by decide, ⟨rfl, by decide, rfl⟩, ⟨by decide, rfl, rfl, rfl⟩, by decide, rfl⟩

theorem test_meets_Tiles : Between (matrix0 [] true []) ∧ NoView (matrix0 [] true []) ∧ Issuer (matrix0 [] true []) 0 0 crew0 ∧
    (tileAt (matrix0 [] true []) 0 0 2).present = true ∧ Fits (matrix0 [] true []) [.n 1] .drop ∧
    accTarget (tileAt (matrix0 [] true []) 0 0 2).fmt (.b8 { p := 3, uns := false, fin := false }) = true ∧
    (opnd (matrix0 [] true []) (.n 1)).toNat % 64 = 0 ∧
    areaOffset (matrix0 [] true []) (opnd (matrix0 [] true []) (.n 1)) (accCount .f * FFmt.bytes (.b8 { p := 3, uns := false, fin := false })) = some 0 ∧
    (∃ al, allocOf (matrix0 [] true []) 0 0 = some al ∧ 0 + accCount .d * accWidth .d ≤ al.size * 0x4000) ∧
    (∃ pas, linePas (accCount .f * 1 / 64) 0 (named (matrix0 [] true []) 0 0 2) = .ok pas (named (matrix0 [] true []) 0 0 2)) ∧
    areaOffset (matrix0 [] true []) (opnd (matrix0 [] true []) (.n 1)) (accCount .d * accWidth .d) = some 0 ∧
    (∃ pas, linePas (accCount .d * accWidth .d / 64) 0 (ready (matrix0 [] true [])) = .ok pas (ready (matrix0 [] true []))) ∧
    (matrix0 [] true []).mem.poisoned = [] ∧
    Writable (matrix0 [] true []).th (.reg 5) := by
  refine ⟨rfl, rfl, ⟨rfl, by decide, rfl⟩, rfl, fits_small _ _ _ rfl rfl rfl rfl rfl, rfl, by decide, by decide, ⟨_, rfl, by decide⟩, ⟨_, rfl⟩, by decide,
    ⟨_, rfl⟩, rfl, ⟨by decide, by decide⟩⟩

/-- An `mma` of half-precision entries into a tile of single precision, and one of binary8 with formats that differ. -/
theorem test_meets_Tiles_values : Rm.rne ≠ .dyn ∧ mmaClass (.ieee .h) = mmaClass (.ieee .h) ∧
    mmaClass (.b8 { p := 3, uns := false, fin := false }) = mmaClass (.b8 { p := 4, uns := true, fin := true }) ∧ (tileAt (matrix0 [] true []) 0 0 2).fmt = .f := by
  decide

/-- n0 rivals wanted of a thread of partition 0, whose save area has room (R445). -/
def forking0 (n : Word) : State := part0 (between 0 n 0 0) 1

theorem quiet_fork (n : Word) : Quiet (forking0 n) :=
  quiet_of _ rfl rfl rfl rfl

theorem test_meets_Forks : Between (forking0 16) ∧ NoView (forking0 16) ∧ Fits (forking0 16) [.n 0] (.reg 5) ∧
    (opnd (forking0 1) (.n 0)).toNat < 2 ∧ 16 < (opnd (forking0 17) (.n 0)).toNat ∧
    (2 ≤ (opnd (forking0 16) (.n 0)).toNat ∧ (opnd (forking0 16) (.n 0)).toNat ≤ 16 ∧ 16 ≤ (freeViews (forking0 16)).length ∧
      (rivalBlocks (forking0 16) (forking0 16).th.part 16).isSome = true) ∧
    Quiet (forking0 16) ∧ NoReplay (forking0 16) ∧ (forking0 16).th.chunk.dirty = [] ∧ heldForChoice (forking0 16) 1 = none := by
  refine ⟨rfl, rfl, fits_small _ _ _ rfl rfl rfl rfl rfl, by decide, by decide, ⟨by decide, by decide, ?_, by decide⟩, quiet_fork 16, rfl, rfl, rfl⟩
  have : freeViews (forking0 16) = List.range 1024 := by
    simp [freeViews, forking0, part0, between, running, State.reset, ViewSt.empty]
  rw [this]; decide

/-- A rival of a fork of two, its sibling alive. -/
def fork0 (choice : Option (Nat × Nat)) : Fork :=
  { id := 4, parent := 8, parentChain := [], defer := false, rivals := [(0, 1, 9, true), (1, 2, 10, true)], closed := false, choice := choice, part := 0 }

def forked (s : State) : State :=
  { s with th := { s.th with chain := [9], fork := some 4, world := 0x1000 }, vw := { s.vw with forks := [fork0 none], tags := [9, 10] } }

theorem test_meets_ChoosesAndAbandons : Between (forked (between 0 1 0 0)) ∧ Fits (forked (between 0 1 0 0)) [.n 0] .drop ∧
    (forked (between 0 1 0 0)).th.answered = none ∧ (forked (between 0 1 0 0)).th.chain ≠ [] ∧ (opnd (forked (between 0 1 0 0)) (.n 0)).toNat = 1 ∧
    1 < (forked (between 0 1 0 0)).th.world.bits 15 12 + 1 ∧ (forked (between 0 1 0 0)).th.fork.bind (forkAt (forked (between 0 1 0 0))) = some (fork0 none) ∧
    (fork0 none).closed = false ∧ (fork0 none).rival 1 = some (2, 10) ∧ (fork0 none).parentChain = [] ∧
    (given0 (forked (between 0 1 0 0)) 0).th.answered.isSome = true ∧ NoView btw0 ∧ Writable run0.th (.reg 5) ∧ run0.th.chunk.before + run0.th.chunk.count < 511 ∧
    NoReplay (forked btw0) ∧ (forked btw0).th.chunk.dirty = [] ∧ (forked btw0).th.fork = some 4 ∧ (forked btw0).vw.forks = [fork0 none] ∧
    (∀ t ∈ (forked btw0).rest ++ (forked btw0).wk.saved, t.uid ≠ 1) ∧ heldForChoice (forked btw0) 1 = none ∧
    ∃ r ∈ (fork0 none).rivals, r.2.1 ≠ 1 ∧ r.2.2.2 = true := by
  refine ⟨rfl, fits_small _ _ _ rfl rfl rfl rfl rfl, rfl, by decide, by decide, by decide, by decide, rfl, by decide, rfl, rfl, rfl, ⟨by decide, by decide⟩, by decide,
    rfl, rfl, rfl, rfl, ?_, by decide, (1, 2, 10, true), by decide, by decide, rfl⟩
  intro t h; cases h

/-- The same once the sibling has registered the choice of the rival. -/
def chose : State := { forked (between 0 1 0 0) with vw := { (forked (between 0 1 0 0)).vw with forks := [{ fork0 (some (2, 0)) with closed := true }] } }

theorem test_meets_ChoosesAndAbandons_held : Between chose ∧ Fits chose [.n 0] .drop ∧ heldForChoice chose chose.th.uid = some 4 :=
  ⟨rfl, fits_small _ _ _ rfl rfl rfl rfl rfl, by decide⟩

/-! ### Steps of the other agents -/

/-- The line that the witnesses use, its home, and a directory entry of it. -/
def lineA : Nat := 0x200040
def homeA : Nat := homeOf lineA
def dirA (st : DirState) (busy : Option Held) : DirEnt :=
  { DirEnt.fresh lineA with st := st, busy := busy, ptrs := [0], before := [0], pend := 1, due := [0] }

/-- A chunk that has written one byte of the line, in a phase. -/
def chunkA (ph : Phase) : Chunk :=
  { (Chunk.fresh run0.th.a) with count := 1, writes := [(lineA, 1)], phase := ph, key := 5, asked := [homeA], reported := [homeA] }

def reqA (granted confirmed : Bool) : CommitReq :=
  { home := homeA, uid := 1, stamp := 5, core := 0, lines := [lineA], reads := [], writes := [lineA], view := none, pinned := false,
    granted := granted, confirmed := confirmed }

/-- The thread with that chunk, requests, directory entries and L1 lines. -/
def commitA (ph : Phase) (reqs : List CommitReq) (dir : List DirEnt) (l1 : List L1Line) : State :=
  { run0 with th := { run0.th with chunk := chunkA ph }, coh := { run0.coh with reqs := reqs, dir := dir, l1 := l1 } }

/-- The thread, pinned, or waiting for its partition's pin token. -/
def pinA (s : State) : State := { s with th := { s.th with pinned := true } }
def tokenA : State := { run0 with th := { run0.th with status := .waiting .pin }, coh := { run0.coh with pinQueue := [(0, 1)] } }

theorem home_single (home : Nat) (h : home ∈ [homeA]) : home = homeA := by simpa using h

theorem unasked_of (s : State) (uid : Nat) (h : s.coh.dir.all (fun d => d.busy.all (fun b => match b with
    | .asks .. => false
    | _ => true)) = true) : Unasked s uid := by
  intro d hd i hb
  have := List.all_eq_true.1 h d hd
  rw [hb] at this; cases this

/-- The die of the home fenced, and the cluster of the thread. -/
def deadA (s : State) : State := { s with coh := { s.coh with fencedDie := [homeDie lineA] } }
def fencedA (s : State) : State := { s with coh := { s.coh with fencedCl := [0] } }

theorem test_meets_CommitSteps_fences :
    (∀ s ∈ [commitA .requesting [] [] [], commitA .requesting [] [dirA .FW (some (.read 3 .D 0))] [], commitA .requesting [reqA true false] [] [],
        commitA .committing [reqA true false] [] [], commitA .committing [reqA true false] [dirA .S none] []],
      deadHome s homeA = false ∧ clusterOf s.th.core ∉ s.coh.fencedCl ∧ Unasked s 1) ∧
    (freshAnswer (commitA .requesting [reqA true false] [] []) 0 1 = false ∧ reqAt (commitA .requesting [reqA true false] [] []) homeA 1 = some (reqA true false)) ∧
    (deadHome (deadA (commitA .requesting [] [] [])) homeA = true ∧ Unasked (deadA (commitA .requesting [] [] [])) 1) ∧
    (0 ∈ (fencedA (commitA .requesting [] [] [])).coh.fencedCl ∧ ∀ i, Held.asks 1 i ∉ (dirA .FW (some (.read 3 .D 0))).queue) ∧
    (∀ n ∈ [1, 2], deadHome (commitA .committing [reqA true true] [{ dirA .IA (some (.commit 1)) with pend := n }] []) (homeOf lineA) = false) ∧
    (∀ ps ∈ [[0], []], deadHome (commitA .running [] [{ dirA .RC (some .replace) with ptrs := ps }] []) (homeOf lineA) = false) ∧
    clusterOf (commitA .committing [reqA true true] [] [line0 .D]).th.core ∉ (commitA .committing [reqA true true] [] [line0 .D]).coh.fencedCl := by
  refine ⟨?_, by decide, ⟨by decide, unasked_of _ _ rfl⟩, ⟨by decide, fun i h => by cases h⟩, by decide, by decide, by decide⟩
  intro s hs
  refine ⟨?_, ?_, unasked_of _ _ ?_⟩ <;>
    (simp only [List.mem_cons, List.not_mem_nil, or_false] at hs; rcases hs with rfl | rfl | rfl | rfl | rfl <;> decide)

theorem test_meets_CommitSteps_requests :
    (wrote0.th.status = .running ∧ wrote0.th.chunk.phase = .running ∧ wrote0.th.boundary = false ∧ 0 < wrote0.th.chunk.count ∧
      wrote0.th.chunk.writes ≠ [] ∧ wrote0.th.chunk.dirty = [] ∧ poisonedRead wrote0 wrote0.th.chunk = false) ∧
    (∀ s ∈ [commitA .requesting [] [] [], commitA .requesting [] [dirA .FW (some (.read 3 .D 0))] []],
      s.th.chunk.phase = .requesting ∧ homeA ∈ s.th.chunk.asked ∧ (∀ x ∈ s.coh.reqs, x.home ≠ homeA) ∧ clusterOf s.th.core ∉ s.coh.fencedCl ∧
      (∀ w ∈ s.th.chunk.writes, stampOf s (lineOf w.1) < s.th.chunk.key ∧ (dirOf s (lineOf w.1)).st ≠ .O) ∧
      s.th.chunk.lines = [lineA] ∧ homeOf lineA = homeA ∧ s.th.chain = [] ∧ Held.commit s.th.uid ∉ (dirOf s lineA).queue) ∧
    (∀ w ∈ (commitA .requesting [] [] []).th.chunk.writes, lineBusy (commitA .requesting [] [] []) (lineOf w.1) = false) ∧
    lineBusy (commitA .requesting [] [dirA .FW (some (.read 3 .D 0))] []) lineA = true := by decide

theorem test_meets_CommitSteps_grants :
    (reqAt (commitA .requesting [reqA true false] [] []) homeA 1 = some (reqA true false) ∧ (reqA true false).granted = true ∧
      LastGrant (commitA .requesting [reqA true false] [] []) homeA) ∧
    (∀ s ∈ [commitA .committing [reqA true false] [] [], commitA .committing [reqA true false] [dirA .S none] []],
      s.th.chunk.phase = .committing ∧ reqAt s homeA 1 = some (reqA true false) ∧ (reqA true false).confirmed = false ∧ (reqA true false).view = none ∧
      (reqA true false).lines = [lineA] ∧ s.rest = [] ∧ lineBusy s lineA = false ∧ sliceRoom s lineA = true) ∧
    (dirOf (commitA .committing [reqA true false] [] []) lineA).st = .I ∧
    Sharers (commitA .committing [reqA true false] [dirA .S none] []) (dirOf (commitA .committing [reqA true false] [dirA .S none] []) lineA) ∧
    (tokenA.coh.pinQueue.find? (fun x => x.1 = 0) = some (0, 1) ∧ (∀ h ∈ tokenA.coh.pinHolder, h.1 ≠ 0) ∧ tokenA.th.status = .waiting .pin) := by
  refine ⟨⟨by decide, by decide, fun h hh => .inl (home_single h hh)⟩, by decide, by decide, ⟨by decide, by decide, by decide, by decide⟩, by decide⟩

theorem test_meets_CommitSteps_answers :
    (clusterOf 0 ∉ (memR 0 0 .D).coh.fencedCl ∧ Untouched (memR 0 0 .D) 0 lineA ∧ l1Get (memR 0 0 .D) 0 lineA = some (line0 .D) ∧ (line0 .D).cls = .D) ∧
    ((pinA (commitA .running [] [] [])).th.chunk.touches lineA = true ∧ (pinA (commitA .running [] [] [])).th.pinned = true ∧
      clusterOf (pinA (commitA .running [] [] [])).th.core ∉ (pinA (commitA .running [] [] [])).coh.fencedCl ∧ (pinA (commitA .running [] [] [])).th.uid ≠ 0) ∧
    (freshAnswer run0 (clusterOf 0) 1 = false) ∧
    (∀ n ∈ [1, 2], let s := commitA .committing [reqA true true] [{ dirA .IA (some (.commit 1)) with pend := n }] []
      freshAnswer s (clusterOf 0) 0 = true ∧ 0 ∈ (dirOf s lineA).due ∧ (dirOf s lineA).st = .IA ∧ (dirOf s lineA).busy = some (.commit s.th.uid) ∧
        (dirOf s lineA).pend = n ∧ ∀ e ∈ s.coh.dir, e.queue = []) ∧
    (∀ ps ∈ [[0], []], let s := commitA .running [] [{ dirA .RC (some .replace) with ptrs := ps }] []
      freshAnswer s (clusterOf 0) 0 = true ∧ 0 ∈ (dirOf s lineA).due ∧ (dirOf s lineA).st = .RC ∧ (dirOf s lineA).busy = some .replace ∧
        (dirOf s lineA).queue = []) := by
  refine ⟨⟨by decide, ?_, by decide, by decide⟩, by decide, by decide, by decide, by decide⟩
  intro t ht _
  have : t = (memR 0 0 .D).th := List.mem_singleton.1 ht
  subst this; decide

theorem test_meets_CommitSteps :
    let s := commitA .committing [reqA true true] [] [line0 .D]
    s.th.chunk.phase = .committing ∧ (∀ h ∈ s.th.chunk.asked, h ∈ s.th.chunk.reported) ∧ s.th.chain = [] ∧ s.rest = [] ∧ NoReplay s ∧
      s.th.pendTrap = none ∧ s.th.chunk.writes = [(lineA, 1)] ∧ s.th.chunk.gwrites = [] ∧ s.th.chunk.wstores = [] ∧ s.th.chunk.wbs = [] ∧
      s.th.chunk.rel = false ∧ s.th.chunk.dirty = [] ∧ s.th.chunk.sub = false ∧ (∀ x ∈ s.coh.reqs, x.uid = s.th.uid) ∧ (∀ e ∈ s.coh.dir, e.queue = []) ∧
      (∀ l, l1Get s s.th.core (lineOf lineA) = some l → l.data.length = 64) ∧ (homeLine s (lineOf lineA)).length = 64 := by
  refine ⟨rfl, by decide, rfl, rfl, rfl, rfl, rfl, rfl, rfl, rfl, rfl, rfl, rfl, by decide, by decide, ?_, by decide⟩
  intro l hl
  have h : l1Get (commitA .committing [reqA true true] [] [line0 .D]) 0 (lineOf lineA) = some (line0 .D) := by decide
  have : l = line0 .D := (Option.some.inj (h.symm.trans hl)).symm
  subst this; decide

/-- A directory entry for each state of the line, with the L1 line of core 0 or not. -/
def homeS (d : Option DirEnt) (l1 : List L1Line) : State := { run0 with coh := { run0.coh with dir := d.toList, l1 := l1 } }

theorem untouched0 (d : Option DirEnt) (l1 : List L1Line) (core line : Nat) : Untouched (homeS d l1) core line := by
  intro t ht _
  have : t = (homeS d l1).th := List.mem_singleton.1 ht
  subst this; rfl

/-- Its busy states: a read of core 3 forwarded, its owner's write-back come, a write or a replacement that recalls the owner. -/
def readA : Held := .read 3 .D 0
def writeA : Held := .write (lineData lineA [some 9]) 4096 0
def recallA (h : Held) : DirEnt := { dirA .RC (some h) with ptrs := [] }

theorem test_meets_HomeSteps_reads :
    freshAnswer run0 (clusterOf 0) 0 = true ∧ freshAnswer run0 (clusterOf 0) 1 = false ∧
    (lineBusy (homeS none []) lineA = false ∧ (dirOf (homeS none []) lineA).st ≠ .O ∧ L1Room (homeS none []) 0 ∧ l1Get (homeS none []) 0 lineA = none) ∧
    (lineBusy (homeS none [line0 .G]) lineA = false ∧ (dirOf (homeS none [line0 .G]) lineA).st ≠ .O ∧ l1Get (homeS none [line0 .G]) 0 lineA = some (line0 .G) ∧
      (line0 .G).cls = .G) ∧
    (lineBusy (homeS (some (dirA .O none)) []) lineA = false ∧ (dirOf (homeS (some (dirA .O none)) []) lineA).st = .O) ∧
    lineBusy (homeS (some (dirA .FW (some readA))) []) lineA = true ∧
    (∀ st ∈ [DirState.FW, .WP], (dirOf (homeS (some (dirA st (some readA))) [line0 .D]) lineA).st = st ∧
      clusterOf (dirA st (some readA)).owner ∉ run0.coh.fencedCl ∧
      l1Get (homeS (some (dirA st (some readA))) [line0 .D]) (dirA st (some readA)).owner lineA = some (line0 .D) ∧
      l1Get (homeS (some (dirA st (some readA))) []) (dirA st (some readA)).owner lineA = none) := by
  refine ⟨by decide, by decide, ⟨by decide, by decide, show List.length _ < _ from by decide, by decide⟩, by decide, by decide, by decide, by decide⟩

theorem test_meets_HomeSteps_answers :
    (freshAnswer run0 0 0 = true ∧ (dirA .FW (some readA)).inc = 0 ∧ (dirA .FW (some readA)).queue = [] ∧
      (dirOf (homeS (some (dirA .FW (some readA))) []) lineA).busy = some (.read 3 .D 0) ∧ L1Room (homeS (some (dirA .FW (some readA))) []) 3) ∧
    (Recalled (dirOf (homeS (some (recallA writeA)) []) lineA) ∧ (recallA writeA).busy = some (.write (lineData lineA [some 9]) 4096 0) ∧
      agentFresh (homeS (some (recallA writeA)) []) 4096 0 = true) ∧
    (Recalled (dirOf (homeS (some (recallA .replace)) []) lineA) ∧ (recallA .replace).busy = some .replace) ∧
    (freshAnswer run0 0 1 = false ∧ (dirOf (homeS (some (dirA .FW (some readA))) []) lineA).st.transient = true ∧ (dirA .FW (some readA)).inc ≠ 1) ∧
    (let d := { dirA .WP (some readA) with gotWb := true }
     (dirOf (homeS (some d) []) lineA).st = .WP ∧ d.gotWb = true ∧ d.queue = [] ∧ d.busy = some (.read 3 .D 0) ∧
       freshAnswer (homeS (some d) []) (clusterOf 3) 0 = true) ∧
    ((dirOf (homeS (some (dirA .O none)) []) lineA).st = .O ∧ (dirA .O none).owner = 0 ∧ (dirA .O none).queue = []) ∧
    WritableLine (homeS none []) lineA ∧ lineOf lineA = lineA := by
  refine ⟨⟨by decide, by decide, by decide, by decide, show List.length _ < _ from by decide⟩, ⟨⟨by decide, by decide, by decide⟩, rfl, by decide⟩,
    ⟨⟨by decide, by decide, by decide⟩, rfl⟩, by decide, by decide, by decide, ⟨by decide, by decide⟩, by decide⟩

theorem test_meets_HomeSteps_replacements :
    (l1Get (homeS (some (dirA .O none)) [{ line0 .D with dirty := 1 }]) 0 lineA = some { line0 .D with dirty := 1 } ∧
      speculative (homeS (some (dirA .O none)) [{ line0 .D with dirty := 1 }]) 0 lineA = false ∧
      (dirOf (homeS (some (dirA .O none)) [{ line0 .D with dirty := 1 }]) lineA).owner = 0) ∧
    (l1Get (homeS none [{ line0 .G with dirty := 1 }]) 0 lineA = some { line0 .G with dirty := 1 } ∧
      speculative (homeS none [{ line0 .G with dirty := 1 }]) 0 lineA = false ∧ isLocal (homeS none [{ line0 .G with dirty := 1 }]) lineA = true) ∧
    ((line0 .D).dirty = 0 ∧ speculative (homeS none [line0 .D]) 0 lineA = false) ∧
    (∀ st ∈ [DirState.I, .O, .S], let s := homeS (some (dirA st none)) []
      lineBusy s lineA = false ∧ touching s lineA 0 = [] ∧ (dirOf s lineA).st = st ∧ (dirOf s lineA).queue = []) ∧
    Sharers (homeS (some (dirA .S none)) []) (dirOf (homeS (some (dirA .S none)) []) lineA) ∧
    (Recalled (dirOf (homeS (some (recallA writeA)) [line0 .D]) lineA) ∧ clusterOf (recallA writeA).owner ∉ run0.coh.fencedCl ∧
      Untouched (homeS (some (recallA writeA)) [line0 .D]) (recallA writeA).owner lineA ∧
      l1Get (homeS (some (recallA writeA)) [line0 .D]) (recallA writeA).owner lineA = some (line0 .D)) := by
  refine ⟨by decide, by decide, by decide, by decide, ⟨by decide, by decide, by decide, by decide⟩, ⟨⟨by decide, by decide, by decide⟩, by decide, untouched0 _ _ _ _, by decide⟩⟩

/-- A store posted to device 1, to which the partition has a route; the partition replays or not. -/
def posted0 (rep : List Nat) : State :=
  { part0 run0 1 with
    sys := { (part0 run0 1).sys with ctl := (0xc00, 0x8100) :: (part0 run0 1).sys.ctl }
    coh := { run0.coh with posted := [{ part := 0, upTo := 0, lnum := 0, index := 0, va := 0x10040, uid := 1, dev := 1, pa := 2 ^ 42 + lineA, data := [some 1],
                                        core := 0, lc := 0, inc := 0, back := false, pc := 0x1000, desc := 0 }] }
    rep := { run0.rep with replayParts := rep } }

/-- The thread waits for the line in a state of it. -/
def turnA (d : Option DirEnt) : State := { homeS d [] with th := { run0.th with status := .waiting (.memory lineA) } }

theorem test_meets_HomeSteps :
    (agentFresh run0 4096 0 = true ∧ sliceRoom (homeS none []) lineA = true ∧ WritableLine (homeS none []) lineA ∧
      (lineData lineA [some 9]).any Option.isSome = true) ∧
    (∀ st ∈ [DirState.O, .S], let s := homeS (some (dirA st none)) []
      sliceRoom s lineA = true ∧ mustHold s lineA writeA = false ∧ (dirOf s lineA).st = st) ∧
    mustHold (homeS (some (dirA .FW (some readA))) []) lineA writeA = true ∧
    (freshAnswer run0 (clusterOf 0) 0 = true ∧ anyThread (homeS none []) 77 = none) ∧
    (∀ st ∈ [DirState.I, .O], let s := turnA (some (dirA st none))
      s.th.status = .waiting (.memory (lineOf lineA)) ∧ mustHold s lineA (.turn 1 0 lineA (.write [some 1]) 0) = false ∧ mustHold s lineA (.turn 1 0 lineA (.read 8) 0) = false ∧
        (dirOf s lineA).st = st) ∧
    mustHold (turnA (some (dirA .FW (some readA)))) lineA (.turn 1 0 lineA (.write [some 1]) 0) = true ∧
    (∃ p, (posted0 []).coh.posted.find? (fun x => x.dev = 1) = some p ∧ replayPart (posted0 []) p.part = false ∧ routeLive (posted0 []) p.part 1 = true ∧
      ackedTo (posted0 []) p.part p.upTo = true ∧ replayPart (posted0 [0]) p.part = true) := by
  refine ⟨⟨by decide, by decide, ⟨by decide, by decide⟩, by decide⟩, by decide, by decide, by decide, by decide, by decide, ⟨_, rfl, by decide⟩⟩

/-- The line reserved for the access of a thread that is gone; a dirty guarded line whose home is busy. -/
def orphanA : State := homeS (some { dirA .I (some (.turn 77 0 lineA (.write [some 1]) 0)) with ptrs := [], before := [] }) []
def busyG : State := homeS (some (dirA .FW (some readA))) [{ line0 .G with dirty := 1 }]

/-- A store posted by a core that has been restarted since. -/
def stalePosted : State := { posted0 [] with coh := { (posted0 []).coh with inc := [(0, 3)] } }

theorem test_meets_HomeSteps_agents :
    (∀ x, l1Get (homeS none []) 0 lineA = some x → x.cls ≠ .G) ∧ (dirOf (homeS none [line0 .G]) lineA).queue = [] ∧
    (∀ s ∈ [homeS none [], homeS (some (recallA writeA)) [], homeS (some (dirA .O none)) [], homeS none [{ line0 .G with dirty := 1 }], busyG],
      (∀ agent ∈ [4096, coreAgent 0], dtsOf s agent lineA = []) ∧ agentRoom s (coreAgent 0) = true ∧ entryFree s (clusterOf 0) 0 = true ∧
        deadHome s (homeOf lineA) = false ∧ isLocal s lineA = true) ∧
    (∀ s ∈ [homeS (some (dirA .O none)) [{ line0 .D with dirty := 1 }], homeS none [{ line0 .G with dirty := 1 }], busyG],
      ∀ l ∈ s.coh.l1, l1Get s 0 lineA = some l ∧ l1Bound s l = false ∧ l.dirty ≠ 0 ∧ l.dirty &&& fullMask ≠ 0) ∧
    (lineBusy busyG lineA = true ∧ writeSent busyG lineA (coreAgent 0) (incOf busyG (clusterOf 0)) = false ∧ l1Bound (homeS none [line0 .D]) (line0 .D) = false) ∧
    (anyThread orphanA 77 = none ∧ turnOf orphanA 77 (lineOf lineA) = true ∧ (dirOf orphanA (lineOf lineA)).queue = [] ∧ freshAnswer orphanA (clusterOf 0) 0 = true) ∧
    (anyThread (homeS none []) 77 = none ∧ turnOf (homeS none []) 77 (lineOf lineA) = false ∧ sliceRoom (turnA (some (dirA .O none))) (lineOf lineA) = true) ∧
    (isLocal (homeS none []) (2 ^ 42 + lineA) = false ∧ freshAnswer (posted0 []) (clusterOf 0) 0 = true ∧ freshAnswer stalePosted (clusterOf 0) 0 = false ∧
      replayPart stalePosted 0 = false) := by
  refine ⟨fun x hx => ?_, ?_, ?_, ?_, ?_, ?_, ?_, ?_⟩
  · rw [show l1Get (homeS none []) 0 lineA = none from rfl] at hx; cases hx
  all_goals decide

/-- A message in the network. -/
def mesg0 : Mesg :=
  { cl := 0, inc := 0, srcDev := 0, src := 0, dev := 0, core := 0, box := 2, ctx := 0, data := [1], rel := false, scope := .cl, stamp := 1, uid := 1, upTo := 0 }

/-- A thread that waits or not, one in the sequencer's queue; that message in the network; a fenced cluster and a fenced die. -/
def upkeep (w : Option Wait) (d : Option DirEnt) : State :=
  { run0 with th := { run0.th with status := w.elim .running .waiting }
              sys := { run0.sys with ticketQueue := [1, 5] }
              coh := { run0.coh with dir := d.toList, fencedCl := [70], fencedDie := [2], net := [mesg0] } }

/-- The page of 0x10040 in tables whose last node the walk caches hold, with a leaf of class D in it or no valid entry; its line's entry. -/
def walkA (leaf : Nat) (d : Option DirEnt) : State :=
  { part0 run0 1 with
    mem := { run0.mem with cells := ((leBytes 16 leaf).zipIdx.map (fun e => (0x300100 + e.2, e.1))).filter (fun e => e.2 ≠ 0)
                           wcache := [{ die := 0, ctx := 0, lvl := 1, base := 0, node := 0x300000 }] }
    coh := { run0.coh with dir := d.toList } }

def leafA : Nat := leaf0 0 0 + 0x200000
def whoA (s : State) : Who := whoWalks s 0 0 none 0 true

/-- All 32 walkers of die 0 at work. -/
def walkersA : State := { walkA leafA none with agenda := (List.range 32).map (fun k => .pageWalk (k + 1) none 0 0x10040 .read true 0) }

/-- Whether a walk ends as given: at a leaf, in a fault, at a held line. -/
def endsAt (w : WalkEnd) (k : Nat) : Bool :=
  match w with
  | .leaf .. => k == 0
  | .fault .. => k == 1
  | .held _ => k == 2

theorem unwalked0 (leaf : Nat) (d : Option DirEnt) (h : d.all (fun d => d.busy.all (fun h => !Held.isWalk 0 0 0x10040 h)) = true) :
    Unwalked (walkA leaf d) 0 0 0x10040 := by
  intro x hx b hb
  cases d with
  | none => cases hx
  | some y => obtain rfl : x = y := List.mem_singleton.1 hx; simpa [hb] using h

/-- Its line forwarded for another, and owned by a core. -/
def dirW (st : DirState) (busy : Option Held) : DirEnt := { dirA st busy with line := 0x300100 }

theorem test_meets_UpkeepSteps_walks :
    ((List.range 20).find? (fun q => inPart run0 q 0) = none ∧ freshAnswer run0 0 0 = true ∧ freshAnswer run0 0 1 = false) ∧
    (Unwalked (walkA leafA none) 0 0 0x10040 ∧ Unwalked (walkA 0 none) 0 0 0x10040 ∧ Unwalked walkersA 0 0 0x10040 ∧
      Unwalked (walkA leafA (some (dirW .FW (some readA)))) 0 0 0x10040 ∧ Unwalked (walkA leafA (some (dirW .O none))) 0 0 0x10040) ∧
    (∀ e ∈ [(walkA leafA none, 0), (walkA 0 none, 1), (walkA leafA (some (dirW .FW (some readA))), 2), (walkA leafA (some (dirW .O none)), 2), (walkersA, 0)],
      (List.range 20).find? (fun q => inPart e.1 q 0) = some 0 ∧ canonical e.1 0 0x10040 = true ∧ isWindow 0x10040 = false ∧
        freshAnswer e.1 0 0 = true ∧ l1TlbFind e.1 (whoA e.1) 0x10040 = none ∧ tlbFind e.1 (whoA e.1) 0x10040 = none ∧
        walkPending e.1 (whoA e.1) 0x10040 = false ∧
        endsAt (walk e.1 (whoA e.1) 0x10040 (walkStart e.1 (whoA e.1) 0x10040).1 (walkStart e.1 (whoA e.1) 0x10040).2 []) e.2 = true) ∧
    (walkerFree walkersA 0 = false ∧ walkerFree (walkA leafA none) 0 = true ∧ walkerFree (walkA 0 none) 0 = true ∧
      (∀ d ∈ [dirW .FW (some readA), dirW .O none], walkerFree (walkA leafA (some d)) 0 = true ∧ sliceRoom (walkA leafA (some d)) 0x300100 = true) ∧
      lineBusy (walkA leafA (some (dirW .FW (some readA)))) 0x300100 = true ∧ lineBusy (walkA leafA (some (dirW .O none))) 0x300100 = false ∧
      (dirOf (walkA leafA (some (dirW .O none))) 0x300100).st = .O) ∧
    leafBars (walkA leafA none) (whoA (walkA leafA none)) false .read leafA (replicaFrame (walkA leafA none) 0 leafA) = none ∧
    leafBars (walkA leafA none) (whoA (walkA leafA none)) false .exec leafA (replicaFrame (walkA leafA none) 0 leafA) = some 7 ∧
    canonical (walkA leafA none) 0 (2 ^ 57) = false ∧ isWindow win.toNat = true := by
  refine ⟨by decide, ⟨unwalked0 _ _ (by decide), unwalked0 _ _ (by decide), (fun d h => by cases h), unwalked0 _ _ (by decide), unwalked0 _ _ (by decide)⟩,
    ?_, ?_, ?_, ?_, ?_, ?_⟩ <;> decide

/-- Which devices a domain has is open (`Config.inDomain`), so the device that is elected cannot be shown; on a machine whose own device is
fenced, device 0 is not. -/
theorem test_meets_UpkeepSteps :
    (upkeep (some (.mwait lineA)) none).th.status = .waiting (.mwait lineA) ∧ anyThread (upkeep none none) 77 = none ∧
    ((upkeep (some .ticket) none).sys.ticketQueue.head? = some 1 ∧ (upkeep (some .ticket) none).th.status = .waiting .ticket ∧
      (upkeep (some .ticket) none).th.answered = none ∧ Event.checkpoint 0 ∉ (upkeep (some .ticket) none).agenda) ∧
    ((upkeep none none).sys.ticketQueue.head? ≠ some 5 ∧ 5 ∈ (upkeep none none).sys.ticketQueue) ∧
    (Config.inDomain 0 = true → electedDev run0 = some 0) ∧
    electedDev { run0 with sys := { run0.sys with fencedDev := [0] } } ≠ some 0 ∧
    (region (paLocal lineA) = .hbm 0 ∧ region (paLocal 0x10000000000) = .weight 0 ∧ region (paLocal 0x20000000000) = .scratch 0) ∧
    ((∀ e ∈ run0.sys.wsOpen, e.1 ≠ 3) ∧ Assoc.get run0.sys.wsLast 3 = none ∧
      Assoc.get ({ run0.sys with wsLast := [(3, 63)], wsOpen := [(3, 63)] }).wsLast 3 = some 63 ∧ 0 = (63 + 1) % 64 ∧ 5 ≠ (63 + 1) % 64 ∧
      ∃ e ∈ ({ run0.sys with wsLast := [(3, 63)], wsOpen := [(3, 63)] }).wsOpen, e.1 = 3) := by
  refine ⟨rfl, by decide, by decide, by decide, ?_, ?_, by decide, by decide⟩
  · intro h
    have hl : deviceLive run0 0 = true := by rw [deviceLive, h]; rfl
    rw [electedDev, List.range_eq_range', show (1024 : Nat) = 1023 + 1 from rfl, List.range'_succ, List.find?_cons]
    simp [hl]
  · intro h
    have := List.find?_some h
    simp [deviceLive] at this

theorem test_meets_UpkeepSteps_fences :
    ((dirOf (upkeep none (some (dirA .FW none))) lineA).st.transient = true ∧
      (dirOf (upkeep none (some { dirA .FW none with resent := true })) lineA).resent = true ∧ (dirOf (upkeep none none) lineA).st.transient = false) ∧
    (∀ s ∈ [upkeep none none, upkeep none (some (dirA .O none))],
      5 ∉ s.coh.fencedCl ∧ 3 ∉ s.coh.fencedDie ∧ ∀ e ∈ s.coh.dir, e.queue = []) ∧
    ((dirOf (upkeep none (some (dirA .O none))) lineA).st = .O ∧ clusterOf (dirOf (upkeep none (some (dirA .O none))) lineA).owner = 0) ∧
    ((upkeep none none).coh.net[0]? = some mesg0 ∧ (upkeep none none).coh.net[1]? = none) ∧
    (70 ∈ (upkeep none none).coh.fencedCl ∧ dieOf 70 ∉ (upkeep none none).coh.fencedDie ∧ 2 ∈ (upkeep none none).coh.fencedDie) ∧
    inPart (part0 run0 1) 0 0 = true ∧ dieInPart (part0 run0 1) 0 3 = true := by
  refine ⟨by decide, by decide, by decide, ⟨rfl, rfl⟩, by decide, by decide, by decide⟩

/-- A layout record of raw bytes at an address: one dimension of extent 4, one element in the window, DECKLE 5 (R163). -/
def lay (va : Nat) : Nat := va + 2 ^ 57 + 4 * 2 ^ 128 + 2 ^ 160 + 2 ^ 200 + 5 * 2 ^ 688

def layC (va : Nat) : LayoutCopy := { idx := 0, word := lay va, ctx := some 0 }

/-- Window addresses 0, 0x40 and 0x80. -/
def w0 : Nat := 0x1fe000000000000
def w1 : Nat := 0x1fe000000000040
def w2 : Nat := 0x1fe000000000080

/-- The engine of cluster 0 with a command in its FIFO, and bytes in the scratchpad. -/
def engA (c : Command) (cells : List Host.Cell) (subs : List Sub) : State :=
  { memB 0 0 .D with eng := { (memB 0 0 .D).eng with fifo := [c], subs := subs }, mem := { (memB 0 0 .D).mem with cells := cells } }

def copyA : Command := cmd0 (2 ^ 248) (some (layC w0)) (some (layC w1))
def gatherA : Command := cmd0 (2 * 2 ^ 248 + w2) (some (layC w0)) (some (layC w1))
def fillA : Command := cmd0 (3 * 2 ^ 248) none (some (layC w1))
def readqA : Command := cmd0 (4 * 2 ^ 248 + w2) none none
def mcastA : Command := cmd0 (5 * 2 ^ 248 + 3) (some (layC w0)) none
def markA : Command := cmd0 (6 * 2 ^ 248) none none
def ovldA : Command := { cmd0 (7 * 2 ^ 248 + w0) none none with ovld := true }

theorem startable0 (c : Command) (cells : List Host.Cell) (subs : List Sub) (h1 : fifoHead (engA c cells subs) c.core = some c)
    (h2 : nextCore (engA c cells subs) c.cl = some c.core) (h3 : startCheck (started (engA c cells subs) c) c = none)
    (h4 : rootBad (started (engA c cells subs) c) c = false) (h5 : cwSeq c.word = false) (h6 : engStopped (engA c cells subs) c.cl = false)
    (h7 : c.pos = 0) (h8 : c.slab = none) (h9 : c.buf = []) : Startable (engA c cells subs) c :=
  ⟨h1, h2, h3, h4, rfl, h5, h6, h7, h8, h9, fun d h => by cases h⟩

theorem one_element (va : Nat) (h : va = w0 ∨ va = w1) : OneElement (lay va) := by
  rcases h with rfl | rfl <;> exact ⟨rfl, rfl, rfl, by decide, rfl, rfl, rfl, by decide⟩

theorem window_who (s : State) (w : Who) (va off : Nat) (a : Alloc) (hs : s.sys = State.reset.sys) (hv : va < 2 ^ 57) (hw : isWindow va = true)
    (h0 : windowOf w.cl va = some (w.cl, off)) (hc : w.cl = 0) (hx : w.ctx = 0) (h : allocOf s 0 0 = some a) (hp : a.present = [(0, 0)])
    (hr : a.resident = true) (hz : a.size = 8) (ho : off < 0x4000) : WindowOf s w va (0x20000000000 + off) := by
  refine ⟨hv, hw, off, 0x20000000000 + off, h0, ?_, by simp [localPa, dev0 s hs]⟩
  rw [hc, hx]; exact scratch0 s off a h hp hr hz ho

theorem win_cmd (c : Command) (cells : List Host.Cell) (subs : List Sub) (off : Nat) (hc : c.cl = 0) (hx : c.ctx = 0) (ho : off < 0x4000) :
    WindowOf (engA c cells subs) (whoCmd c) (w0 + off) (0x20000000000 + off) :=
  window_who _ _ _ off _ rfl (by simp only [w0]; omega)
    (by simp only [isWindow, w0]; rw [show (0x1fe000000000000 + off) / 2 ^ 49 = 0xff by omega]; rfl)
    (by
      unfold windowOf w0 scratchBytes
      rw [if_pos (by omega)]
      rw [if_pos (by omega), Nat.add_sub_cancel_left]) hc hx rfl rfl rfl rfl ho

theorem test_meets_EngineSteps :
    (Startable (engA copyA [] []) copyA ∧ OneElement (lay w0) ∧ OneElement (lay w1) ∧ bits (lay w0) 56 0 = w0 ∧ bits (lay w1) 56 0 = w1 ∧ cwTrn copyA.word = false ∧
      WindowOf (engA copyA [] []) (whoCmd copyA) w1 0x20000000040 ∧ WindowOf (engA copyA [] []) (whoCmd copyA) w0 0x20000000000 ∧ cwOp copyA.word = 1) ∧
    (Startable (engA gatherA [(0x20000000080, 1)] []) gatherA ∧ cwOp gatherA.word = 2 ∧ cwAux gatherA.word = w2 ∧ w2 % 64 = 0 ∧
      WindowOf (engA gatherA [(0x20000000080, 1)] []) (whoCmd gatherA) w2 0x20000000080 ∧ elemAt (engA gatherA [(0x20000000080, 1)] []) 0x20000000080 4 = 1 ∧
      1 < lyExt (lay w0) 0 ∧ elemVa (lay w0) (lyWidth (lay w1)) [1] = w0 + 1 ∧ WindowOf (engA gatherA [(0x20000000080, 1)] []) (whoCmd gatherA) (w0 + 1) 0x20000000001) ∧
    (elemAt (engA gatherA ((List.range 4).map (fun i => (0x20000000080 + i, 255))) []) 0x20000000080 4 = 0xffffffff ∧
      Startable (engA gatherA ((List.range 4).map (fun i => (0x20000000080 + i, 255))) []) gatherA) ∧
    (Startable (engA fillA [] []) fillA ∧ cwOp fillA.word = 3) ∧
    (Startable (engA readqA [] []) readqA ∧ cwOp readqA.word = 4 ∧ cwNres readqA.word = 0 ∧ cwAux readqA.word = w2) ∧
    (Startable (engA mcastA [] [sub0 true]) mcastA ∧ cwOp mcastA.word = 5 ∧ bits mcastA.word 31 0 = (sub0 true).mtag ∧ (engA mcastA [] [sub0 true]).eng.mcasts = []) ∧
    (Startable (engA markA [] []) markA ∧ cwOp markA.word = 6) ∧
    (Startable (engA ovldA [] []) ovldA ∧ cwOp ovldA.word = 7 ∧ bits ovldA.word 232 226 = 0 ∧ cwAux ovldA.word = w0 ∧ w0 % 1024 = 0 ∧
      ∀ j, j < 16 → WindowOf (engA ovldA [] []) (whoCmd ovldA) (w0 + 64 * j) (0x20000000000 + 64 * j)) := by
  have st (c : Command) (cells : List Host.Cell) (subs : List Sub) (h1 : fifoHead (engA c cells subs) c.core = some c)
      (h2 : nextCore (engA c cells subs) c.cl = some c.core) (h3 : startCheck (started (engA c cells subs) c) c = none)
      (h4 : rootBad (started (engA c cells subs) c) c = false) (h5 : cwSeq c.word = false) (h6 : engStopped (engA c cells subs) c.cl = false)
      (h7 : c.pos = 0) (h8 : c.slab = none) (h9 : c.buf = []) := startable0 c cells subs h1 h2 h3 h4 h5 h6 h7 h8 h9
  refine ⟨⟨st _ _ _ ?_ ?_ ?_ ?_ ?_ ?_ rfl rfl rfl, one_element _ (.inl rfl), one_element _ (.inr rfl), ?_, ?_, ?_, win_cmd _ _ _ 0x40 rfl rfl (by decide),
      win_cmd _ _ _ 0 rfl rfl (by decide), ?_⟩,
    ⟨st _ _ _ ?_ ?_ ?_ ?_ ?_ ?_ rfl rfl rfl, ?_, ?_, ?_, win_cmd _ _ _ 0x80 rfl rfl (by decide), ?_, ?_, ?_, win_cmd _ _ _ 1 rfl rfl (by decide)⟩,
    ⟨?_, st _ _ _ ?_ ?_ ?_ ?_ ?_ ?_ rfl rfl rfl⟩, ⟨st _ _ _ ?_ ?_ ?_ ?_ ?_ ?_ rfl rfl rfl, ?_⟩, ⟨st _ _ _ ?_ ?_ ?_ ?_ ?_ ?_ rfl rfl rfl, ?_, ?_, ?_⟩,
    ⟨st _ _ _ ?_ ?_ ?_ ?_ ?_ ?_ rfl rfl rfl, ?_, ?_, ?_⟩, ⟨st _ _ _ ?_ ?_ ?_ ?_ ?_ ?_ rfl rfl rfl, ?_⟩,
    ⟨st _ _ _ ?_ ?_ ?_ ?_ ?_ ?_ rfl rfl rfl, ?_, ?_, ?_, ?_, fun j hj => win_cmd _ _ _ (64 * j) rfl rfl (by omega)⟩⟩
  all_goals decide

/-- A command of the engine in progress, its tag held. -/
def activeA (c : Command) : State :=
  { engA c [] [] with eng := { (engA c [] []).eng with fifo := [], active := [c], cc := (tagged btw0 0 [] 3).eng.cc } }

def doneA (seq : Bool) : Command := { cmd0 (3 * 2 ^ 248 + 3 * 2 ^ 242 + seq.toNat * 2 ^ 241 + w1 * 2 ^ 128) none (some (layC w1)) with finished := true }

/-- An element in flight to the subscription of tag 3, whose record names the window's address 0x40. -/
def subB : Sub := { sub0 true with layout := layC w1 }
def flightA : Mcast := { id := 5, cl := 0, cmd := 7, sub := 0, entry := 0, srcRec := lay w0, fmt := none, data := [{ val := 9, scale := none }], pos := 0, slot := none, fault := none }
def deliverA : State :=
  { engA mcastA [] [subB] with eng := { (engA mcastA [] [subB]).eng with
      fifo := [], mcasts := [flightA], cc := (tagged btw0 0 [] 0x10).eng.cc.map (fun e => (e.1, { e.2 with resident := true })) } }

theorem test_meets_EngineSteps_ends :
    (activeOf (activeA (doneA true)) 0 7 = some (doneA true) ∧ (doneA true).finished = true ∧ (doneA true).ovld = false ∧
      (doneA true).stamped = false ∧ engStopped (activeA (doneA true)) 0 = false ∧ pendingWrites (activeA (doneA true)) (engineClock 0) = false ∧
      cwSeq (doneA true).word = true ∧ cwStampVa (doneA true).word = w1 ∧
      w1 % 64 + 8 ≤ 64 ∧ (tagOf (ccOf (activeA (doneA true)) 0 0) (cwTag (doneA true).word)).isSome = true ∧ cwSeq (doneA false).word = false ∧
      WindowOf (activeA (doneA true)) (whoCmd (doneA true)) w1 0x20000000040) ∧
    (activeOf (activeA fillA) 0 7 = some fillA ∧ (activeA fillA).eng.active = [fillA] ∧ fillA.finished = false ∧ fillA.ovld = false ∧ engStopped (activeA fillA) 0 = false ∧ fillA.pos = 0 ∧
      WindowOf (activeA fillA) (whoCmd fillA) w1 0x20000000040) ∧
    (subAt (subbed btw0 (sub0 false)) 0 0 = some (sub0 false)) ∧
    (deliverA.eng.mcasts = [flightA] ∧ subAt deliverA flightA.sub flightA.entry = some subB ∧ subB.id = flightA.id ∧ subHeld deliverA subB = false ∧
      flightA.pos = 0 ∧ flightA.slot = none ∧ deliveryCheck deliverA subB flightA = none ∧ OneElement subB.layout.word ∧
      subB.tag < 64 ∧ (tagOf (ccOf deliverA 0 0) subB.tag).isSome = true ∧ WindowOf deliverA (whoSub subB) w1 0x20000000040) := by
  refine ⟨⟨?_, ?_, ?_, ?_, ?_, ?_, ?_, ?_, ?_, ?_, ?_, window_who _ _ w1 0x40 _ rfl (by decide) (by decide) (by decide) rfl rfl rfl rfl rfl rfl (by decide)⟩,
    ⟨?_, rfl, ?_, ?_, ?_, ?_, window_who _ _ w1 0x40 _ rfl (by decide) (by decide) (by decide) rfl rfl rfl rfl rfl rfl (by decide)⟩, rfl,
    ⟨rfl, ?_, ?_, ?_, ?_, ?_, ?_, one_element _ (.inr rfl), ?_, ?_, window_who _ _ w1 0x40 _ rfl (by decide) (by decide) (by decide) rfl rfl rfl rfl rfl rfl (by decide)⟩⟩
  all_goals decide

/-- A command that has stopped on a fault, and one whose write at a home is under way; a copy for device 1's subscriber 9, left or not. -/
def stoppedA : Command := { doneA false with fault := some ({ trap0 with cause := 0x0e }, 0) }
def writingA : State := { activeA (doneA false) with agenda := [.homePerformedWrite lineA [some 1] (engineClock 0) 0] }
def farA (sent live : Bool) : State :=
  let s := part0 btw0 1
  { s with sys := { s.sys with ctl := (if live then [(0xc00, 0x8100)] else []) ++ s.sys.ctl }
           eng := { s.eng with farMcasts := [{ cl := 0, cmd := 7, dev := 1, id := 9, part := 0, vf := 0, upTo := 0, data := [5], sent := sent }]
                               farSubs := [{ dev := 1, id := 9, mtag := 3, job := 0 }] } }
def subscribed0 : State := { part0 btw0 1 with eng := { btw0.eng with subs := [sub0 true] } }

theorem test_meets_EngineSteps_more :
    (∀ c cells subs, (engA c cells subs).mem.poisoned = [] ∧ (activeA c).coh.dir = []) ∧
    ((doneA true).fault = none ∧ engWrites (activeA (doneA true)) 0 = false) ∧
    (activeOf (activeA stoppedA) 0 7 = some stoppedA ∧ stoppedA.finished = true ∧ stoppedA.fault.isSome = true ∧ engStopped (activeA stoppedA) 0 = false ∧
      engWrites (activeA stoppedA) 0 = false) ∧
    (activeOf writingA 0 7 = some (doneA false) ∧ (doneA false).finished = true ∧ engWrites writingA 0 = true) ∧
    (engWrites deliverA 0 = false ∧ deliverA.eng.farMcasts = [] ∧ flightA.fault = none) ∧
    (∀ l ∈ [true, false], (farA false l).eng.farMcasts.length = 1 ∧ routeLive (farA false l) 0 1 = l ∧ ackedTo (farA false l) 0 0 = true) ∧
    ((farA true true).eng.farMcasts.map (fun m => m.sent) = [true] ∧ (farA true true).eng.mcasts = []) ∧
    (subscribed0.eng.subs = [sub0 true] ∧ (sub0 true).joined = true ∧ (sub0 true).part < 20 ∧ subscribed0.eng.mcasts = [] ∧
      replayOf subscribed0 (sub0 true).part = none ∧ replayPart subscribed0 (sub0 true).part = false) := by
  refine ⟨fun _ _ _ => ⟨rfl, rfl⟩, ?_, ?_, ?_, ?_, ?_, ?_, ?_⟩ <;> decide

/-- The issuer waiting for a head to be filled, and one whose `mma` has started. -/
def waitMma : State :=
  { filled0 with th := { filled0.th with status := .waiting (.ring 0), words := (encode 0 (.mma 0 1 2 (.ieee .f))).headD 0 } }
def mmaA : Mma := { uid := 1, cl := 0, ra := 0, rb := 1, acc := 2, fa := .ieee .f, fb := .ieee .f, rm := .rne, ka := false, kb := true, dataA := [], dataB := [] }
def startedMma : State := { filled0 with eng := { filled0.eng with mma := [mmaA] } }

/-- A kill with acknowledgements due, KILLPA as given. -/
def killed (due : List Nat) (pa : Word) : State :=
  { run0 with sys := { run0.sys with kills := [{ ctx := 0, due := due, blocks := none }], ctl := if pa = 0 then [] else [(cdAddr 0 4, pa)] } }

/-- A rival whose choice of itself is registered, its sibling gone, its parent saved, one line in its view. -/
def version0 : Version := { tag := 9, line := lineA, data := List.replicate 64 7, mask := 1, spilled := false }
def chosen0 : Fork := { fork0 (some (1, 0)) with rivals := [(0, 1, 9, true), (1, 2, 10, false)], closed := true }
def parentT : Thread := { run0.th with uid := 8, status := .parent 4 }
def choosing : State :=
  { run0 with th := { run0.th with status := .waiting (.choice 4), chain := [9], fork := some 4 }
              wk := { run0.wk with saved := [parentT] }
              vw := { run0.vw with forks := [chosen0], tags := [9], versions := [version0] } }

/-- A thread with a deferred message. -/
def deferring : State :=
  { mailed btw0 2 true [] with th := { (mailed btw0 2 true []).th with deferral := [.send 0x1000 2 [1] false .cl] } }

theorem test_meets_UnitSteps :
    (waitingMma waitMma.th = some (0, 1, 2, .ieee .f, .ieee .f, .rne, false, false) ∧ waitMma.th.crew = some (0, 0, 0) ∧
      ringAt waitMma 0 (ctxOf waitMma.th) 0 = some (ring0 0 0 .filled) ∧ ringAt waitMma 0 (ctxOf waitMma.th) 1 = some (ring0 1 0x3000 .filled) ∧
      clusterHalted waitMma 0 = false ∧ mmaCanStart waitMma (ring0 0 0 .filled) (ring0 1 0x3000 .filled) = none ∧ (tileAt waitMma 0 0 2).present = true) ∧
    (startedMma.eng.mma = [mmaA] ∧ mmaA.uid = startedMma.th.uid ∧ ringAt startedMma 0 (ctxOf startedMma.th) 0 = some (ring0 0 0 .filled) ∧
      ringAt startedMma 0 (ctxOf startedMma.th) 1 = some (ring0 1 0x3000 .filled) ∧ startedMma.th.crew = some (0, 0, 0) ∧ replayOf startedMma startedMma.th.part = none ∧
      startedMma.th.chunk.dirty = [] ∧ clusterHalted startedMma 0 = false ∧ mmaA.cl = 0 ∧ mmaA.ra = 0 ∧ mmaA.rb = 1) ∧
    (({ filled0 with th := { filled0.th with status := .waiting .saveBlock } } : State).th.status = .waiting .saveBlock ∧ filled0.th.crew = some (0, 0, 0) ∧ 0 < 4 ∧
      (filled0.eng.tiles.filter (fun x => x.cl = 0 ∧ x.present)).length < 8) ∧
    (run0.th.ctx = 0 ∧ run0.th.status = .running ∧ run0.th.chain = [] ∧ run0.th.fork = none ∧ run0.th.deferral = [] ∧ run0.rest = [] ∧ run0.wk.saved = [] ∧
      (∀ k ∈ run0.sys.kills, k.ctx ≠ 0) ∧ replayOf run0 (cdPart run0 0) = none ∧ replayPart run0 (cdPart run0 0) = false ∧ (∀ x ∈ run0.coh.dir, x.queue = [])) ∧
    ((killed [5] 0).sys.kills.find? (fun x => x.ctx = 0) = some { ctx := 0, due := [5], blocks := none } ∧ (killed [5] 0).sys.kills = [{ ctx := 0, due := [5], blocks := none }] ∧
      engineWriting (killed [5] 0) 0 5 = false) ∧
    (killDone (killed [] 0xc000000000) 0 = true ∧ atHole (killed [] 0xc000000000) (cdKillPa (killed [] 0xc000000000) 0) = true ∧ killDone (killed [] 0) 0 = true ∧
      atHole (killed [] 0) (cdKillPa (killed [] 0) 0) = false ∧ WritableLine (killed [] 0) (lineOf (cdKillPa (killed [] 0) 0)) ∧ launchesOf (killed [] 0) 0 = []) ∧
    (forkAt choosing 4 = some chosen0 ∧ chosen0.choice = some (1, 0) ∧ chosen0.rival 0 = some (1, 9) ∧ chosen0.parentChain = [] ∧
      (∀ r ∈ chosen0.rivals, r.2.1 = 1 ∨ r.2.2.2 = false) ∧ choosing.wk.saved = [parentT] ∧ choosing.rest = [] ∧ parentT.uid = chosen0.parent ∧ parentT.uid ≠ 1 ∧ parentT.chain = [] ∧
      parentT.crew = none ∧ choosing.th.crew = none ∧ choosing.th.deferral = [] ∧ choosing.th.chunk.phase = .running ∧
      choosing.th.status = .waiting (.choice 4) ∧ choosing.th.chunk.count = 0 ∧ (∀ h ∈ choosing.coh.pinHolder, h.1 ≠ chosen0.part) ∧
      viewLines choosing 9 = [version0] ∧ WritableLine choosing version0.line ∧ touching choosing version0.line 0 = [] ∧ choosing.vw.fallen = [] ∧
      (∀ x ∈ choosing.vw.dirty, x.1 ≠ 9) ∧ replayOf choosing 0 = none ∧
      (∀ x ∈ choosing.coh.dir, x.queue = [] ∧ x.busy ≠ some (.commit parentT.uid))) ∧
    (deferring.th.deferral = [.send 0x1000 2 [1] false .cl] ∧ clusterHalted deferring (clusterOf deferring.th.core) = false ∧ Quiet deferring ∧ NoReplay deferring ∧
      sendReady deferring deferring.th 2 = none ∧ nameDev 2 = ownDev deferring ∧ (∀ x ∈ deferring.rep.skips, x.part ≠ deferring.th.part) ∧ deferring.th.chunk.dirty = []) := by
  refine ⟨⟨rfl, by decide⟩, ⟨rfl, by decide, by decide, by decide, by decide, by decide, rfl, by decide⟩, by decide, by decide, by decide, ⟨by decide, by decide, by decide, by decide, ⟨by decide, by decide⟩, rfl⟩,
    ⟨by decide, rfl, by decide, rfl, by decide, rfl, rfl, rfl, by decide, rfl, rfl, rfl, rfl, rfl, rfl, rfl, by decide, by decide, ⟨by decide, by decide⟩,
      by decide, rfl, by decide, by decide, by decide⟩,
    ⟨rfl, by decide, quiet_mail 2 true [], rfl, by decide, by decide, by decide, rfl⟩⟩

theorem test_meets_UnitSteps_kills :
    (mmaA.ra ≠ mmaA.rb ∧ (killed [5] 0).coh.l1 = [] ∧ (killed [5] 0).coh.dir = [] ∧ (killed [] 0).coh.dts = [] ∧
      (killed [] 0).sys.kills = [{ ctx := 0, due := [], blocks := none }] ∧ replayPart run0 (cdPart run0 0) = false) ∧
    ∀ k ∈ (killed [5] 0).sys.kills, ∀ g ∈ k.due, Unfetched (killed [5] 0) g :=
  ⟨by decide, fun _ _ _ _ _ h => by cases h⟩

/-! ### Schedulers -/

/-- A launch of queue 5 whose kernel stands at 0x10100, with two registers and some granules; a range of 300 indices of it. -/
def launchQ (scrg : Nat) : Launch := { launch0 [] with queue := 5, record := 2 * 2 ^ 58 + scrg * 2 ^ 64 + 0x10100 * 2 ^ 192 }
def range0 (place : Nat) : Range := { place := place, lnum := 0, first := 7, count := 300 }

/-- Partition 0 with that launch, shares at dies, and work of clusters 0 and 1; nothing resident. -/
def work0 (th : Thread) (shares : List Range) (a b : ClWork) : State :=
  { part0 State.reset 1 with th := th, wk := { State.reset.wk with launches := [launchQ 0], shares := shares, cl := [(0, a), (1, b)] } }

/-- A record of the launch, bound to a core or not. -/
def rec0 (core : Option Nat) : Rec :=
  { index := 1, lnum := 0, join := 0, frame := 0, code := 0x10100, origin := [], saved := none, boundCore := core, bound := false, acquire := false, token := false }

/-- A granule of the save area due on cluster 0. -/
def restoring (resident : Bool) : State :=
  { run0 with wk := { run0.wk with allocs := [{ cl := 0, ctx := 0, size := 8, present := [], saved := [0], due := [(0, 2)], asked := [], resident := resident, outAt := 0 }] } }

/-- A context that is switched in on core 0 without a thread there. -/
def lonely : State :=
  { State.reset with eng := { State.reset.eng with cc := [((0, 0), { CoreCtx.empty with resident := true })] }, wk := (restoring true).wk }

/-- Queue 0 of context 0, of 16 entries: its tail word at 0x10040 with a value, its ring at 0x10080 with a record of one index at 0x10100. -/
def queue0 (tail : Byte) : State :=
  { State.reset with
    mem := { State.reset.mem with
      tlb := [{ entry0 0 0 with leaf := leaf0 0 0 + 8 }]
      cells := (if tail = 0 then [] else [(0x200040, tail)]) ++ [(0x20008c, 1), (0x200099, 1), (0x20009a, 1)] }
    sys := { State.reset.sys with boot := .booted, ctl := [(0, 5), (8, 0xffffffff0000ffff), (cdAddr 0 0, 1), (qtAddr 0 0, 1), (qtAddr 0 5, 4 * 2 ^ 7),
                                                           (qtAddr 0 6, 0x10040), (qtAddr 0 7, 0x10080)] } }

/-- The same while STATUS of the record taken last has still to be written. -/
def unanswered (s : State) : State :=
  { setQs s { qsOf s 0 with statusPa := some 0x2000bf } with agenda := [.homePerformedWrite 0x2000bf [some 1] 5 0] }

/-- Records between head and tail of queue 0. -/
def queued (s : State) : Option Nat :=
  match tailDiff (done s) 0 with
  | .ok (n, _) => some n
  | .error _ => none

/-- The STATUS that the checks give the record at the head of queue 0, where its byte may be written. -/
def statusOf (s : State) : Option Nat :=
  match tailDiff (done s) 0 with
  | .ok (_, u) =>
    (match deviceRead u (whoQueue u 0) (qtBase u 0 + 64 * ((qsOf u 0).head % 2 ^ qtLogn u 0)) 64 with
      | .ok (bs, v) =>
        (match checkRecord v (whoQueue v 0) (leNat bs) with
          | .ok (st, _, w) =>
            (match (writeXlate w (whoQueue v 0) (qtBase u 0 + 64 * ((qsOf u 0).head % 2 ^ qtLogn u 0) + 11)).1 with
              | .ok _ => some st
              | .error _ => none)
          | .error _ => none)
      | .error _ => none)
  | .error _ => none

theorem test_meets_WorkSteps :
    (∀ r ∈ [true, false], ∃ a, allocOf (restoring r) 0 0 = some a ∧ Assoc.get a.due 0 = some 2 ∧ a.resident = r ∧ restoreNext (restoring r) a 0 = true) ∧
    ((∀ x ∈ onCore lonely 0, ctxOf x ≠ 0) ∧ (ccOf lonely 0 0).resident = true ∧ (∀ x ∈ threadsOf lonely (clusterOf 0), ctxOf x ≠ 0) ∧
      (allocOf lonely (clusterOf 0) 0).isSome = true) ∧
    (∃ x ∈ onCore run0 0, ctxOf x = 0) ∧
    (scanned (queue0 0) 0 = true ∧ queued (queue0 0) = some 0 ∧ queued (queue0 1) = some 1 ∧ queued (queue0 200) = some 200 ∧ 2 ^ qtLogn (queue0 1) 0 = 16 ∧
      freeLnum (queue0 1) = some 0 ∧ statusOf (queue0 1) = some 1 ∧
      chooseQueue (queue0 1) scannerNo (takeable (queue0 1) 0) (fun _ => 256) = some 0 ∧ statusDue (queue0 1) 0 = false ∧ replayPart (queue0 1) 0 = false ∧
      replayOf (queue0 1) 0 = none ∧ statusDue (unanswered (queue0 1)) 0 = true ∧ scanned (unanswered (queue0 1)) 0 = true) ∧
    (oldestLaunch (work0 Thread.vacant [range0 0] ClWork.empty ClWork.empty) 5 = some (launchQ 0) ∧ hasRecord (done (queue0 1)) 0 = true ∧
      oldestLaunch run0 5 = none ∧ hasRecord (done run0) 0 = false) ∧
    (partOfCl (work0 Thread.vacant [range0 0] ClWork.empty ClWork.empty) 0 = some 0 ∧ admitting (work0 Thread.vacant [range0 0] ClWork.empty ClWork.empty) 0 = true ∧
      (clWork (work0 Thread.vacant [range0 0] ClWork.empty ClWork.empty) 0).ranges.length < 2 ∧
      sharesAt (work0 Thread.vacant [range0 0] ClWork.empty ClWork.empty) 0 (dieOf 0) = [(launchQ 0, range0 0)] ∧ 0 < (range0 0).count) ∧
    (dieInPart (work0 Thread.vacant [range0 0] ClWork.empty ClWork.empty) 0 3 = true ∧ vfTurn (work0 Thread.vacant [range0 0] ClWork.empty ClWork.empty) 0 0 = true ∧
      launchOf (work0 Thread.vacant [range0 0] ClWork.empty ClWork.empty) 0 = some (launchQ 0) ∧ (range0 0).place < 8 ∧ (range0 0).place ≠ 3 ∧ (launchQ 0).queue = 5) ∧
    (idle (work0 Thread.vacant [] ClWork.empty { ClWork.empty with deque := [rec0 none] }) 0 = true ∧
      clusterHalted (work0 Thread.vacant [] ClWork.empty { ClWork.empty with deque := [rec0 none] }) 1 = false ∧
      1 ∉ (work0 Thread.vacant [] ClWork.empty { ClWork.empty with deque := [rec0 none] }).coh.fencedCl ∧
      inPart (work0 Thread.vacant [] ClWork.empty { ClWork.empty with deque := [rec0 none] }) 0 1 = true ∧
      (clWork (work0 Thread.vacant [] ClWork.empty { ClWork.empty with deque := [rec0 none] }) 1).deque = [rec0 none] ∧ (rec0 none).bound = false ∧
      mayHost (done (work0 Thread.vacant [] ClWork.empty { ClWork.empty with deque := [rec0 none] })) 0 (rec0 none) = true) := by
  refine ⟨?_, by decide, by decide, ?_, by decide, by decide, by decide, by decide⟩
  · intro r h
    simp only [List.mem_cons, List.not_mem_nil, or_false] at h
    rcases h with rfl | rfl <;> exact ⟨_, rfl, by decide⟩
  refine ⟨by decide, by decide, by decide, by decide, by decide, by decide, by decide, by decide, by decide, by decide, by decide, by decide, by decide⟩

/-- Cluster 0 whose context 0 holds a granule, and a launch of context 1 that needs all 96. -/
def crowded : State :=
  { work0 run0.th [] { ClWork.empty with deque := [rec0 none] } ClWork.empty with
    wk := { State.reset.wk with launches := [{ launchQ 96 with ctx := 1 }], cl := [(0, { ClWork.empty with deque := [rec0 none] })]
                                allocs := [{ cl := 0, ctx := 0, size := 1, present := [(0, 0)], saved := [], due := [], asked := [], resident := true, outAt := 0 }] } }

/-- Core 0 with all its slots taken by threads, the first of which has a status and the others run, and a record bound to it. -/
def full0 (st : Status) : State :=
  { work0 { run0.th with status := st } [] { ClWork.empty with deque := [rec0 (some 0)] } ClWork.empty with
    rest := (List.range 255).map (fun i => { run0.th with uid := i + 2, slot := i + 1, since := i + 1 }) }

theorem full_slots (st : Status) (hs : (st != .vacant) = true) : freeSlot (done (full0 st)) 0 = none := by
  have h0 : (done (full0 st)).sys.removed.contains 0 = false := rfl
  simp only [freeSlot, h0, Bool.false_eq_true, if_false]
  rw [List.find?_eq_none]
  intro i hi hall
  have hi : i < 256 := List.mem_range.1 hi
  have hall := List.all_eq_true.1 hall
  by_cases h : i = 0
  · have := hall { run0.th with status := st } (List.mem_filter.2 ⟨List.mem_cons_self, by simpa [run0, running, Thread.vacant] using hs⟩)
    simp [run0, running, Thread.vacant, h] at this
  · have hm : ({ run0.th with uid := i + 1, slot := i, since := i } : Thread) ∈ (done (full0 st)).rest := by
      refine List.mem_map.2 ⟨i - 1, List.mem_range.2 (by omega), ?_⟩
      rw [show i - 1 + 2 = i + 1 by omega, show i - 1 + 1 = i by omega]
    have := hall _ (List.mem_filter.2 ⟨List.mem_cons_of_mem _ hm, by simp [run0, running, Thread.vacant]⟩)
    simp at this

theorem full_waits (st : Status) (hs : (st != .vacant) = true) : slotWaits (done (full0 st)) 0 = [[0]] := by
  have hr : recTurn (done (full0 st)) (rec0 (some 0)) = true := rfl
  have hw : clWork (done (full0 st)) 0 = { ClWork.empty with deque := [rec0 (some 0)] } := rfl
  have hl : slotless (done (full0 st)) 0 (rec0 (some 0)) = true := by simp [slotless, coresFor, rec0, full_slots st hs]
  have hd : [rec0 (some 0)].filter (fun r => recTurn (done (full0 st)) r && slotless (done (full0 st)) 0 r) = [rec0 (some 0)] := by simp [hr, hl]
  rw [slotWaits, hw]
  show ([rec0 (some 0)].filter (fun r => recTurn (done (full0 st)) r && slotless (done (full0 st)) 0 r)).map (coresFor 0) ++ [] = _
  rw [hd]; rfl

theorem full_runs (x : Thread) (h : x ∈ threadsOf (full0 .running) 0) : waitsAtPoint (full0 .running) x = false := by
  have hx : x ∈ threads (full0 .running) := (List.mem_filter.1 h).1
  rcases List.mem_cons.1 hx with rfl | hx
  · rfl
  · obtain ⟨i, _, rfl⟩ := List.mem_map.1 hx
    rfl

/-- Saved threads of handle 8, waiting for a deque entry that has room, or for a line that is busy. -/
def slept (w : Wait) (d : Option DirEnt) : State :=
  { homeS d [] with wk := { run0.wk with saved := [{ run0.th with uid := 8, status := .waiting w }], launches := [launchQ 0] } }

/-- Function 3 has work while function 0 has its slice. -/
def sliced : State :=
  { work0 run0.th [range0 0] ClWork.empty ClWork.empty with
    sys := { (part0 State.reset 1).sys with curVf := [(0, 0)] }
    wk := { State.reset.wk with launches := [{ launchQ 0 with vf := 3 }], shares := [range0 0] } }

/-- A trap waiting behind a chunk that has been committed. -/
def trapped : State :=
  { handled run0 0 0x100 0x200 with th := { (handled run0 0 0x100 0x200).th with status := .waiting .commit, pendTrap := some trap0 } }

theorem test_meets_ThreadSteps :
    ((work0 Thread.vacant [] { ClWork.empty with ranges := [range0 0] } ClWork.empty).th.status = .vacant ∧
      (∀ x ∈ (work0 Thread.vacant [] { ClWork.empty with ranges := [range0 0] } ClWork.empty).rest, x.core = 0 → x.slot ≠ 0) ∧
      admitting (work0 Thread.vacant [] { ClWork.empty with ranges := [range0 0] } ClWork.empty) 0 = true ∧
      firstRange (work0 Thread.vacant [] { ClWork.empty with ranges := [range0 0] } ClWork.empty) 0 = some (launchQ 0, range0 0) ∧
      (mayAdmit (done (work0 Thread.vacant [] { ClWork.empty with ranges := [range0 0] } ClWork.empty)) 0 (rangeRec (launchQ 0) (range0 0))).isSome = true ∧
      (clWork (work0 Thread.vacant [] { ClWork.empty with ranges := [range0 0] } ClWork.empty) 0).resume = [] ∧
      (clWork (work0 Thread.vacant [] { ClWork.empty with ranges := [range0 0] } ClWork.empty) 0).deque = [] ∧
      (groupsOf (launchQ 0) 7).length ≤ 4) ∧
    (crowded.rest = [] ∧ crowded.th.status ≠ .vacant ∧ clusterOf crowded.th.core = 0 ∧ clusterHalted crowded 0 = false ∧
      (waitingRecs (done crowded) 0).any (lacksGranules (done crowded) 0) = true) ∧
    ((full0 .running).th.status = .running ∧ (full0 .running).th.marked = false ∧ clusterOf (full0 .running).th.core = 0 ∧ clusterHalted (full0 .running) 0 = false ∧
      admitting (full0 .running) 0 = true ∧ (∃ cs ∈ slotWaits (done (full0 .running)) 0, (full0 .running).th.core ∈ cs) ∧
      (∀ x ∈ threadsOf (full0 .running) 0, waitsAtPoint (full0 .running) x = false) ∧
      ∀ x ∈ (full0 .running).rest, x.core = (full0 .running).th.core → (full0 .running).th.since ≤ x.since) ∧
    (let s := full0 (.waiting (.mwait lineA))
     clusterOf s.th.core = 0 ∧ clusterHalted s 0 = false ∧ admitting s 0 = true ∧ slotWaits (done s) 0 = [[0]] ∧ waitsAtPoint s s.th = true ∧
       ∀ x ∈ s.rest, s.th.waited ≤ x.waited) ∧
    ((upkeep (some (.memory lineA)) none).th.status = .waiting (.memory lineA) ∧ (upkeep (some (.memory lineA)) none).th.pinned = false) ∧
    (let m : State := { part0 run0 1 with th := { run0.th with marked := true } }
     m.rest = [] ∧ m.th.status = .running ∧ m.th.marked = true ∧ m.th.pinned = false ∧ m.th.chunk.phase = .running ∧ m.th.chunk.count = 0 ∧ m.th.pendTrap = none ∧
      clusterHalted m (clusterOf m.th.core) = false ∧ blockFree m m.th = true ∧ (∀ x ∈ m.coh.dir, x.queue = [])) ∧
    ((∃ x, (slept .deque none).wk.saved.find? (fun y => y.uid = 8) = some x ∧ x.status = .waiting .deque ∧ wakes (done (slept .deque none)) x .deque = true) ∧
      listed (slept .deque none) 8 = false ∧
      ∃ x, (slept (.memory lineA) (some (dirA .FW none))).wk.saved.find? (fun y => y.uid = 8) = some x ∧ x.status = .waiting (.memory lineA) ∧
        wakes (done (slept (.memory lineA) (some (dirA .FW none)))) x (.memory lineA) = false) ∧
    (let s : State := { slept .deque none with th := Thread.vacant, wk := { run0.wk with launches := [launchQ 0] } }
     launchOf s 0 = some (launchQ 0) ∧ launchBusy s 0 = false ∧ (∀ k ∈ s.sys.kills, k.ctx ≠ (launchQ 0).ctx) ∧ (launchQ 0).cblk = 0 ∧
       dirtyCores s (launchQ 0) = [] ∧ launchReleased s (launchQ 0) = true ∧
       launchReleased { s with coh := { s.coh with posted := (posted0 []).coh.posted } } (launchQ 0) = false) ∧
    (Assoc.get sliced.sys.curVf 0 = some 0 ∧ 3 < 256 ∧ vfWork sliced 0 3 = true ∧ ∀ w, w < 256 → w ≠ 0 → w ≠ 3 → vfWork sliced 0 w = false) ∧
    (trapped.th.status = .waiting .commit ∧ trapped.th.pendTrap = some trap0 ∧ trapped.th.chunk.phase = .running ∧ trapped.th.a.level = 0 ∧
      trapped.th.kern.handler ≠ 0 ∧ trap0.cause ≠ 0x11) := by
  refine ⟨by decide, by decide,
    ⟨rfl, rfl, rfl, rfl, by decide, ⟨[0], by rw [full_waits _ rfl]; exact List.mem_cons_self, List.mem_cons_self⟩, full_runs, fun x _ _ => Nat.zero_le _⟩,
    ⟨rfl, rfl, by decide, full_waits _ rfl, by decide, fun x _ => Nat.zero_le _⟩, by decide, by decide,
    ⟨⟨_, rfl, rfl, by decide⟩, by decide, ⟨_, rfl, rfl, by decide⟩⟩, by decide, ⟨by decide, by decide, by decide, ?_⟩, by decide⟩
  · intro w _ h0 h3
    simp [vfWork, threads, sliced, work0, part0, run0, running, State.reset, Thread.vacant, h0.symm, h3.symm, WorkSt.empty]

theorem test_meets_WorkSteps_areas : ∀ x ∈ threads lonely, ∀ line, x.chunk.touches line = false := by
  intro x h line
  obtain rfl : x = lonely.th := List.mem_singleton.1 h
  rfl

/-- A thread at a load that waits for a line; a launch whose completion block is under way, or has arrived. -/
def loading0 : State :=
  { upkeep (some (.memory lineA)) none with
    th := { (upkeep (some (.memory lineA)) none).th with words := (encode 0 (.ld (.reg 5) (.n 0) 0 .d64)).headD 0 } }
def blocked0 (agenda : List Event) : State :=
  { State.reset with agenda := agenda, wk := { State.reset.wk with launches := [{ launchQ 0 with block := some [lineA] }] } }

theorem test_meets_ThreadSteps_more :
    (atLoad (upkeep (some (.memory lineA)) none).th = false ∧ loading0.th.status = .waiting (.memory lineA) ∧ atLoad loading0.th = true ∧ loading0.th.pinned = false) ∧
    (∀ x ∈ (full0 .running).rest, x.marked = false) ∧
    ((∀ a ∈ [[], [Event.homePerformedWrite lineA [some 1] 4096 0]], (launchOf (blocked0 a) 0).bind (fun l => l.block) = some [lineA]) ∧
      writeDue (blocked0 []) lineA = false ∧ writeDue (blocked0 [.homePerformedWrite lineA [some 1] 4096 0]) lineA = true) ∧
    (let s : State := { run0 with wk := { run0.wk with launches := [launchQ 0] } }
     (launchOf s 0).isSome = true ∧ (launchQ 0).block = none ∧ launchBusy s 0 = true) := by
  refine ⟨by decide, fun x h => ?_, by decide, by decide⟩
  obtain ⟨i, _, rfl⟩ := List.mem_map.1 h
  rfl

/-! ### Debug modules and Sillage -/

/-- A state with registers of control space, and with halted clusters. -/
def regs0 (s : State) (l : List (Nat × Word)) : State := { s with sys := { s.sys with ctl := l } }
def halt0 (s : State) : State := { s with dbg := { s.dbg with halted := [0] } }
def waitsAs (st : Status) : State := { run0 with th := { run0.th with status := st } }

/-- The thread has a token, and a sample of core 0 is asked for. -/
def token0 (t : Bool) : State :=
  { run0 with th := { run0.th with a := { run0.th.a with token := t } }, dbg := { run0.dbg with sampleReq := [0] } }

theorem test_meets_DebugSteps :
    ((waitsAs (.waiting (.mwait lineA))).rest = [] ∧ (waitsAs (.waiting (.mwait lineA))).th.status = .waiting (.mwait lineA) ∧ Wait.mwait lineA ≠ .commit ∧
      clusterOf (waitsAs (.waiting (.mwait lineA))).th.core = 0 ∧ clusterHalted (waitsAs (.waiting (.mwait lineA))) 0 = false ∧
      btw0.rest = [] ∧ btw0.th.status = .running ∧ btw0.th.boundary = true ∧ clusterHalted btw0 0 = false) ∧
    ((halt0 (waitsAs (.halted none))).rest = [] ∧ (halt0 (waitsAs (.halted none))).th.status = .halted none ∧
      clusterHalted (halt0 (waitsAs (.halted none))) 0 = true ∧ (halt0 (waitsAs (.halted none))).th.chunk.phase = .running ∧
      (halt0 (waitsAs (.halted none))).th.pendTrap = none ∧ (halt0 (waitsAs (.halted (some (.tag 1))))).th.status = .halted (some (.tag 1))) ∧
    (ctlBits run0 (dmAddr 0 0x90) 0 0 = 0 ∧ ctlBits (regs0 State.reset [(dmAddr 0 0x90, 1)]) (dmAddr 0 0x90) 0 0 = 1 ∧
      clusterHalted (regs0 State.reset [(dmAddr 0 0x90, 1)]) 0 = false ∧ threadsOf (regs0 State.reset [(dmAddr 0 0x90, 1)]) 0 = []) ∧
    (∀ k ∈ [0, 15], clusterHalted (halt0 (regs0 run0 [(dmAddr 0 0x200, BitVec.ofNat 64 (k * 2 ^ 16))])) 0 = true ∧
      dtThread (halt0 (regs0 run0 [(dmAddr 0 0x200, BitVec.ofNat 64 (k * 2 ^ 16))])) 0 = some run0.th ∧
      dtItem (halt0 (regs0 run0 [(dmAddr 0 0x200, BitVec.ofNat 64 (k * 2 ^ 16))])) 0 = k) ∧
    (NoRing run0 (clusterOf 0) (0 % 4) ∧ areaBytes run0 (clusterOf 0) (0 % 4) = [] ∧ lastTraced State.reset 0 = traceState State.reset 0) ∧
    (ctlGet run0 (dmAddr 0 0x98) = 0 ∧ (∀ c ∈ coresOf 0, tokenHolders (token0 false) c = []) ∧ 0 ∈ (token0 false).dbg.sampleReq) ∧
    (0 ∈ (token0 true).dbg.sampleReq ∧ tokenHolders (token0 true) 0 = [(token0 true).th] ∧ NoRing (token0 true) (clusterOf (token0 true).th.core) 4 ∧
      areaBytes (token0 true) (clusterOf (token0 true).th.core) 4 = []) := by
  refine ⟨by decide, by decide, by decide, by decide, ⟨rfl, rfl, by decide⟩, by decide, ⟨by decide, by decide, rfl, rfl⟩⟩

/-- The thread in the middle of a chunk that has written, running or waiting for memory. -/
def midA (st : Status) : State := { wrote0 with th := { wrote0.th with status := st } }

/-- DTSEL names an item of the thread, or a slot without one; DSAMP is on. -/
def select0 (v : Nat) : State := halt0 (regs0 run0 [(dmAddr 0 0x200, BitVec.ofNat 64 v)])
def sampled0 (t : Bool) : State := regs0 (token0 t) [(dmAddr 0 0x98, 5)]

theorem test_meets_DebugSteps_more :
    (midChunk (waitsAs (.waiting (.mwait lineA))).th = false ∧ ∀ st ∈ [Status.running, .waiting (.memory lineA)], midChunk (midA st).th = true ∧
      poisonedRead (midA st) (midA st).th.chunk = false ∧ (midA st).th.chunk.dirty = [] ∧ (midA st).th.chunk.writes ≠ [] ∧ (midA st).rest = [] ∧
      clusterHalted (midA st) 0 = false ∧ (midA st).coh.dir = []) ∧
    (∀ k ∈ [0x10, 0x3b, 0x3c, 0x3d, 0x3e, 0x401, 0x7ff], clusterHalted (select0 (k * 2 ^ 16)) 0 = true ∧ dtThread (select0 (k * 2 ^ 16)) 0 = some run0.th ∧
      dtItem (select0 (k * 2 ^ 16)) 0 = k) ∧
    ((itemOf run0.th.a 0x3d).isSome = true ∧ (itemPut 0x3c 1).isSome = true ∧ itemOf run0.th.a 0x3e = none ∧ csrAssigned (0x401 - 0x400) = true ∧
      csrAssigned (0x7ff - 0x400) = false) ∧
    (clusterHalted (select0 5) 0 = true ∧ dtThread (select0 5) 0 = none) ∧
    (∀ t ∈ [true, false], ctlGet (sampled0 t) (dmAddr 0 0x98) ≠ 0 ∧ (∀ c ∈ coresOf 0, c ≠ 0 → tokenHolders (sampled0 t) c = []) ∧
      tokenHolders (sampled0 t) 0 = (if t then [(sampled0 t).th] else []) ∧ areaBytes (sampled0 t) 0 4 = []) ∧
    NoRing (sampled0 true) 0 4 := by
  refine ⟨by decide, by decide, by decide, by decide, by decide, by unfold NoRing; decide⟩

/-- An event of class 2 of core 0 and function 0 on die 0, and a number of programs that run there. -/
def sil0 (l : List (Nat × Word)) (n : Nat) : State :=
  let ev : SilEvent := { die := 0, code := 2, vf := 0, core := 0, fields := [1, 2, 3, 4, 5, 6, 7, 8] }
  { regs0 run0 l with dbg := { run0.dbg with
      events := [ev], sram := [(0, 259, 0x64)], budget := [(0, 0, 7)]
      runs := List.replicate n { die := 0, slot := 1, vf := 0, supv := false, ev := ev, pc := 0, regs := List.replicate 8 3, count := 0 } } }

/-- Slot 1 installed for function 0 with one word, and attachment 5 to class 2 of that slot. -/
def att0 : List (Nat × Word) := [(silAddr 0 0x8008, 0x81), (silAddr 0 (0x9000 + 0x40 * 5), BitVec.ofNat 64 (1 + 2 * 2 ^ 5 + 2 ^ 24))]

/-- A histogram of 2^4 bins, two units long at base 8; the same of one unit. -/
def hist0 (size : Nat) : Word := BitVec.ofNat 64 (1 + 8 * 2 ^ 32 + size * 2 ^ 44)

theorem test_meets_SillageSteps :
    ((∃ ev, (sil0 att0 3).dbg.events.find? (fun e => e.die = 0) = some ev ∧ ((sil0 att0 3).dbg.runs.filter (fun r => r.die = 0)).length < 4 ∧
      (List.range 32).filter (fun x => attMatches (sil0 att0 3) 0 x ev) = [5]) ∧
      (∃ ev ∈ (sil0 att0 4).dbg.events, ev.die = 0) ∧ 4 ≤ ((sil0 att0 4).dbg.runs.filter (fun r => r.die = 0)).length) ∧
    (spV (spctl (sil0 [] 0) 0 1) = false ∧ (0x81 : Word).bits 7 7 = 1 ∧ 0 < spLen 0x81 ∧ spLen 0x81 ≤ 64 ∧ spLen 0x80 = 0 ∧ 64 < spLen 0xc1 ∧
      (∀ i, i < spLen 0x81 → filterStatus (sil0 [] 0) 0 (spSupv 0x81) (spOwner 0x81) (spLen 0x81) i (filterWordAt (sil0 [] 0) 0 1 i) = 0) ∧
      bits (filterWordAt (sil0 [] 0) 0 1 (spLen 0x81 - 1)) 31 26 = 0x19) ∧
    (spV (spctl (sil0 att0 0) 0 1) = true ∧ (0 : Word).bits 7 7 = 0 ∧ (atctl (sil0 att0 0) 0 5).bits 30 24 = 1 ∧ (0x41 : Word).bits 7 5 ≠ 7) ∧
    (objV (obj0 (sil0 [(silAddr 0 (0xa008 + 0x20 * 2), 4)] 0) 0 2) = false ∧ objV (hist0 2) = true ∧
      objNeeds (objKind (hist0 2)) (obj1 (sil0 [(silAddr 0 (0xa008 + 0x20 * 2), 4)] 0) 0 2) = some 128 ∧ objNeeds (objKind (hist0 2)) 0 = none ∧
      1 ≤ objSize (hist0 2) ∧ objBase (hist0 2) + objSize (hist0 2) ≤ 3584 ∧ objOverlaps (sil0 [(silAddr 0 (0xa008 + 0x20 * 2), 4)] 0) 0 2 (hist0 2) = false ∧
      128 ≤ 64 * objSize (hist0 2) ∧ objKind (hist0 2) ≠ 3) := by
  refine ⟨⟨⟨_, rfl, by decide, by decide⟩, ⟨_, List.mem_singleton.2 rfl, rfl⟩, by decide⟩, by decide, by decide, by decide⟩

/-- Objects 0 to 2 of kinds 0 to 2; trigger n in use with an action; function 0's export ring of 2^7 records at a PA, with a rate left or none. -/
def filt0 (action : Word) (lg : Word) (base : Word) (rate : Nat) : State :=
  let s := sil0 [(silAddr 0 0xa000, hist0 2), (silAddr 0 0xa008, 4), (silAddr 0 0xa020, hist0 2 + 0x10000), (silAddr 0 0xa028, 0x6200),
                 (silAddr 0 0xa040, hist0 2 + 0x20000), (silAddr 0 0xa048, 0x40), (silAddr 0 0xb000, 8 + action), (silAddr 0 (0xc000 + 24), base),
                 (silAddr 0 (0xc000 + 32), lg)] 1
  { s with dbg := { s.dbg with exportLeft := [(0, 0, rate)] } }

/-- The run at the head. -/
def frun0 : FilterRun :=
  { die := 0, slot := 1, vf := 0, supv := false, ev := { die := 0, code := 2, vf := 0, core := 0, fields := [1, 2, 3, 4, 5, 6, 7, 8] }, pc := 0,
    regs := List.replicate 8 3, count := 0 }

theorem test_meets_FilterPrograms :
    ((filt0 1 7 0x200040 1).dbg.runs = [frun0] ∧ frun0.supv = false ∧ filterOf (.filterAdd 1 2 (.reg 3)) frun0 = some (1, 6) ∧
      (∃ c, filterJump (.filterBeq 1 2 3) frun0 = some (c, 3) ∧ c) ∧ ∃ c, filterJump (.filterBne 1 2 3) frun0 = some (c, 3) ∧ ¬ c) ∧
    (objV (obj0 (filt0 1 7 0x200040 1) 0 0) = true ∧ objKind (obj0 (filt0 1 7 0x200040 1) 0 0) = 0 ∧ objKind (obj0 (filt0 1 7 0x200040 1) 0 1) = 1 ∧
      objV (obj0 (filt0 1 7 0x200040 1) 0 1) = true ∧ 1 < (obj1 (filt0 1 7 0x200040 1) 0 1).bits 11 8 ∧ objV (obj0 (filt0 1 7 0x200040 1) 0 2) = true ∧
      objKind (obj0 (filt0 1 7 0x200040 1) 0 2) = 2 ∧ objV (obj0 (filt0 1 7 0x200040 1) 0 63) = false ∧ frun0.reg 1 = 3 ∧
      objSize (obj0 (filt0 1 7 0x200040 1) 0 0) = 2 ∧ (frun0.reg 1).toNat < 8 * 2) ∧
    ((∀ a ∈ [1, 2, 3, 4], (tgctl (filt0 a 7 0 0) 0 0).bits 3 3 = 1 ∧ (tgctl (filt0 a 7 0 0) 0 0).bits 2 0 = a.toNat) ∧
      ctlGet (filt0 1 7 0 0) (silAddr 0 0xb008) = 0 ∧ (tgctl (filt0 1 7 0 0) 0 15).bits 3 3 = 0) ∧
    (expEnabled (filt0 1 6 0x200040 1) frun0 = false ∧ expEnabled (filt0 1 7 0x200040 1) frun0 = true ∧ expRoom (filt0 1 7 0x200040 1) frun0 = true ∧
      expRoom (filt0 1 7 0x200040 0) frun0 = false ∧ expPa (filt0 1 7 0x200040 1) frun0 = 0x200040 ∧ atHole (filt0 1 7 0x200040 1) 0x200040 = false ∧
      WritableLine (filt0 1 7 0x200040 1) (lineOf 0x200040) ∧ atHole (filt0 1 7 0xc000000000 1) 0xc000000000 = true ∧
      expPa (filt0 1 7 0xc000000000 1) frun0 = 0xc000000000) := by
  refine ⟨⟨rfl, rfl, by decide, ⟨_, rfl, by decide⟩, ⟨_, rfl, by decide⟩⟩, ⟨rfl, rfl, rfl, rfl, by decide, rfl, rfl, rfl, rfl, rfl, by decide⟩, ⟨?_, rfl, rfl⟩,
    ⟨by decide, by decide, by decide, by decide, by decide, by decide, ⟨by decide, by decide⟩, by decide, by decide⟩⟩
  intro a h
  simp only [List.mem_cons, List.not_mem_nil, or_false] at h
  rcases h with rfl | rfl | rfl | rfl <;> exact ⟨rfl, rfl⟩

theorem test_meets_FilterPrograms_exports : (filt0 1 7 0x200040 1).coh.dts = [] := rfl

/-! ### Recovery, the host, partitions -/

/-- Partition 0 in a state of R446, with a recovery state and the lines above. -/
def recov (st : Nat) (r : RepSt) : State := { part0 run0 st with rep := r }

/-- An image of partition 0, taken of a machine of its own at position 0 of the order log. -/
def image0 (complete : Bool) : Ckpt :=
  { part := 0, seqno := 3, logPos := 0, cells := [(0x200040, 9)], resident := [run0.th], eng := run0.eng, work := run0.wk, views := run0.vw, net := [],
    held := [], posted := [], doneLen := 0, complete := complete }

/-- An answer held behind position 1 of the log; an entry of the log of one thread's commit. -/
def heldA : HeldOut := { part := 0, upTo := 1, eff := .answer (.value 7) }
def entryA : LogEnt := { part := 0, identity := [1, 0], seq := 0, stamp := 5, core := 0, values := [] }

/-- The threads stand, or one is inside a chunk. -/
def inside0 : State := { part0 run0 1 with th := { run0.th with chunk := { run0.th.chunk with count := 1 } } }

/-- A dirty guarded line that the capture has to write back stands in core 0's L1, and others share it. -/
def unclean0 : State :=
  { part0 run0 1 with coh := { run0.coh with l1 := [{ line0 .G with dirty := 1 }], dir := [dirA .S none] } }

/-- A live image with one log entry behind it. -/
def rolled : State := recov 1 { run0.rep with ckpts := [image0 true], log := [entryA] }

theorem clusters_there : liveClusters rolled 0 ≠ [] := fun h => by
  have hm : 0 ∈ liveClusters rolled 0 := List.mem_filter.2 ⟨List.mem_filter.2 ⟨List.mem_range.2 (by omega), by decide⟩, rfl⟩
  rw [h] at hm; cases hm

/-- Which stages `Config.signatureHolds` accepts is open, so no concrete boot image can be shown to pass or to fail (notes/assumptions/17.md). -/
theorem test_meets_RecoverySteps :
    (pdState run0 0 ≠ 1 ∧ pdState run0 0 ≠ 3 ∧
      (∀ s ∈ [part0 run0 1, inside0, unclean0], pdState s 0 = 1 ∧ replayOf s 0 = none ∧ rollbackDue s 0 = false) ∧
      cutReady (part0 run0 1) 0 = true ∧ cutReady (cleanPart (done (part0 run0 1)) 0) 0 = true ∧
      (part0 run0 1).coh.l1 = [] ∧ (∀ u ∈ threads (part0 run0 1), redoneAt 0 u = false) ∧ cutReady inside0 0 = false ∧
      cutReady unclean0 0 = true ∧ cutReady (cleanPart (done unclean0) 0) 0 = false) ∧
    ((recov 1 { run0.rep with ckpts := [image0 false] }).rep.ckpts = [image0 false] ∧ (image0 false).part = 0 ∧ (image0 false).complete = false) ∧
    ((recov 1 { run0.rep with held := [heldA], log := [entryA] }).rep.held = [heldA] ∧ heldA.part = 0 ∧ heldA.eff = .answer (.value 7)) ∧
    (pdValid (part0 run0 1) 0 = true ∧ 0 ∉ (part0 run0 1).sys.interrupted ∧ lastCkpt (part0 run0 1) 0 = none ∧
      2 ≤ Assoc.getD (recov 1 { run0.rep with ckpts := [image0 true], rollbacks := [(0, 2)] }).rep.rollbacks 0 0) ∧
    (pdValid rolled 0 = true ∧ 0 ∉ rolled.sys.interrupted ∧ lastCkpt rolled 0 = some (image0 true) ∧ Assoc.getD rolled.rep.rollbacks 0 0 < 2 ∧
      imageBlocked rolled 0 (image0 true) = false ∧ covers rolled (validRemap rolled 0 []) (image0 true) = true ∧ rolled.coh.fencedCl = [] ∧
      liveClusters rolled 0 ≠ [] ∧ ((partLog rolled 0).drop (image0 true).logPos).head? = some entryA ∧ entryA.identity ≠ []) ∧
    (let s : State := { rolled with coh := { rolled.coh with fencedDie := [0] } }
     pdValid s 0 = true ∧ lastCkpt s 0 = some (image0 true) ∧ covers s (validRemap s 0 []) (image0 true) = false ∧
       validRemap s 0 [(0x200, 0x1800200)] = [(0x200, 0x1800200)] ∧ covers s [(0x200, 0x1800200)] (image0 true) = true) ∧
    ((part0 run0 1).sys.boot ≠ .off ∧ run0.sys.boot = .off) := by
  refine ⟨by decide, by decide, by decide, by decide,
    ⟨by decide, by decide, by decide, by decide, by decide, by decide, rfl, clusters_there, by decide, by decide⟩, by decide, by decide⟩

/-- A PA in a hole (R23). -/
def holePa : Nat := 0xc000000000

/-- The booted machine with a message for box 2 of core 0, its context switched in or not; a ticket request; what is held of the log. -/
def netted (resident : Bool) (q : List Nat) (log : List LogEnt) : State :=
  { part0 run0 1 with
    sys := { (part0 run0 1).sys with ticketQueue := q }
    coh := { run0.coh with net := [mesg0] }
    eng := { run0.eng with cc := [((0, 0), { CoreCtx.empty with resident := resident })] }
    rep := { run0.rep with log := log } }

/-- A message to device 1 from a partition that replays or not, with a route there or not; one from an old incarnation. -/
def leaving (rep : List Nat) (live : Bool) (inc : Nat) : State :=
  let s := netted true [] []
  { s with sys := { s.sys with ctl := (if live then [(0xc00, 0x8100)] else []) ++ s.sys.ctl }
           coh := { s.coh with net := [{ mesg0 with dev := 1, inc := inc }] }
           rep := { s.rep with replayParts := rep } }

theorem open_netted (q : List Nat) (hq : q = [] ∨ q = [1]) : OpenTo (netted true q []) 0 0x200040 8 := by
  refine ⟨by decide, by rcases hq with rfl | rfl <;> decide, rfl, ?_⟩
  intro c h; rw [show region (paLocal 0x200040) = .hbm 0 by decide] at h; cases h

theorem test_meets_HostAccesses_writes :
    (run0.sys.boot ≠ .booted ∧ (netted true [] []).sys.boot = .booted ∧ isControl holePa = false ∧ hostPart (netted true [] []) .pf holePa = none) ∧
    (hostPart (leaving [0] true 0) .pf 0x200040 = some 0 ∧ (leaving [0] true 0).sys.boot = .booted ∧ isControl 0x200040 = false ∧
      replayPart (leaving [0] true 0) 0 = true ∧ weightRefused (leaving [0] true 0) 0 0x200040 false = false) ∧
    (hostPart (netted true [] []) .pf 0x200040 = some 0 ∧ weightRefused (netted true [] []) 0 0x200040 true = false ∧ OpenTo (netted true [] []) 0 0x200040 8 ∧
      hostBehind (netted true [] []) 1 1 = false ∧
      (netted true [] []).sys.ticketQueue = [] ∧ (netted true [1] []).sys.ticketQueue ≠ [] ∧ hostPart (netted true [1] []) .pf 0x200040 = some 0 ∧
      OpenTo (netted true [1] []) 0 0x200040 8) ∧
    (let s : State := { netted true [] [] with agenda := [.hostWrite .pf 1 0 0x200080 [some 1]] }
     hostBehind s 1 1 = true ∧ s.sys.boot = .booted ∧ hostPart s .pf 0x200040 = some 0 ∧ oneLine 0x200040 8 = true ∧ outsideReady s 0 0x200040 = true) ∧
    (weightRefused (netted true [] []) 0 0x200040 false = false ∧ oneLine 0x200040 8 = true ∧ replayPart (netted true [] []) 0 = false ∧
      replayOf (netted true [] []) 0 = none ∧ lineHeld (netted true [] []) (lineOf 0x200040) = false ∧
      windowWaits (netted true [] []) (lineOf 0x200040) = false ∧ (netted true [] []).rep.skips = [] ∧
      ackedTo (netted true [] []) 0 (logPos (netted true [] []) 0) = true ∧ ackedTo (netted true [] [entryA]) 0 (logPos (netted true [] [entryA]) 0) = false) := by
  refine ⟨by decide, by decide, ⟨by decide, by decide, open_netted [] (.inl rfl), by decide, by decide, by decide, by decide, open_netted [1] (.inr rfl)⟩, by decide, by decide⟩

theorem test_meets_HostAccesses :
    (ctlBlock 4 = .hole ∧ ctlBlock 0x40010 = .ctx 0 2 ∧ ctlBlock 0x3900000 = .counters 0 ∧ ctlBlock 0xc00 = .part 0 0xc00 ∧ ctlBlock 0xff8 = .part 0 0xff8) ∧
    (1023 ≠ ownDev (netted true [] []) ∧ (waitsAs (.waiting (.route 3))).th.status = .waiting (.route 3) ∧ isLocal (netted true [] []) 0x200040 = true ∧
      partOfLine (netted true [] []) 0x200040 = some 0 ∧ pdJob (netted true [] []) 0 = 0 ∧ isWeight 0x200040 = false) ∧
    ((netted true [] []).coh.net = [mesg0] ∧ (∀ r ∈ [true, false], staleMesg (netted r [] []) mesg0 = false ∧ discarded (netted r [] []) mesg0 = false ∧
      mayMove (netted r [] []) mesg0 = r)) ∧
    (∀ r ∈ [true, false], let m : Mesg := { mesg0 with dev := 1 }
      (leaving [] r 0).coh.net = [m] ∧ staleMesg (leaving [] r 0) m = false ∧ discarded (leaving [] r 0) m = false ∧ mayMove (leaving [] r 0) m = r ∧
        m.dev ≠ ownDev (leaving [] r 0) ∧ m.srcDev = ownDev (leaving [] r 0)) ∧
    (let m : Mesg := { mesg0 with dev := 1 }
     staleMesg (leaving [0] true 0) m = false ∧ discarded (leaving [0] true 0) m = true) ∧
    (let m : Mesg := { mesg0 with dev := 1, inc := 3 }
     (leaving [] true 3).coh.net = [m] ∧ staleMesg (leaving [] true 3) m = true) ∧
    partOfCl (leaving [] true 0) 0 = some 0 := by
  refine ⟨by decide, by decide, by decide, by decide, by decide, by decide, by decide⟩

/-- A command that waits for a route. The weight store is closed to the host in the run state (R82, R443). -/
def routed0 : State := { part0 run0 1 with eng := { run0.eng with active := [{ cmd0 (2 ^ 248) none none with route := some 3 }] } }

theorem test_meets_HostAccesses_more :
    (hostPart (netted true [] []) .pf weightBase = some 0 ∧ isControl weightBase = false ∧ weightRefused (netted true [] []) 0 weightBase true = true ∧
      weightRefused (netted true [] []) 0 weightBase false = true ∧ (netted true [] []).sys.boot = .booted) ∧
    (routed0.eng.active.length = 1 ∧ (∀ c ∈ routed0.eng.active, c.route.isSome = true ∧ anyThread routed0 (engineClock c.cl) = none)) ∧
    (∀ x ∈ threads (part0 run0 1), x.chunk.used = []) ∧ pdJob (netted true [] []) 0 ≠ 1 := by decide

/-- Partition 0 with transitions, resizes and one image; a thread of it on core 0. -/
def parted (st : Nat) (tr : List (Nat × Transition)) (rs : List (Nat × List (Nat × Nat))) : State :=
  let s := recov st { run0.rep with ckpts := [image0 true] }
  { s with sys := { s.sys with transitions := tr, resizes := rs } }

/-- The same without the thread. -/
def empty0 (s : State) : State := { s with th := Thread.vacant }

/-- The machine booted, with the quarters of partition 0 chosen or not. -/
def fresh0 (w : Word) : State := { State.reset with sys := { State.reset.sys with boot := .booted, ctl := [(8, w)] } }

/-- A resize with a guarded line of a moved core still to be written back, its home busy. -/
def moving0 : State :=
  let s := empty0 (parted 1 [] [(0, [(0, 1)])])
  { s with coh := { s.coh with l1 := [{ line0 .G with dirty := 1 }], dir := [dirA .FW (some readA)] } }

/-- A retained checkpoint of no threads and a log of one entry. -/
def restore0 : Restore :=
  { ckpt := { image0 true with resident := [], eng := State.reset.eng, work := State.reset.wk, views := State.reset.vw }, log := [entryA] }

theorem test_meets_PartitionSteps :
    ((fresh0 0).sys.boot = .booted ∧ pdValid (fresh0 0) 0 = false ∧ (1 : Word).bits 0 0 = 1 ∧ partRefused (fresh0 0) 0 1 = true ∧
      pdValid (fresh0 0xffffffff0000ffff) 0 = false ∧ partRefused (fresh0 0xffffffff0000ffff) 0 1 = false) ∧
    (pdValid (part0 run0 0) 0 = true ∧ pdState (part0 run0 0) 0 = 0 ∧ pdState (part0 run0 2) 0 = 2 ∧ pdState (part0 run0 1) 0 = 1 ∧
      (part0 run0 1).th.status ≠ .vacant ∧ (part0 run0 1).th.part = 0) ∧
    (let s := fresh0 0xffffffff0000ffff
     let u := partitionCreateAt (done s) 0 1
     restorable u 0 restore0 = true ∧ (restore0.log.drop restore0.ckpt.logPos).head? = some entryA ∧ entryA.identity ≠ [] ∧
       restorable u 0 { restore0 with log := [], ckpt := { restore0.ckpt with logPos := 1 } } = false) ∧
    (Assoc.get (empty0 (parted 3 [(0, .toStopped)] [])).sys.transitions 0 = some .toStopped ∧ drained (empty0 (parted 3 [(0, .toStopped)] [])) 0 = true ∧
      cutReady (empty0 (parted 3 [(0, .toStopped)] [])) 0 = true ∧ replayOf (empty0 (parted 3 [(0, .toStopped)] [])) 0 = none ∧
      rollbackDue (empty0 (parted 3 [(0, .toStopped)] [])) 0 = false ∧
      cutReady (cleanPart (done (empty0 (parted 3 [(0, .toStopped)] []))) 0) 0 = true ∧
      Assoc.get (parted 3 [(0, .toStopped)] []).sys.transitions 0 = some .toStopped ∧ drained (parted 3 [(0, .toStopped)] []) 0 = false) ∧
    (Assoc.get (empty0 (parted 3 [(0, .toLoad)] [])).sys.transitions 0 = some .toLoad ∧ drained (empty0 (parted 3 [(0, .toLoad)] [])) 0 = true ∧
      Assoc.get (parted 3 [(0, .captured 3)] []).sys.transitions 0 = some (.captured 3) ∧
      ∃ c ∈ (parted 3 [(0, .captured 3)] []).rep.ckpts, c.part = 0 ∧ c.seqno = 3 ∧ c.complete = true) ∧
    ((∀ r ∈ (parted 1 [] []).sys.resizes, r.1 ≠ 0) ∧ movesCore (validMoves (parted 1 [] []) 0 [(0, 1)]) (parted 1 [] []).th.core = true ∧
      affects (validMoves (parted 1 [] []) 0 [(0, 1)]) (clusterOf (parted 1 [] []).th.core) = true) ∧
    (Assoc.get (parted 1 [] [(0, [(0, 1)])]).sys.resizes 0 = some [(0, 1)] ∧ movesDrained (parted 1 [] [(0, [(0, 1)])]) [(0, 1)] = false ∧
      movesDrained (empty0 (parted 1 [] [(0, [(0, 1)])])) [(0, 1)] = true ∧
      movesWriting (cleanL1 (done (empty0 (parted 1 [] [(0, [(0, 1)])]))) (movesCore [(0, 1)])) [(0, 1)] = false ∧
      movesWriting (cleanL1 (done moving0) (movesCore [(0, 1)])) [(0, 1)] = true ∧ movesDrained moving0 [(0, 1)] = true ∧
      Assoc.get moving0.sys.resizes 0 = some [(0, 1)] ∧ (empty0 (parted 1 [] [(0, [(0, 1)])])).eng.crews = [] ∧
      movesCore [(0, 1)] 0 = true) ∧
    ((1 : Word).bits 1 1 = 0 ∧ cdJob (fresh0 0) 0 = pdJob (fresh0 0) (cdPart (fresh0 0) 0) ∧ qtEn (fresh0 0) 65535 = false) := by
  refine ⟨by decide, by decide, by decide, by decide, ⟨by decide, by decide, by decide, image0 true, List.mem_singleton.2 rfl, rfl, rfl, rfl⟩, by decide, by decide,
    by decide⟩

/-! ### Encodings and steps -/

theorem test_meets_DecodeOfEncode : (Instr.addi (.reg 5) (.n 3) (-3)).wellFormed = true ∧ isFilter (.addi (.reg 5) (.n 3) (-3)) = false ∧
    (Instr.filterBr 63).wellFormed = true ∧ isFilter (.filterBr 63) = true := by decide

theorem test_meets_EncodeOfDecode : (∀ w ∈ ([0x20554ffd] : List Nat), w < 2 ^ 32) ∧ (decode [0x20554ffd]).toBool = true ∧
    (decodeFilter 0x485c0003).toBool = true := by decide

/-- A word of the thread's code at 0x1000, in frame 0; the order of moves and the steps due. -/
def coded (w : Nat) (sched : List Move) (agenda : List Event) : State :=
  { run0 with sched := sched, agenda := agenda
              mem := { run0.mem with frames := [{ core := 0, frame := 0, ctx := 0, block := 4 }]
                                     icells := ((leBytes 4 w).zipIdx.map (fun e => (e.2, e.1))).filter (fun e => e.2 ≠ 0) } }

theorem test_meets_StepRunsDecoded :
    (∃ u, readyThread { coded 0x20554ffd [.thread 1] [] with sched := [] } 1 = some u ∧ fetch u = .words [0x20554ffd] ∧
      decode [0x20554ffd] = .ok (.addi (.reg 5) (.n 3) (BitVec.ofInt 10 (-3)), 1) ∧
      comparators (latch u (.words [0x20554ffd])) (some (.addi (.reg 5) (.n 3) (BitVec.ofInt 10 (-3)))) = none) ∧
    (∃ u, readyThread { coded 0xfe000000 [.thread 1] [] with sched := [] } 1 = some u ∧ fetch u = .words [0xfe000000] ∧
      decode [0xfe000000] = .error .permanentlyIllegal ∧ comparators (latch u (.words [0xfe000000])) none = none) ∧
    (∃ u, readyThread { run0 with sched := [] } 1 = some u ∧ fetch u = .absent 0x1000 1 ∧ comparators (latch u (.absent 0x1000 1)) none = none) ∧
    ((coded 0 [.event 0] [.chunkEnd 1]).sched = [.event 0] ∧ (coded 0 [.event 0] [.chunkEnd 1]).agenda[0]? = some (.chunkEnd 1)) ∧
    (({ sil0 [] 1 with sched := [.filter 0] } : State).sched = [.filter 0] ∧ (sil0 [] 1).dbg.runs[0]? = some frun0 ∧
      runReady (sil0 [] 1) frun0 = true ∧ decodeFilter (filterWordAt (sil0 [] 1) 0 1 0) = .ok .filterEnd) ∧
    ((setRuns { run0 with sched := [.filter 1] } [frun0, { frun0 with slot := 2 }]).dbg.runs[1]? = some { frun0 with slot := 2 } ∧
      runReady (setRuns { run0 with sched := [.filter 1] } [frun0, { frun0 with slot := 2 }]) { frun0 with slot := 2 } = false) ∧
    (run0.sched = [] ∧ pickMove run0 = some (.thread 1) ∧ State.reset.sched = [] ∧ pickMove State.reset = none) := by
  refine ⟨⟨_, rfl, rfl, rfl, rfl⟩, ⟨_, rfl, rfl, rfl, rfl⟩, ⟨_, rfl, rfl, rfl⟩, by decide, ⟨rfl, by decide, by decide, rfl⟩, by decide, by decide⟩

theorem test_meets_MemoryStaysCanonical : Canonical State.reset ∧ step State.reset = .next State.reset := ⟨⟨rfl, rfl⟩, rfl⟩

end Sys2Proof.Tests
end

section
/-! SUPPORT AND PROOFS. Traps: what is said once of the word that saves a thread's state at a trap, of the fault record of a launch, of the
end of a thread, of the passing of a singleton; then the statements about delivery of a trap and return from it (R390-R395, R405). -/

namespace Sys2Proof.Machine

open Sys2Proof.Safety

/-! ### The words that a trap saves (R392) -/

/-- A pc that is a multiple of 4 is saved whole. -/
theorem and_not_three_of_mod_four {pc : Word} (h : pc.toNat % 4 = 0) : pc &&& ~~~3#64 = pc := by
  have low : ∀ i, i < 2 → pc.getLsbD i = false := by
    intro i hi
    have hbit := Nat.testBit_mod_two_pow pc.toNat 2 i
    rw [show 2 ^ 2 = 4 from rfl, h, Nat.zero_testBit, decide_eq_true hi, Bool.true_and] at hbit
    exact hbit.symm
  have mask : ∀ i, (3#64).getLsbD i = (decide (i < 64) && decide (i < 2)) := by
    intro i
    rw [BitVec.getLsbD_ofNat, show 3 = 2 ^ 2 - 1 from rfl, Nat.testBit_two_pow_sub_one]
  refine BitVec.eq_of_getLsbD_eq fun i hi => ?_
  rw [BitVec.getLsbD_and, BitVec.getLsbD_not, mask]
  by_cases h2 : i < 2
  · simp [low i h2]
  · simp [hi, h2]

theorem causeWord_toNat {t : Trap} {lvl : Nat} (so sup : Bool) (hc : t.cause < 256) (hs : t.sub < 256) (hu : t.usub < 256) (hl : lvl < 3) :
    (causeWord t lvl so sup).toNat =
      t.cause + t.sub * 2 ^ 8 + t.usub * 2 ^ 16 + sup.toNat * 2 ^ 32 + so.toNat * 2 ^ 33 + lvl * 2 ^ 34 := by
  have := Bool.toNat_le so
  have := Bool.toNat_le sup
  rw [causeWord, BitVec.toNat_ofNat, Nat.mod_eq_of_lt (by omega)]

/-- Each field of the cause word holds what was saved there; the bits between and above them are 0. -/
theorem causeWord_fields {t : Trap} {lvl : Nat} (so sup : Bool) (hc : t.cause < 256) (hs : t.sub < 256) (hu : t.usub < 256) (hl : lvl < 3) :
    let w := causeWord t lvl so sup
    w.bits 7 0 = t.cause ∧ w.bits 15 8 = t.sub ∧ w.bits 23 16 = t.usub ∧ w.bits 31 24 = 0 ∧ w.bits 32 32 = sup.toNat ∧
      w.bits 33 33 = so.toNat ∧ w.bits 35 34 = lvl ∧ w.bits 63 36 = 0 := by
  have := Bool.toNat_le so
  have := Bool.toNat_le sup
  simp only [Word.bits, bits, causeWord_toNat so sup hc hs hu hl]
  omega

/-! ### Delivery, by the level it goes to (R391) -/

theorem deliverTrap_kern {s : State} {t : Trap} (pc : Word) (h : s.th.a.level = 0 ∧ s.th.kern.handler ≠ 0 ∧ t.cause ≠ 0x11) :
    deliverTrap s t pc = { s with th := { s.th with
      a := { s.th.a with pc := s.th.kern.handler, level := 1, suppress := false }
      kern := bankWith s.th.kern pc (causeWord t s.th.a.level s.th.a.suppress s.th.a.sup) t
      chunk := Chunk.fresh { s.th.a with pc := s.th.kern.handler, level := 1, suppress := false }
      boundary := false, pendTrap := none, status := .running } } :=
  if_pos h

theorem deliverTrap_supv {s : State} {t : Trap} (pc : Word) (hk : ¬ (s.th.a.level = 0 ∧ s.th.kern.handler ≠ 0 ∧ t.cause ≠ 0x11))
    (hl : s.th.a.level < 2) (hh : s.th.supv.handler ≠ 0) :
    deliverTrap s t pc = { s with th := { s.th with
      a := { s.th.a with pc := s.th.supv.handler, level := 2, suppress := false, sup := true }
      supv := bankWith s.th.supv pc (causeWord t s.th.a.level s.th.a.suppress s.th.a.sup) t
      chunk := Chunk.fresh { s.th.a with pc := s.th.supv.handler, level := 2, suppress := false, sup := true }
      boundary := false, pendTrap := none, status := .running } } :=
  (if_neg hk).trans (if_pos ⟨hl, hh⟩)

theorem deliverTrap_double {s : State} {t : Trap} (pc : Word) (hk : ¬ (s.th.a.level = 0 ∧ s.th.kern.handler ≠ 0 ∧ t.cause ≠ 0x11))
    (hs : ¬ (s.th.a.level < 2 ∧ s.th.supv.handler ≠ 0)) : deliverTrap s t pc = doubleFault s t pc :=
  (if_neg hk).trans (if_neg hs)

/-- Return from a bank that a delivery has written gives the registers of before, at the saved pc (R394). -/
theorem returnFrom_bankWith {a a' : Arch} {b : TrapBank} {t : Trap} {pc : Word} (hc : t.cause < 256) (hs : t.sub < 256) (hu : t.usub < 256)
    (hl : a.level < 3) (hpc : pc.toNat % 4 = 0)
    (ha : { a' with pc := a.pc, level := a.level, suppress := a.suppress, sup := a.sup } = a) :
    returnFrom a' (bankWith b pc (causeWord t a.level a.suppress a.sup) t) = { a with pc := pc } := by
  obtain ⟨-, -, -, -, hsup, hso, hlvl, -⟩ := causeWord_fields a.suppress a.sup hc hs hu hl
  have bit (x : Bool) : (x.toNat == 1) = x := by cases x <;> rfl
  simp only [returnFrom, bankWith, hsup, hso, hlvl, bit, and_not_three_of_mod_four hpc]
  rw [← ha]

/-! ### The fault record of a launch (R405) -/

/-- A launch whose record takes a fault: the first fills it, each counts. -/
def Launch.withFault (t : Trap) (pc : Word) (core index : Nat) (l : Launch) : Launch :=
  { l with faults := some (match l.faults with
      | none => recordOf t pc core index
      | some f => { f with count := min (f.count + 1) (2 ^ 32 - 1) }) }

/-- The launches of a number with the fault in their records. -/
def withFault (s : State) (n : Nat) (t : Trap) (pc : Word) (core index : Nat) : State :=
  { s with wk := { s.wk with launches := s.wk.launches.map (fun l => if l.lnum = n then l.withFault t pc core index else l) } }

/-- Beside the record, logging a fault changes no more than an interrupt does. -/
theorem logFault_counts (s : State) (n : Nat) (t : Trap) (pc : Word) (core index : Nat) :
    Counts (withFault s n t pc core index) (logFault s n t pc core index) := by
  unfold logFault
  simp only
  split
  · exact Counts.vfInterrupt ..
  · exact Counts.refl _

@[simp] theorem logFault_th (s : State) (n : Nat) (t : Trap) (pc : Word) (core index : Nat) : (logFault s n t pc core index).th = s.th :=
  (logFault_counts ..).th
@[simp] theorem logFault_rest (s : State) (n : Nat) (t : Trap) (pc : Word) (core index : Nat) : (logFault s n t pc core index).rest = s.rest :=
  (logFault_counts ..).rest
@[simp] theorem logFault_mem (s : State) (n : Nat) (t : Trap) (pc : Word) (core index : Nat) : (logFault s n t pc core index).mem = s.mem :=
  (logFault_counts ..).mem

theorem launchOf_withFault (s : State) (n : Nat) (t : Trap) (pc : Word) (core index : Nat) :
    launchOf (withFault s n t pc core index) n = (launchOf s n).map (Launch.withFault t pc core index) := by
  have number (l : Launch) : (if l.lnum = n then l.withFault t pc core index else l).lnum = l.lnum := by split <;> rfl
  simp only [launchOf, withFault, List.find?_map, Function.comp_def, number]
  refine Option.map_congr fun l hl => if_pos ?_
  simpa using List.find?_some hl

theorem launchOf_logFault (s : State) (n : Nat) (t : Trap) (pc : Word) (core index : Nat) :
    launchOf (logFault s n t pc core index) n = (launchOf s n).map (Launch.withFault t pc core index) := by
  rw [← launchOf_withFault, launchOf, (logFault_counts ..).wk]
  rfl

/-- A record after more faults: it keeps the first, and its count does not fall, but for the greatest that it can hold. -/
def FaultRec.Keeps (f g : FaultRec) : Prop := g = { f with count := g.count } ∧ min f.count (2 ^ 32 - 1) ≤ g.count

theorem FaultRec.Keeps.refl (f : FaultRec) : f.Keeps f := ⟨rfl, Nat.min_le_left ..⟩

theorem FaultRec.Keeps.trans {f g h : FaultRec} (hg : f.Keeps g) (hh : g.Keeps h) : f.Keeps h := by
  obtain ⟨eg, cg⟩ := hg
  obtain ⟨eh, ch⟩ := hh
  refine ⟨by rw [eh, eg], by omega⟩

/-- The launch of a number has a record that goes on from `f`. -/
def RecordFrom (n : Nat) (f : FaultRec) (s : State) : Prop := ∃ l g, launchOf s n = some l ∧ l.faults = some g ∧ f.Keeps g

/-- What a step on the way to a thread's end leaves: other threads, memory, and the record of a launch but for more faults. -/
structure LogsOnly (n : Nat) (s u : State) : Prop where
  rest : u.rest = s.rest
  mem : u.mem = s.mem
  record : ∀ f, RecordFrom n f s → RecordFrom n f u

theorem LogsOnly.refl (n : Nat) (s : State) : LogsOnly n s s := ⟨rfl, rfl, fun _ h => h⟩

theorem LogsOnly.trans {n : Nat} {s u v : State} (h : LogsOnly n s u) (k : LogsOnly n u v) : LogsOnly n s v :=
  ⟨k.rest.trans h.rest, k.mem.trans h.mem, fun f hf => k.record f (h.record f hf)⟩

theorem logFault_logsOnly (s : State) (n : Nat) (t : Trap) (pc : Word) (core index : Nat) : LogsOnly n s (logFault s n t pc core index) := by
  refine ⟨logFault_rest .., logFault_mem .., ?_⟩
  rintro f ⟨l, g, hl, hg, hk⟩
  refine ⟨l.withFault t pc core index, { g with count := min (g.count + 1) (2 ^ 32 - 1) }, ?_, ?_, hk.trans ⟨rfl, ?_⟩⟩
  · rw [launchOf_logFault, hl, Option.map_some]
  · simp only [Launch.withFault, hg]
  · show min g.count _ ≤ min (g.count + 1) _
    omega

/-- After a fault is logged the launch's record goes on from the one that the fault filled or counted in. -/
theorem recordFrom_logFault {s : State} {n : Nat} {l : Launch} {f : FaultRec} (t : Trap) (pc : Word) (core index : Nat)
    (hl : launchOf s n = some l) (hf : (l.withFault t pc core index).faults = some f) : RecordFrom n f (logFault s n t pc core index) :=
  ⟨l.withFault t pc core index, f, by rw [launchOf_logFault, hl, Option.map_some], hf, .refl f⟩

/-! ### The end of a thread (R302, R391) -/

theorem foldl_logEngineFault_logsOnly (n core index : Nat) (l : List (Trap × Word)) (s : State) :
    LogsOnly n s (l.foldl (fun s f => logEngineFault s n f.1 f.2 core index) s) := by
  induction l generalizing s with
  | nil => exact .refl n s
  | cons f l ih => exact (logFault_logsOnly ..).trans (ih _)

theorem flushFaults_logsOnly (s : State) (t : Thread) : LogsOnly t.lnum s (flushFaults s t) := by
  obtain ⟨hrest, hmem, hrecord⟩ := foldl_logEngineFault_logsOnly t.lnum t.core t.index _ s
  exact ⟨hrest, hmem, hrecord⟩

theorem endThread_th (s : State) : (endThread s).th = { Thread.vacant with core := s.th.core, slot := s.th.slot } := rfl

theorem endThread_logsOnly (s : State) : LogsOnly s.th.lnum s (endThread s) := by
  obtain ⟨hrest, hmem, hrecord⟩ := flushFaults_logsOnly s s.th
  unfold endThread
  simp only
  split <;> exact ⟨hrest, hmem, hrecord⟩

theorem doubleFault_th (s : State) (t : Trap) (pc : Word) :
    (doubleFault s t pc).th = { Thread.vacant with core := s.th.core, slot := s.th.slot } := by
  have h : (endThread (logFault s s.th.lnum t pc s.th.core s.th.index)).th = { Thread.vacant with core := s.th.core, slot := s.th.slot } := by
    rw [endThread_th, logFault_th]
  unfold doubleFault
  cases s.th.fork <;> exact h

/-- A double fault logs its trap; the end of its thread may log more. -/
theorem doubleFault_logsOnly (s : State) (t : Trap) (pc : Word) :
    LogsOnly s.th.lnum (logFault s s.th.lnum t pc s.th.core s.th.index) (doubleFault s t pc) := by
  have h := endThread_logsOnly (logFault s s.th.lnum t pc s.th.core s.th.index)
  rw [logFault_th] at h
  obtain ⟨hrest, hmem, hrecord⟩ := h
  unfold doubleFault
  cases s.th.fork <;> exact ⟨hrest, hmem, hrecord⟩

theorem recordOf_count (t : Trap) (pc : Word) (core index : Nat) : (recordOf t pc core index).count = 1 := by
  unfold recordOf
  split <;> rfl

theorem recordOf_of_none {t : Trap} (pc : Word) (core index : Nat) (h : t.eng = none) :
    recordOf t pc core index = { trap := t, pc := pc, core := core, index := index, count := 1 } := by
  simp only [recordOf, h]

theorem recordOf_of_eng {t : Trap} (pc : Word) (core index : Nat) {w : Word} {c i : Nat} (h : t.eng = some (w, c, i)) :
    recordOf t pc core index = { trap := { t with i0 := w }, pc := t.i0, core := c, index := i, count := 1 } := by
  simp only [recordOf, h]

/-- The record of a launch that had none, after its thread was killed. -/
theorem doubleFault_first {s : State} {l : Launch} (t : Trap) (pc : Word) (hl : launchOf s s.th.lnum = some l) (hf : l.faults = none) :
    RecordFrom s.th.lnum (recordOf t pc s.th.core s.th.index) (doubleFault s t pc) :=
  (doubleFault_logsOnly s t pc).record _ (recordFrom_logFault t pc _ _ hl (by simp only [Launch.withFault, hf]))

/-- The record of a launch that had one, after its thread was killed. -/
theorem doubleFault_later {s : State} {l : Launch} {g : FaultRec} (t : Trap) (pc : Word) (hl : launchOf s s.th.lnum = some l)
    (hf : l.faults = some g) : RecordFrom s.th.lnum { g with count := min (g.count + 1) (2 ^ 32 - 1) } (doubleFault s t pc) :=
  (doubleFault_logsOnly s t pc).record _ (recordFrom_logFault t pc _ _ hl (by simp only [Launch.withFault, hf]))

/-! ### Passing between chunks (R103, R106, R394) -/

/-- The front thread with its instruction performed, at `pc` (R274, R402). -/
def Thread.advanced (t : Thread) (pc : Word) : Thread :=
  { t with
    a := { t.a with pc := pc, dist := t.a.dist + 1 + stallOfWords t.words, suppress := false }
    status := .running, kept := [], longMiss := false, waited := 0
    answer := if t.answered.isSome then none else t.answer }

/-- To advance is to move the front thread and to count. -/
theorem advance_counts (s : State) (pc : Word) :
    ∃ u, Counts s u ∧ advance s pc = { u with th := s.th.advanced pc } := by
  have retired := Counts.perfTh s s.th 2 1
  have counted : Counts s (if s.th.a.level = 0 then perfTh (perfTh s s.th 2 1) s.th 1 1 else perfTh s s.th 2 1) := by
    split
    · exact retired.trans (Counts.perfTh ..)
    · exact retired
  have traced : ∀ u, Counts s u → Counts s (if s.th.waited = 0 then u else postOnce u (.traceStateChange s.th.core)) := by
    intro u hu
    split
    · exact hu
    · exact hu.trans (Counts.postOnce ..)
  refine ⟨_, traced _ counted, ?_⟩
  unfold advance
  simp only [(traced _ counted).th, Thread.advanced]

/-- The front thread after it has passed as a singleton with a stamp, in a new chunk. -/
def passedSingle (s : State) (st : Nat) : Thread :=
  { s.th with
    a := { s.th.a with lastStamp := st }
    chunk := Chunk.fresh { s.th.a with lastStamp := st }
    boundary := false, seq := s.th.seq + 1
    status := match heldForChoice s s.th.uid with
      | some f => .waiting (.choice f)
      | none => s.th.status }

theorem replayStamp_of_noReplay {s : State} {t : Thread} (h : replayOf s t.part = none) (full : Bool) (st : Nat) :
    replayStamp s t full st = st := by
  cases full <;> simp [replayStamp, chunkLog, logLeft, h]

theorem logCommit_of_noReplay {s : State} {e : LogEnt} (h : replayOf s e.part = none) (full : Bool) :
    logCommit s e full = { s with rep := { s.rep with log := s.rep.log ++ [e] } } := by
  simp only [logCommit, h]

theorem replayOf_of_counts {s u : State} (h : Counts s u) (p : Nat) : replayOf u p = replayOf s p := by
  rw [replayOf, h.rep]
  rfl

/-- A singleton that has stored through no leaf passes, outside replay: the clock of its core and the order log move, and it is counted. -/
theorem passSingle_eq {s : State} (st : Nat) (hd : s.th.chunk.dirty = []) (hr : replayOf s s.th.part = none) :
    ∃ u log, Counts (setLc s s.th.core (max (lcOf s s.th.core) st)) u ∧
      passSingle s st = { u with th := passedSingle s st, rep := { u.rep with log := log } } := by
  have counted : ∀ u more, Counts u (if s.th.marked || s.th.leave
      then postOnce (silOfThread (perfTh u s.th 9 1) s.th 1 more) (.threadEviction s.th.uid)
      else silOfThread (perfTh u s.th 9 1) s.th 1 more) := by
    intro u more
    have event := (Counts.perfTh u s.th 9 1).trans (Counts.silOfThread _ s.th 1 more)
    split
    · exact event.trans (Counts.postOnce ..)
    · exact event
  unfold passSingle
  simp only [hd, List.foldl_nil, replayStamp_of_noReplay hr]
  refine ⟨_, _, counted _ _, logCommit_of_noReplay ?_ _⟩
  exact (replayOf_of_counts (counted _ _) _).trans hr

/-! ### Return (R394) -/

/-- The bank that a return reads. -/
def Thread.bank (t : Thread) : TrapBank := if t.a.level = 1 then t.kern else t.supv

/-- The registers after a return, with the result that it delivers after a `sysc` (R387). -/
def Thread.returned (t : Thread) : Arch :=
  let r := returnFrom (t.advanced t.bank.pc).a t.bank
  if t.a.level = 2 ∧ t.bank.cause.bits 7 0 = 0x11 then written r (destOfWord t.bank.i3.toNat) t.bank.i1 0 else r

@[simp] theorem Thread.returned_pc (t : Thread) : t.returned.pc = t.bank.pc := by
  unfold Thread.returned
  simp only
  split
  · rw [written_pc]
    rfl
  · rfl

/-- A return moves the front thread to the bank's pc with its registers, and counts; of the chunk no more than the logged inputs change. -/
theorem returnFront_eq (s : State) :
    ∃ u c, Counts s u ∧ c.dirty = s.th.chunk.dirty ∧
      returnFront s = { u with th := { s.th.advanced s.th.bank.pc with a := s.th.returned, chunk := c } } := by
  obtain ⟨u, hu, hadv⟩ := advance_counts s s.th.bank.pc
  have hbank : (if s.th.a.level = 1 then s.th.kern else s.th.supv) = s.th.bank := rfl
  unfold returnFront
  simp only [hbank, hadv, Thread.returned]
  by_cases hsysc : s.th.a.level = 2 ∧ s.th.bank.cause.bits 7 0 = 0x11
  · refine ⟨u, { s.th.chunk with logged := [s.th.bank.i1] }, hu, rfl, ?_⟩
    simp only [if_pos hsysc, pushResult, updArch, pushArch_written]
    rfl
  · refine ⟨u, s.th.chunk, hu, rfl, ?_⟩
    simp only [if_neg hsysc, updArch]
    rfl

theorem frameOf_of_mem {s t : State} (h : t.mem = s.mem) (core ctx pc : Nat) : frameOf t core ctx pc = frameOf s core ctx pc := by
  simp only [frameOf, h]

theorem fetch_absent {s : State} (h : frameOf s s.th.core (ctxOf s.th) s.th.a.pc.toNat = none) : fetch s = .absent s.th.a.pc 1 := by
  simp only [fetch, fetchWord, h, Option.map_none]

theorem needSingle_ok {s : State} (h : s.th.boundary = true) : needSingle s = .ok () s := by
  simp [needSingle, h]

/-- `eret` between chunks, outside replay: what it leaves in the registers, and what it leaves as it was. -/
theorem execEret_returns {s : State} (hb : s.th.boundary = true) (hd : s.th.chunk.dirty = []) (hr : replayOf s s.th.part = none)
    (hl : s.th.a.level ≠ 0) :
    ∃ t, execEret s = .next t ∧ t.th.a = { s.th.returned with lastStamp := lcOf s s.th.core + 1 } ∧ t.th.kern = s.th.kern ∧
      t.th.supv = s.th.supv ∧ t.th.seq = s.th.seq + 1 ∧ t.mem = s.mem ∧ t.rest = s.rest ∧
      (frameOf s s.th.core (ctxOf s.th) s.th.bank.pc.toNat = none → fetch t = .absent s.th.bank.pc 1) := by
  obtain ⟨u, c, hu, hc, hret⟩ := returnFront_eq s
  have hex : execEret s = .next (passSingle (returnFront s) (lcOf s s.th.core + 1)) := by
    refine perform_ok (r := .gone) (s1 := passSingle (returnFront s) (lcOf s s.th.core + 1)) ?_
    rw [M.get_bind, if_neg hl]
    exact (M.bind_ok (needSingle_ok hb)).trans rfl
  rw [hret] at hex
  obtain ⟨v, log, hv, hpass⟩ := passSingle_eq
    (s := { u with th := { s.th.advanced s.th.bank.pc with a := s.th.returned, chunk := c } })
    (lcOf s s.th.core + 1) (hc.trans hd) ((replayOf_of_counts hu _).trans hr)
  rw [hpass] at hex
  refine ⟨_, hex, rfl, rfl, rfl, rfl, hv.mem.trans hu.mem, hv.rest.trans hu.rest, fun hf => ?_⟩
  rw [fetch_absent]
  · exact congrArg (Fetched.absent · 1) (Thread.returned_pc s.th)
  · show frameOf _ s.th.core (ctxOf s.th) s.th.returned.pc.toNat = none
    rw [Thread.returned_pc]
    exact (frameOf_of_mem (hv.mem.trans hu.mem) ..).trans hf

/-- At level 0 there is no handler to return from (R394). -/
theorem execEret_level_zero {s : State} (h : s.th.a.level = 0) : execEret s = .next (raise s (trapOf s 0x05 5 0 0 0)) := by
  refine perform_error (e := .trap (trapOf s 0x05 5 0 0 0)) ?_ (by simp)
  rw [M.get_bind, if_pos h]
  exact M.bind_error (M.trapM_eq ..)

end Sys2Proof.Machine

namespace Sys2Proof.Traps

open Sys2Proof Sys2Proof.Machine Sys2Proof.Safety Sys2Proof.Claims

/-- Settles O9: the entry clauses are the two branches of `deliverTrap` with the fields of the cause word; the record of a killed thread's
launch goes on from the one that its trap filled or counted in. -/
theorem trapEntry : Obligations.TrapEntry := by
  unfold Obligations.TrapEntry
  refine ⟨fun s t pc hc hs hu hl3 => ⟨fun hk => ?_, fun hk hl hh => ?_⟩, fun s t pc l hls hn hkill => ?_⟩
  · obtain ⟨hcause, hsub, husub, hgap, hsup, hso, hlvl, htop⟩ := causeWord_fields s.th.a.suppress s.th.a.sup hc hs hu hl3
    exact ⟨_, _, deliverTrap_kern pc hk, rfl, rfl, rfl, rfl, rfl, rfl, rfl, hcause, hsub, husub, hgap, hsup, hso, hlvl.trans hk.1, htop⟩
  · exact ⟨_, _, deliverTrap_supv pc hk hl hh, rfl, rfl, rfl, rfl, rfl, rfl, rfl,
      causeWord_fields s.th.a.suppress s.th.a.sup hc hs hu hl3⟩
  · have hl : launchOf s s.th.lnum = some l := by simp [launchOf, hls, hn]
    have hk : ¬ (s.th.a.level = 0 ∧ s.th.kern.handler ≠ 0 ∧ t.cause ≠ 0x11) := by
      rcases hkill with h2 | ⟨-, h⟩
      · omega
      · exact h
    have hv : ¬ (s.th.a.level < 2 ∧ s.th.supv.handler ≠ 0) := by
      rcases hkill with h2 | ⟨h, -⟩
      · omega
      · exact fun hv => hv.2 h
    have ends := doubleFault_logsOnly s t pc
    rw [deliverTrap_double pc hk hv]
    refine ⟨doubleFault_th s t pc, ends.rest.trans (logFault_rest ..), ends.mem.trans (logFault_mem ..), ?_⟩
    cases hf : l.faults with
    | none =>
      obtain ⟨l', f, hl', hf', hsame, hcount⟩ := doubleFault_first t pc hl hf
      rw [recordOf_count] at hcount
      refine ⟨f, l', hl', hf', fun _ => ⟨by omega, fun he => ?_, fun w c i he => ?_⟩, fun g hg => nomatch hg⟩
      · rw [hsame, recordOf_of_none _ _ _ he]
        exact ⟨rfl, rfl, rfl, rfl⟩
      · rw [hsame, recordOf_of_eng _ _ _ he]
        exact ⟨rfl, rfl, rfl, rfl, rfl, rfl⟩
    | some g =>
      obtain ⟨l', f, hl', hf', hsame, hcount⟩ := doubleFault_later t pc hl hf
      refine ⟨f, l', hl', hf', fun hg => absurd hg (Option.some_ne_none g), ?_⟩
      rintro g' ⟨⟩
      refine ⟨by rw [hsame], by rw [hsame], ?_⟩
      exact (Nat.le_min.2 ⟨le_rfl, Nat.min_le_right ..⟩).trans hcount

/-- Settles O11: a bank that a delivery has written gives back what it saved; `eret` is the return from the bank of its level. -/
theorem returns : Obligations.Returns := by
  unfold Obligations.Returns
  refine ⟨fun s t pc hc hs hu hpc => ⟨fun hl hh ht => ?_, fun hl hh hk => ?_⟩, fun s hb hd hr hl => ?_, fun s d hb hd hr hl hdest => ?_,
    fun s hl => execEret_level_zero hl⟩
  · rw [deliverTrap_kern pc ⟨hl, hh, ht⟩]
    exact returnFrom_bankWith hc hs hu (by omega) hpc rfl
  · rw [deliverTrap_supv pc hk hl hh]
    exact returnFrom_bankWith hc hs hu (by omega) hpc rfl
  · have hbank : s.th.bank = s.th.kern := if_pos hl
    obtain ⟨t, hex, ha, hkern, hsupv, hseq, hmem, hrest, habsent⟩ := execEret_returns hb hd hr (by omega)
    have hret : s.th.returned = returnFrom (s.th.advanced s.th.kern.pc).a s.th.kern := by
      simp [Thread.returned, hbank, hl]
    rw [hbank] at habsent
    exact ⟨t, _, hex, ha, hret, hkern, hsupv, hseq, hmem, hrest, habsent⟩
  · have hbank : s.th.bank = s.th.supv := if_neg (by omega)
    obtain ⟨t, hex, ha, hkern, hsupv, -, hmem, hrest, habsent⟩ := execEret_returns hb hd hr (by omega)
    rw [hbank] at habsent
    refine ⟨t, _, hex, ha, ?_, hkern, hsupv, hmem, hrest, habsent⟩
    simp only [Thread.returned, hbank, hl, hdest, true_and]
    rfl

end Sys2Proof.Traps
end
